-- ==== Sys2Proof/Word.lean ====
section
/-!
DEFINITION. The word types of the LF-2560: the widths of Table 1.1 (R17, R18, R20) and the 256-bit bundle (R63).
-/
namespace Sys2Proof

/-- A byte of memory. -/
abbrev Byte := BitVec 8
/-- A scalar register (R17). -/
abbrev Word := BitVec 64
/-- A vector register: 256 bytes (R18). -/
abbrev Vec := BitVec 2048
/-- A predicate: one bit per byte of a vector register (R20). -/
abbrev Pred := BitVec 256
/-- A bundle of eight 32-bit slot words (R63). -/
abbrev Bundle := BitVec 256
/-- The four sticky floating-point flags in the places of DFLAGS (R34): NV 0, OF 1, UF 2, DZ 3. -/
abbrev FpFlags := BitVec 4

end Sys2Proof
end

