-- ==== Sys2Proof/Config.lean ====
section
/-!
DEFINITION. What the spec leaves open, as constants without a body (log entry 4, log entry 7): nothing in Lean can prove a
value of one. Each choice is applied to the counter State.fresh, so that every use is a fresh one.
-/
namespace Sys2Proof

/-- Whether a load that the lease cache may serve is served by it (R232). -/
opaque Config.useLease : Nat → Bool
/-- Whether a reduction to a global word enters its die's partial rather than the value (R241). -/
opaque Config.holdPartial : Nat → Bool
/-- The slice that the hash of its address gives a block of 256 bytes in its die (R339), taken modulo the number of slices. -/
opaque Config.l2Slice : Nat → Nat
/-- The set of its slice that a line has (R340), taken modulo the number of sets. -/
opaque Config.l2Set : Nat → Nat
/-- How many sectors the compressor stores a written line in, less 1 (R340), taken modulo 4. -/
opaque Config.l2Sectors : Nat → Nat
/-- What makes room for a line that enters a full set without growth, taken modulo the choices. -/
opaque Config.l2Victim : Nat → Nat
/-- Which line leaves a full lease cache, taken modulo its lines. -/
opaque Config.leaseVictim : Nat → Nat
/-- Which entry leaves a full translation cache, taken modulo its entries. -/
opaque Config.tlbVictim : Nat → Nat
/-- Which of the allowed entries a relaxed board take returns (R301), taken modulo their number. -/
opaque Config.relaxedPick : Nat → Nat
/-- Which two of the contributions at hand an unordered reduction combines (R224), taken modulo their number. -/
opaque Config.combinePick : Nat → Nat
/-- The HBM bytes that a context moved in a classifier window (R305). -/
opaque Config.windowBytes : Nat → Nat
/-- The errors that a patrol pass corrects (R345). -/
opaque Config.scrubbed : Nat → Nat
/-- Whether an image's RSA-3072 signature verifies against the Wenorn key of the fuses (R380). -/
opaque Config.imageVerifies : List Byte → Bool
/-- The security version of an image (R380). -/
opaque Config.imageSvn : List Byte → Nat
/-- Whether an image carries the RAISE flag (R380). -/
opaque Config.imageRaises : List Byte → Bool
/-- The RSASSA-PSS signature of a report under identity key n with a fresh salt (R384): 384 bytes. -/
opaque Config.sign : Nat → Nat → List Byte → BitVec 3072
/-- The frame of the spill area that holds a spilled line (R258, R343): the spec gives the area no address. -/
opaque Config.spillFrame : Nat → Nat
/-- Whether the unread launch record at a home outside the package names a code object (R331). -/
opaque Config.recordNames : Nat → Nat → Bool
/-- The public part of identity key n and its Wenorn certificate (Table 17.3). -/
opaque Config.publicKey : Nat → List Byte
/-- The identity key generated on entry to provisioned (Table 17.2). -/
opaque Config.newIdentity : Nat → Nat

/-- The virtual rank that owns a peer's frame, which a memory packet names (R361) and no table of the sender holds. -/
opaque Config.ownerRank : Nat → Nat → Nat

end Sys2Proof
end

