-- ==== Sys2Proof/Machine/Bits.lean ====
section
/-!
DEFINITION. Bit fields, sign extension, byte lists and vector elements (R3, R18, R20): the helpers every meaning uses.
-/
namespace Sys2Proof.Machine

/-- Bits lo to lo + len − 1 of a number (R3). -/
def field (w lo len : Nat) : Nat := w / 2 ^ lo % 2 ^ len

/-- Bit i of a number. -/
def bitAt (w i : Nat) : Bool := w / 2 ^ i % 2 == 1

/-- A Bool as 0 or 1. -/
def ofBool (b : Bool) : Nat := if b then 1 else 0

/-- The two's complement value of the low `w` bits of `x`. -/
def toSigned (w x : Nat) : Int :=
  let y := x % 2 ^ w
  if y < 2 ^ (w - 1) then (y : Int) else (y : Int) - (2 ^ w : Nat)

/-- The low `w` bits of an integer in two's complement. -/
def ofSigned (w : Nat) (x : Int) : Nat := (x % ((2 ^ w : Nat) : Int)).toNat

/-- Sign extension of a `w`-bit number to 64 bits. -/
def sext64 (w x : Nat) : Word := BitVec.ofNat 64 (ofSigned 64 (toSigned w x))

/-- Saturation of an integer to an interval. -/
def clampInt (lo hi x : Int) : Int := if x < lo then lo else if hi < x then hi else x

/-- Little-endian bytes of a number (R3): `n` of them, the lowest first. -/
def bytesOf : Nat → Nat → List Byte
  | 0, _ => []
  | n + 1, w => BitVec.ofNat 8 w :: bytesOf n (w / 256)

/-- The number that little-endian bytes hold (R3). -/
def ofBytes : List Byte → Nat
  | [] => 0
  | b :: bs => b.toNat + 256 * ofBytes bs

/-- `packElems w n f`: the number whose `w`-bit element i is `f i`, for i below n (R18). -/
def packElems (w : Nat) : Nat → (Nat → Nat) → Nat
  | 0, _ => 0
  | n + 1, f => f n % 2 ^ w * 2 ^ (w * n) + packElems w n f

/-- Element i of size s bytes of a vector register (R18). -/
def elem (v : Vec) (s i : Nat) : Nat := field v.toNat (8 * s * i) (8 * s)

/-- The number of elements of size s bytes in a register (R18). -/
def elemCount (s : Nat) : Nat := 256 / s

/-- Element i of size s is enabled (R20, R118). -/
def enabled (p : Pred) (s i : Nat) : Bool := bitAt p.toNat (i * s)

/-- Each set bit i of an element mask stands for s bytes: the byte mask of elements `f` of size s (R20). -/
def byteMask (s n : Nat) (f : Nat → Bool) : Pred :=
  BitVec.ofNat 256 (packElems s n (fun i => if f i then 2 ^ s - 1 else 0))

/-- The bits that a byte mask selects in a vector register. -/
def expandMask (m : Pred) : Vec :=
  BitVec.ofNat 2048 (packElems 8 256 (fun i => if bitAt m.toNat i then 255 else 0))

/-- `old` with the bytes of `new` that the mask selects (R118). -/
def mergeBytes (m : Pred) (new old : Vec) : Vec :=
  (new &&& expandMask m) ||| (old &&& ~~~ expandMask m)

/-- All bytes of a register. -/
def allBytes : Pred := BitVec.ofNat 256 (2 ^ 256 - 1)

/-- floor(log2 n), 0 for n = 0. -/
def log2 (n : Nat) : Nat := Nat.log2 n

/-- floor of the square root, one result bit per step from bit `k − 1` down. -/
def isqrtFrom : Nat → Nat → Nat → Nat
  | 0, _, r => r
  | k + 1, n, r =>
    let c := r + 2 ^ k
    if c * c ≤ n then isqrtFrom k n c else isqrtFrom k n r

/-- floor of the square root. -/
def isqrt (n : Nat) : Nat := isqrtFrom (log2 n / 2 + 1) n 0

/-- The first `n` naturals in ascending order. -/
def upTo : Nat → List Nat
  | 0 => []
  | n + 1 => upTo n ++ [n]

/-- The leading zero bits among the low `w` bits (R115). -/
def clzFrom : Nat → Nat → Nat
  | 0, _ => 0
  | w + 1, x => if bitAt x w then 0 else 1 + clzFrom w x

/-- The trailing zero bits among the low `w` bits (R115). -/
def ctzFrom : Nat → Nat → Nat
  | 0, _ => 0
  | w + 1, x => if x % 2 == 1 then 0 else 1 + ctzFrom w (x / 2)

/-- The one bits among the low `w` bits (R115). -/
def popcount : Nat → Nat → Nat
  | 0, _ => 0
  | w + 1, x => x % 2 + popcount w (x / 2)

end Sys2Proof.Machine
end

