-- ==== Sys2Proof/Machine/Sparse.lean ====
section
/-!
DEFINITION. Sparse storage: lists of (key, value) with strictly rising keys and, for memories and register files, no
entry equal to the value an unlisted key reads as. Equal contents are equal lists.
-/
namespace Sys2Proof.Machine

/-- Sparse storage keyed by Nat. -/
abbrev Sparse (α : Type) := List (Nat × α)

/-- The value at a key; `d` where the key is unlisted. -/
def spGet {α : Type} (d : α) : Sparse α → Nat → α
  | [], _ => d
  | (k, v) :: m, a => if a = k then v else spGet d m a

/-- The entry at a key, if one is listed. -/
def spFind {α : Type} : Sparse α → Nat → Option α
  | [], _ => none
  | (k, v) :: m, a => if a = k then some v else spFind m a

/-- The storage with a key's entry removed. -/
def spErase {α : Type} (m : Sparse α) (a : Nat) : Sparse α := m.filter (fun e => decide (e.1 ≠ a))

/-- The storage with an entry put at a key, whatever the value. -/
def spPut {α : Type} : Sparse α → Nat → α → Sparse α
  | [], a, x => [(a, x)]
  | (k, v) :: m, a, x =>
    if a < k then (a, x) :: (k, v) :: m else if a = k then (a, x) :: m else (k, v) :: spPut m a x

/-- The storage with a key set to a value; the default value is not listed. -/
def spSet {α : Type} [DecidableEq α] (d : α) (m : Sparse α) (a : Nat) (x : α) : Sparse α :=
  if x = d then spErase m a else spPut m a x

/-- The entries whose keys lie in [lo, hi) moved to keys counted from `base`. -/
def spSlice {α : Type} (m : Sparse α) (lo hi base : Nat) : Sparse α :=
  (m.filter (fun e => decide (lo ≤ e.1) && decide (e.1 < hi))).map (fun e => (e.1 - lo + base, e.2))

/-- The storage with every entry in [lo, hi) removed. -/
def spClear {α : Type} (m : Sparse α) (lo hi : Nat) : Sparse α :=
  m.filter (fun e => decide (e.1 < lo) || decide (hi ≤ e.1))

/-- The storage with the entries of another put over it. -/
def spMerge {α : Type} (m n : Sparse α) : Sparse α := n.foldl (fun acc e => spPut acc e.1 e.2) m

/-- Keys strictly rising from a bound. -/
def spRising {α : Type} : Nat → Sparse α → Bool
  | _, [] => true
  | lo, (k, _) :: m => decide (lo ≤ k) && spRising (k + 1) m

/-- The canonical form: keys strictly rising and no entry equal to the default. -/
def spWf {α : Type} [DecidableEq α] (d : α) (m : Sparse α) : Bool :=
  spRising 0 m && m.all (fun e => !decide (e.2 = d))

end Sys2Proof.Machine
end

