-- ==== Sys2Proof/Syntax.lean ====
section
/-!
DEFINITION. The instruction set as syntax: one constructor per row of spec/opcode_table.json. A slot word's constructor
carries the table's fields at their encoded widths, under the table's letters (every CTL word carries the stall count s
and the swap bits w, R66). An event's constructor carries the subject of the event.
-/
namespace Sys2Proof

/-- A Lumeus Link packet (Table 16.3). Node 65,536 stands for the host of PCI Express. `launch` is the sending launch with
its run (2 × handle + run) where the home reads or writes through the shadow of the launch, 0 otherwise: the spec binds it to
the version entry (R264) and gives it no header field (log entry 8). `stamp` names the task's sub-version among those of the
launch, `parents` the launches that it is nested in, nearest first (R243), and in an answer `deps` names the sub-versions
whose bytes were met (R244), all in the same way. A load request has as many payload bytes as it reads (R361); `wait` tells
what it asks for beyond a read: 1 a wait for equality with the payload, 2 for inequality, 3 a read in place of the wait that the
payload names by its tag, 4 that this wait be dropped (R186, R189; log entry 13), 5 a task control block for the hardware (R294). -/
structure Packet where
  kind : Nat
  vc : Nat
  src : Nat
  dst : Nat
  job : Nat
  rank : Nat
  srank : Nat
  addr : Nat
  tag : Nat
  launch : Nat
  stamp : Nat
  payload : List (BitVec 8)
  parents : List Nat := []
  deps : List Nat := []
  wait : Nat := 0
deriving DecidableEq, Repr

/-- What system software gives the stage manager when it creates a context (R58, R228, R258, R259, R302, R347, R353,
R377, Table 14.3). `area` is the address of the save area (R323). -/
structure ContextParams where
  job : Nat
  rank : Nat
  nranks : Nat
  key0 : Nat
  key1 : Nat
  clusters : Nat
  root : Nat
  chipBase : Nat
  chipSize : Nat
  wlog : Nat
  spill : Nat
  overflow : Nat
  allowance : Nat
  keep : Nat
  area : Nat
deriving DecidableEq, Repr

/-- A code object handed to the loader (R89): its bytes as one little-endian number, its length, and the virtual
address that its data section gets. -/
structure CodeImage where
  len : Nat
  bytes : Nat
  data : Nat
deriving DecidableEq, Repr

/-- What a wipe covers (Table 15.9). -/
inductive WipeTarget where
  | core (n : Nat)
  | cluster (n : Nat)
  | chip (base size : Nat)
  | frame (addr : Nat)
deriving DecidableEq, Repr

/-- A descriptor or parameter that system software writes through the stage manager and that has no behaviour of its own
(R228, R259, R365, R373, R374, R377, R388, Table 14.3). -/
inductive SysReg where
  | comm (ctx k : Nat)
  | qdesc (ctx q : Nat)
  | keepAllowance (ctx : Nat)
  | spillAllowance (ctx : Nat)
  | wlog (ctx : Nat)
  | drainWindow
  | killTokens
  | powerLimit
  | ringBase (ctx : Nat)
  | ringSize (ctx : Nat)
  | vectorEnable (vector : Nat)
  | exportFrame (frame : Nat)
deriving DecidableEq, Repr

/-- The instruction set: the 232 slot instructions and the 115 events of the opcode table. -/
inductive Instr where
  /-- NEXT (R105). -/
  | next (s : BitVec 4) (w : BitVec 3)
  /-- BR (R95). -/
  | br (s : BitVec 4) (w : BitVec 3) (c : BitVec 3) (x : BitVec 5) (f : BitVec 13)
  /-- BRP (R96). -/
  | brp (s : BitVec 4) (w : BitVec 3) (k : BitVec 1) (p : BitVec 3) (m : BitVec 2) (f : BitVec 15)
  /-- JMP (R97). -/
  | jmp (s : BitVec 4) (w : BitVec 3) (f : BitVec 21)
  /-- CALL (R97). -/
  | call (s : BitVec 4) (w : BitVec 3) (f : BitVec 21)
  /-- JMPX (R97). -/
  | jmpx (s : BitVec 4) (w : BitVec 3) (x : BitVec 5)
  /-- LOOP (R98). -/
  | loop (s : BitVec 4) (w : BitVec 3) (x : BitVec 5) (l : BitVec 12)
  /-- LOOPI (R98). -/
  | loopi (s : BitVec 4) (w : BitVec 3) (n : BitVec 12) (l : BitVec 9)
  /-- WAITC (R100). -/
  | waitc (s : BitVec 4) (w : BitVec 3) (n : BitVec 21)
  /-- TRAP (R102). -/
  | trap (s : BitVec 4) (w : BitVec 3) (c : BitVec 16)
  /-- ERET (R104). -/
  | eret (s : BitVec 4) (w : BitVec 3)
  /-- DONE (R106). -/
  | done (s : BitVec 4) (w : BitVec 3)
  /-- HALT (R107). -/
  | halt (s : BitVec 4) (w : BitVec 3)
  /-- BRK (R102). -/
  | brk (s : BitVec 4) (w : BitVec 3) (c : BitVec 16)
  /-- IWAIT (R101). -/
  | iwait (s : BitVec 4) (w : BitVec 3) (g : BitVec 12)
  /-- SCALAR_NOP (R65). -/
  | scalarNop
  /-- LUI (R108). -/
  | lui (i : BitVec 20) (d : BitVec 5)
  /-- ADDI (R108). -/
  | addi (i : BitVec 12) (s : BitVec 5) (d : BitVec 5)
  /-- SLTI (R108). -/
  | slti (i : BitVec 12) (s : BitVec 5) (d : BitVec 5)
  /-- SLTIU (R108). -/
  | sltiu (i : BitVec 12) (s : BitVec 5) (d : BitVec 5)
  /-- XORI (R108). -/
  | xori (i : BitVec 12) (s : BitVec 5) (d : BitVec 5)
  /-- ORI (R108). -/
  | ori (i : BitVec 12) (s : BitVec 5) (d : BitVec 5)
  /-- ANDI (R108). -/
  | andi (i : BitVec 12) (s : BitVec 5) (d : BitVec 5)
  /-- SLLI (R108). -/
  | slli (h : BitVec 6) (s : BitVec 5) (d : BitVec 5)
  /-- SRLI (R108). -/
  | srli (h : BitVec 6) (s : BitVec 5) (d : BitVec 5)
  /-- SRAI (R108). -/
  | srai (h : BitVec 6) (s : BitVec 5) (d : BitVec 5)
  /-- ADDIW (R108). -/
  | addiw (i : BitVec 12) (s : BitVec 5) (d : BitVec 5)
  /-- SLLIW (R108). -/
  | slliw (h : BitVec 5) (s : BitVec 5) (d : BitVec 5)
  /-- SRLIW (R108). -/
  | srliw (h : BitVec 5) (s : BitVec 5) (d : BitVec 5)
  /-- SRAIW (R108). -/
  | sraiw (h : BitVec 5) (s : BitVec 5) (d : BitVec 5)
  /-- ADD (R108). -/
  | add (t : BitVec 5) (s : BitVec 5) (d : BitVec 5)
  /-- SUB (R108). -/
  | sub (t : BitVec 5) (s : BitVec 5) (d : BitVec 5)
  /-- SLL (R108). -/
  | sll (t : BitVec 5) (s : BitVec 5) (d : BitVec 5)
  /-- SLT (R108). -/
  | slt (t : BitVec 5) (s : BitVec 5) (d : BitVec 5)
  /-- SLTU (R108). -/
  | sltu (t : BitVec 5) (s : BitVec 5) (d : BitVec 5)
  /-- XOR (R108). -/
  | xor (t : BitVec 5) (s : BitVec 5) (d : BitVec 5)
  /-- SRL (R108). -/
  | srl (t : BitVec 5) (s : BitVec 5) (d : BitVec 5)
  /-- SRA (R108). -/
  | sra (t : BitVec 5) (s : BitVec 5) (d : BitVec 5)
  /-- OR (R108). -/
  | or (t : BitVec 5) (s : BitVec 5) (d : BitVec 5)
  /-- AND (R108). -/
  | and (t : BitVec 5) (s : BitVec 5) (d : BitVec 5)
  /-- MUL (R108). -/
  | mul (t : BitVec 5) (s : BitVec 5) (d : BitVec 5)
  /-- MULH (R108). -/
  | mulh (t : BitVec 5) (s : BitVec 5) (d : BitVec 5)
  /-- MULHSU (R108). -/
  | mulhsu (t : BitVec 5) (s : BitVec 5) (d : BitVec 5)
  /-- MULHU (R108). -/
  | mulhu (t : BitVec 5) (s : BitVec 5) (d : BitVec 5)
  /-- DIV (R109). -/
  | div (t : BitVec 5) (s : BitVec 5) (d : BitVec 5)
  /-- DIVU (R109). -/
  | divu (t : BitVec 5) (s : BitVec 5) (d : BitVec 5)
  /-- REM (R109). -/
  | rem (t : BitVec 5) (s : BitVec 5) (d : BitVec 5)
  /-- REMU (R109). -/
  | remu (t : BitVec 5) (s : BitVec 5) (d : BitVec 5)
  /-- ADDW (R108). -/
  | addw (t : BitVec 5) (s : BitVec 5) (d : BitVec 5)
  /-- SUBW (R108). -/
  | subw (t : BitVec 5) (s : BitVec 5) (d : BitVec 5)
  /-- SLLW (R108). -/
  | sllw (t : BitVec 5) (s : BitVec 5) (d : BitVec 5)
  /-- SRLW (R108). -/
  | srlw (t : BitVec 5) (s : BitVec 5) (d : BitVec 5)
  /-- SRAW (R108). -/
  | sraw (t : BitVec 5) (s : BitVec 5) (d : BitVec 5)
  /-- MULW (R108). -/
  | mulw (t : BitVec 5) (s : BitVec 5) (d : BitVec 5)
  /-- DIVW (R109). -/
  | divw (t : BitVec 5) (s : BitVec 5) (d : BitVec 5)
  /-- DIVUW (R109). -/
  | divuw (t : BitVec 5) (s : BitVec 5) (d : BitVec 5)
  /-- REMW (R109). -/
  | remw (t : BitVec 5) (s : BitVec 5) (d : BitVec 5)
  /-- REMUW (R109). -/
  | remuw (t : BitVec 5) (s : BitVec 5) (d : BitVec 5)
  /-- LB (R110). -/
  | lb (i : BitVec 12) (s : BitVec 5) (d : BitVec 5)
  /-- LH (R110). -/
  | lh (i : BitVec 12) (s : BitVec 5) (d : BitVec 5)
  /-- LW (R110). -/
  | lw (i : BitVec 12) (s : BitVec 5) (d : BitVec 5)
  /-- LD (R110). -/
  | ld (i : BitVec 12) (s : BitVec 5) (d : BitVec 5)
  /-- LBU (R110). -/
  | lbu (i : BitVec 12) (s : BitVec 5) (d : BitVec 5)
  /-- LHU (R110). -/
  | lhu (i : BitVec 12) (s : BitVec 5) (d : BitVec 5)
  /-- LWU (R110). -/
  | lwu (i : BitVec 12) (s : BitVec 5) (d : BitVec 5)
  /-- SB (R110). -/
  | sb (i : BitVec 7) (t : BitVec 5) (s : BitVec 5) (j : BitVec 5)
  /-- SH (R110). -/
  | sh (i : BitVec 7) (t : BitVec 5) (s : BitVec 5) (j : BitVec 5)
  /-- SW (R110). -/
  | sw (i : BitVec 7) (t : BitVec 5) (s : BitVec 5) (j : BitVec 5)
  /-- SD (R110). -/
  | sd (i : BitVec 7) (t : BitVec 5) (s : BitVec 5) (j : BitVec 5)
  /-- SHW (R112). -/
  | shw (e : BitVec 2) (r : BitVec 2) (f : BitVec 2) (s : BitVec 5)
  /-- SHR (R112). -/
  | shr (e : BitVec 2) (r : BitVec 2) (f : BitVec 2) (d : BitVec 5)
  /-- BRLD (R113). -/
  | brld (b : BitVec 6) (s : BitVec 5)
  /-- BRST (R113). -/
  | brst (b : BitVec 6) (s : BitVec 5)
  /-- GETD (R114). -/
  | getd (i : BitVec 7) (j : BitVec 5) (d : BitVec 5)
  /-- SETD (R114). -/
  | setd (i : BitVec 7) (j : BitVec 5) (s : BitVec 5)
  /-- CLZ (R115). -/
  | clz (s : BitVec 5) (d : BitVec 5)
  /-- CTZ (R115). -/
  | ctz (s : BitVec 5) (d : BitVec 5)
  /-- POPC (R115). -/
  | popc (s : BitVec 5) (d : BitVec 5)
  /-- SPILLX (R116). -/
  | spillx (h : BitVec 5) (l : BitVec 3) (s : BitVec 5)
  /-- FILLX (R116). -/
  | fillx (h : BitVec 5) (l : BitVec 3) (d : BitVec 5)
  /-- LDF_W (R187). -/
  | ldfW (s : BitVec 5) (d : BitVec 5)
  /-- LDF_D (R187). -/
  | ldfD (s : BitVec 5) (d : BitVec 5)
  /-- LDFE_W (R187). -/
  | ldfeW (s : BitVec 5) (d : BitVec 5)
  /-- LDFE_D (R187). -/
  | ldfeD (s : BitVec 5) (d : BitVec 5)
  /-- LDT (R187). -/
  | ldt (s : BitVec 5) (d : BitVec 5)
  /-- STE_W (R187). -/
  | steW (t : BitVec 5) (s : BitVec 5)
  /-- STE_D (R187). -/
  | steD (t : BitVec 5) (s : BitVec 5)
  /-- STF_W (R187). -/
  | stfW (t : BitVec 5) (s : BitVec 5)
  /-- STF_D (R187). -/
  | stfD (t : BitVec 5) (s : BitVec 5)
  /-- SETE (R187). -/
  | sete (s : BitVec 5)
  /-- SETF (R187). -/
  | setf (s : BitVec 5)
  /-- BARI (R190). -/
  | bari (t : BitVec 5) (s : BitVec 5)
  /-- BARA (R190). -/
  | bara (t : BitVec 5) (s : BitVec 5)
  /-- BARW (R190). -/
  | barw (t : BitVec 5) (s : BitVec 5) (d : BitVec 5)
  /-- BARAW (R190). -/
  | baraw (t : BitVec 5) (s : BitVec 5) (d : BitVec 5)
  /-- BARC (R191). -/
  | barc (t : BitVec 5) (s : BitVec 5)
  /-- BART (R190). -/
  | bart (s : BitVec 5) (d : BitVec 5)
  /-- WAITV_EQ (R189). -/
  | waitvEq (t : BitVec 5) (s : BitVec 5) (d : BitVec 5)
  /-- WAITV_NE (R189). -/
  | waitvNe (t : BitVec 5) (s : BitVec 5) (d : BitVec 5)
  /-- AMOADD (R193). -/
  | amoadd (c : BitVec 2) (t : BitVec 5) (s : BitVec 5) (z : BitVec 1) (d : BitVec 5)
  /-- AMOSWAP (R193). -/
  | amoswap (c : BitVec 2) (t : BitVec 5) (s : BitVec 5) (z : BitVec 1) (d : BitVec 5)
  /-- AMOCAS (R194). -/
  | amocas (c : BitVec 2) (t : BitVec 5) (s : BitVec 5) (z : BitVec 1) (d : BitVec 5)
  /-- AMOAND (R193). -/
  | amoand (c : BitVec 2) (t : BitVec 5) (s : BitVec 5) (z : BitVec 1) (d : BitVec 5)
  /-- AMOOR (R193). -/
  | amoor (c : BitVec 2) (t : BitVec 5) (s : BitVec 5) (z : BitVec 1) (d : BitVec 5)
  /-- AMOXOR (R193). -/
  | amoxor (c : BitVec 2) (t : BitVec 5) (s : BitVec 5) (z : BitVec 1) (d : BitVec 5)
  /-- AMOMIN (R193). -/
  | amomin (c : BitVec 2) (t : BitVec 5) (s : BitVec 5) (z : BitVec 1) (d : BitVec 5)
  /-- AMOMAX (R193). -/
  | amomax (c : BitVec 2) (t : BitVec 5) (s : BitVec 5) (z : BitVec 1) (d : BitVec 5)
  /-- AMOMINU (R193). -/
  | amominu (c : BitVec 2) (t : BitVec 5) (s : BitVec 5) (z : BitVec 1) (d : BitVec 5)
  /-- AMOMAXU (R193). -/
  | amomaxu (c : BitVec 2) (t : BitVec 5) (s : BitVec 5) (z : BitVec 1) (d : BitVec 5)
  /-- AMOFADD (R193). -/
  | amofadd (c : BitVec 2) (t : BitVec 5) (s : BitVec 5) (d : BitVec 5)
  /-- REDADD (R196). -/
  | redadd (c : BitVec 2) (t : BitVec 5) (s : BitVec 5) (z : BitVec 1)
  /-- REDAND (R196). -/
  | redand (c : BitVec 2) (t : BitVec 5) (s : BitVec 5) (z : BitVec 1)
  /-- REDOR (R196). -/
  | redor (c : BitVec 2) (t : BitVec 5) (s : BitVec 5) (z : BitVec 1)
  /-- REDXOR (R196). -/
  | redxor (c : BitVec 2) (t : BitVec 5) (s : BitVec 5) (z : BitVec 1)
  /-- REDMIN (R196). -/
  | redmin (c : BitVec 2) (t : BitVec 5) (s : BitVec 5) (z : BitVec 1)
  /-- REDMAX (R196). -/
  | redmax (c : BitVec 2) (t : BitVec 5) (s : BitVec 5) (z : BitVec 1)
  /-- REDMINU (R196). -/
  | redminu (c : BitVec 2) (t : BitVec 5) (s : BitVec 5) (z : BitVec 1)
  /-- REDMAXU (R196). -/
  | redmaxu (c : BitVec 2) (t : BitVec 5) (s : BitVec 5) (z : BitVec 1)
  /-- REDFADD (R196). -/
  | redfadd (c : BitVec 2) (t : BitVec 5) (s : BitVec 5)
  /-- REDOFADD (R197). -/
  | redofadd (c : BitVec 2) (t : BitVec 5) (s : BitVec 5) (d : BitVec 5)
  /-- LDA (R198). -/
  | lda (c : BitVec 2) (s : BitVec 5) (z : BitVec 1) (d : BitVec 5)
  /-- STL (R198). -/
  | stl (c : BitVec 2) (t : BitVec 5) (s : BitVec 5) (z : BitVec 1)
  /-- FENCE (R199). -/
  | fence (c : BitVec 2) (k : BitVec 2)
  /-- TGET (R200). -/
  | tget (b : BitVec 1) (w : BitVec 1) (d : BitVec 5)
  /-- TDONE (R201). -/
  | tdone (s : BitVec 5)
  /-- TABORT (R201). -/
  | tabort (s : BitVec 5)
  /-- TSPAWN (R202). -/
  | tspawn (t : BitVec 5) (s : BitVec 5)
  /-- LAUNCH (R203). -/
  | launch (t : BitVec 5) (s : BitVec 5) (d : BitVec 5)
  /-- LWAIT (R204). -/
  | lwait (s : BitVec 5) (d : BitVec 5)
  /-- RAND (R205). -/
  | rand (d : BitVec 5)
  /-- VALU_NOP (R121). -/
  | valuNop
  /-- VADD (R122). -/
  | vadd (t : BitVec 3) (d : BitVec 4) (s : BitVec 4) (v : BitVec 4) (p : BitVec 3)
  /-- VSUB (R122). -/
  | vsub (t : BitVec 3) (d : BitVec 4) (s : BitVec 4) (v : BitVec 4) (p : BitVec 3)
  /-- VMUL (R122). -/
  | vmul (t : BitVec 3) (d : BitVec 4) (s : BitVec 4) (v : BitVec 4) (p : BitVec 3)
  /-- VMULH (R122). -/
  | vmulh (t : BitVec 3) (d : BitVec 4) (s : BitVec 4) (v : BitVec 4) (p : BitVec 3) (u : BitVec 1)
  /-- VMAC (R122). -/
  | vmac (t : BitVec 3) (d : BitVec 4) (s : BitVec 4) (v : BitVec 4) (p : BitVec 3)
  /-- VAND (R122). -/
  | vand (t : BitVec 3) (d : BitVec 4) (s : BitVec 4) (v : BitVec 4) (p : BitVec 3)
  /-- VOR (R122). -/
  | vor (t : BitVec 3) (d : BitVec 4) (s : BitVec 4) (v : BitVec 4) (p : BitVec 3)
  /-- VXOR (R122). -/
  | vxor (t : BitVec 3) (d : BitVec 4) (s : BitVec 4) (v : BitVec 4) (p : BitVec 3)
  /-- VSHL (R122). -/
  | vshl (t : BitVec 3) (d : BitVec 4) (s : BitVec 4) (v : BitVec 4) (p : BitVec 3) (i : BitVec 1) (a : BitVec 5)
  /-- VSHR (R122). -/
  | vshr (t : BitVec 3) (d : BitVec 4) (s : BitVec 4) (v : BitVec 4) (p : BitVec 3) (i : BitVec 1) (a : BitVec 5)
  /-- VSRA (R122). -/
  | vsra (t : BitVec 3) (d : BitVec 4) (s : BitVec 4) (v : BitVec 4) (p : BitVec 3) (i : BitVec 1) (a : BitVec 5)
  /-- VMIN (R122). -/
  | vmin (t : BitVec 3) (d : BitVec 4) (s : BitVec 4) (v : BitVec 4) (p : BitVec 3) (u : BitVec 1)
  /-- VMAX (R122). -/
  | vmax (t : BitVec 3) (d : BitVec 4) (s : BitVec 4) (v : BitVec 4) (p : BitVec 3) (u : BitVec 1)
  /-- VABS (R122). -/
  | vabs (t : BitVec 3) (d : BitVec 4) (s : BitVec 4) (p : BitVec 3)
  /-- VADDS (R122). -/
  | vadds (t : BitVec 3) (d : BitVec 4) (s : BitVec 4) (v : BitVec 4) (p : BitVec 3) (b : BitVec 1) (u : BitVec 1)
  /-- VFADD (R123). -/
  | vfadd (t : BitVec 3) (d : BitVec 4) (s : BitVec 4) (v : BitVec 4) (p : BitVec 3)
  /-- VFSUB (R123). -/
  | vfsub (t : BitVec 3) (d : BitVec 4) (s : BitVec 4) (v : BitVec 4) (p : BitVec 3)
  /-- VFMUL (R123). -/
  | vfmul (t : BitVec 3) (d : BitVec 4) (s : BitVec 4) (v : BitVec 4) (p : BitVec 3)
  /-- VFMA (R123). -/
  | vfma (t : BitVec 3) (d : BitVec 4) (s : BitVec 4) (v : BitVec 4) (p : BitVec 3)
  /-- VFMS (R123). -/
  | vfms (t : BitVec 3) (d : BitVec 4) (s : BitVec 4) (v : BitVec 4) (p : BitVec 3)
  /-- VFMIN (R123). -/
  | vfmin (t : BitVec 3) (d : BitVec 4) (s : BitVec 4) (v : BitVec 4) (p : BitVec 3)
  /-- VFMAX (R123). -/
  | vfmax (t : BitVec 3) (d : BitVec 4) (s : BitVec 4) (v : BitVec 4) (p : BitVec 3)
  /-- VFSGN (R123). -/
  | vfsgn (t : BitVec 3) (d : BitVec 4) (s : BitVec 4) (v : BitVec 4) (p : BitVec 3) (m : BitVec 2)
  /-- VCMP (R124). -/
  | vcmp (t : BitVec 3) (d : BitVec 3) (s : BitVec 4) (v : BitVec 4) (p : BitVec 3) (u : BitVec 1) (c : BitVec 3)
  /-- VSEL (R125). -/
  | vsel (t : BitVec 3) (d : BitVec 4) (s : BitVec 4) (v : BitVec 4) (p : BitVec 3)
  /-- VMOVI (R126). -/
  | vmovi (t : BitVec 3) (d : BitVec 4) (i : BitVec 4) (j : BitVec 4) (p : BitVec 3) (k : BitVec 8)
  /-- VMOVX (R126). -/
  | vmovx (t : BitVec 3) (d : BitVec 4) (p : BitVec 3) (x : BitVec 5)
  /-- VMOV (R126). -/
  | vmov (t : BitVec 3) (d : BitVec 4) (s : BitVec 4) (p : BitVec 3)
  /-- XMV (R126). -/
  | xmv (t : BitVec 3) (d : BitVec 4) (s : BitVec 4) (p : BitVec 3)
  /-- VSHUF4 (R127). -/
  | vshuf4 (t : BitVec 3) (d : BitVec 4) (s : BitVec 4) (p : BitVec 3)
  /-- VRAND (R136). -/
  | vrand (d : BitVec 4) (p : BitVec 3) (x : BitVec 5)
  /-- VPERM (R127). -/
  | vperm (t : BitVec 3) (d : BitVec 4) (s : BitVec 4) (v : BitVec 4) (p : BitVec 3) (z : BitVec 1)
  /-- VROT (R127). -/
  | vrot (t : BitVec 3) (d : BitVec 4) (s : BitVec 4) (p : BitVec 3) (a : BitVec 8)
  /-- VBCAST (R127). -/
  | vbcast (t : BitVec 3) (d : BitVec 4) (s : BitVec 4) (p : BitVec 3) (a : BitVec 8)
  /-- VZIP (R127). -/
  | vzip (t : BitVec 3) (d : BitVec 4) (s : BitVec 4) (v : BitVec 4) (p : BitVec 3) (h : BitVec 1)
  /-- VUZP (R127). -/
  | vuzp (t : BitVec 3) (d : BitVec 4) (s : BitVec 4) (v : BitVec 4) (p : BitVec 3) (h : BitVec 1)
  /-- VRSUM (R128). -/
  | vrsum (t : BitVec 3) (d : BitVec 4) (s : BitVec 4) (p : BitVec 3)
  /-- VRMAX (R128). -/
  | vrmax (t : BitVec 3) (d : BitVec 4) (s : BitVec 4) (p : BitVec 3)
  /-- VRMIN (R128). -/
  | vrmin (t : BitVec 3) (d : BitVec 4) (s : BitVec 4) (p : BitVec 3)
  /-- VCVT (R129). -/
  | vcvt (t : BitVec 3) (d : BitVec 4) (s : BitVec 4) (v : BitVec 4) (p : BitVec 3) (f : BitVec 5) (m : BitVec 3)
  /-- VPACK (R130). -/
  | vpack (t : BitVec 3) (d : BitVec 4) (s : BitVec 4) (v : BitVec 4) (p : BitVec 3) (f : BitVec 5) (m : BitVec 3)
  /-- VUNPK (R130). -/
  | vunpk (t : BitVec 3) (d : BitVec 4) (s : BitVec 4) (v : BitVec 4) (p : BitVec 3) (f : BitVec 5) (m : BitVec 3)
  /-- PLOG (R131). -/
  | plog (d : BitVec 3) (s : BitVec 3) (v : BitVec 3) (b : BitVec 4)
  /-- PCNT (R132). -/
  | pcnt (t : BitVec 3) (p : BitVec 3) (x : BitVec 5)
  /-- PFIRST (R132). -/
  | pfirst (t : BitVec 3) (p : BitVec 3) (x : BitVec 5)
  /-- PSET (R133). -/
  | pset (t : BitVec 3) (d : BitVec 3) (x : BitVec 5)
  /-- VSPILL (R134). -/
  | vspill (s : BitVec 4) (l : BitVec 8)
  /-- VFILL (R134). -/
  | vfill (d : BitVec 4) (l : BitVec 8)
  /-- VEXT (R135). -/
  | vext (t : BitVec 3) (i : BitVec 4) (s : BitVec 4) (j : BitVec 4) (x : BitVec 5)
  /-- VINS (R135). -/
  | vins (t : BitVec 3) (d : BitVec 4) (i : BitVec 4) (j : BitVec 4) (x : BitVec 5)
  /-- VEXP2 (R137). -/
  | vexp2 (t : BitVec 3) (d : BitVec 4) (s : BitVec 4) (p : BitVec 3)
  /-- VLOG2 (R137). -/
  | vlog2 (t : BitVec 3) (d : BitVec 4) (s : BitVec 4) (p : BitVec 3)
  /-- VRCP (R137). -/
  | vrcp (t : BitVec 3) (d : BitVec 4) (s : BitVec 4) (p : BitVec 3)
  /-- VRSQRT (R137). -/
  | vrsqrt (t : BitVec 3) (d : BitVec 4) (s : BitVec 4) (p : BitVec 3)
  /-- VSQRT (R137). -/
  | vsqrt (t : BitVec 3) (d : BitVec 4) (s : BitVec 4) (p : BitVec 3)
  /-- VTANH (R137). -/
  | vtanh (t : BitVec 3) (d : BitVec 4) (s : BitVec 4) (p : BitVec 3)
  /-- VERF (R137). -/
  | verf (t : BitVec 3) (d : BitVec 4) (s : BitVec 4) (p : BitVec 3)
  /-- ACR (R139). -/
  | acr (t : BitVec 3) (d : BitVec 4) (c : BitVec 2) (b : BitVec 1) (m : BitVec 3) (p : BitVec 3) (a : BitVec 2) (r : BitVec 6)
  /-- ACW (R140). -/
  | acw (t : BitVec 3) (c : BitVec 2) (s : BitVec 4) (p : BitVec 3) (a : BitVec 2) (r : BitVec 6)
  /-- ACS (R141). -/
  | acs (d : BitVec 4) (l : BitVec 1) (k : BitVec 2) (p : BitVec 3)
  /-- ACSW (R141). -/
  | acsw (l : BitVec 1) (k : BitVec 2) (s : BitVec 4) (p : BitVec 3)
  /-- VM_NOP (R70). -/
  | vmNop
  /-- VLD (R148). -/
  | vld (v : BitVec 5) (b : BitVec 6) (x : BitVec 5) (p : BitVec 3) (i : BitVec 8)
  /-- VST (R148). -/
  | vst (v : BitVec 4) (b : BitVec 6) (x : BitVec 5) (p : BitVec 3) (i : BitVec 8)
  /-- VLDS (R149). -/
  | vlds (v : BitVec 5) (b : BitVec 6) (x : BitVec 5) (p : BitVec 3) (i : BitVec 8)
  /-- VSTS (R149). -/
  | vsts (v : BitVec 4) (b : BitVec 6) (x : BitVec 5) (p : BitVec 3) (i : BitVec 8)
  /-- VGTH (R150). -/
  | vgth (v : BitVec 5) (b : BitVec 6) (x : BitVec 4) (p : BitVec 3) (i : BitVec 8)
  /-- VSCT (R150). -/
  | vsct (v : BitVec 4) (b : BitVec 6) (x : BitVec 4) (p : BitVec 3) (i : BitVec 8)
  /-- VLDL (R151). -/
  | vldl (v : BitVec 5) (x : BitVec 4) (p : BitVec 3) (i : BitVec 8)
  /-- VSTL (R151). -/
  | vstl (v : BitVec 4) (x : BitVec 4) (p : BitVec 3) (i : BitVec 8)
  /-- VLDF (R152). -/
  | vldf (v : BitVec 5) (b : BitVec 6) (x : BitVec 5) (p : BitVec 3) (i : BitVec 8)
  /-- VSTE (R152). -/
  | vste (v : BitVec 4) (b : BitVec 6) (x : BitVec 5) (p : BitVec 3) (i : BitVec 8)
  /-- VPUSH (R154). -/
  | vpush (v : BitVec 4) (q : BitVec 4)
  /-- VPOP (R154). -/
  | vpop (v : BitVec 5) (q : BitVec 4)
  /-- VSTB (R155). -/
  | vstb (v : BitVec 4) (b : BitVec 6) (x : BitVec 5) (p : BitVec 3) (i : BitVec 8)
  /-- VRED (R156). -/
  | vred (v : BitVec 4) (b : BitVec 6) (x : BitVec 5) (p : BitVec 3) (o : BitVec 5)
  /-- VPREF (R159). -/
  | vpref (b : BitVec 6) (x : BitVec 5) (p : BitVec 3) (i : BitVec 8)
  /-- MX_NOP (R71). -/
  | mxNop
  /-- MWL (R169). -/
  | mwl (q : BitVec 4) (l : BitVec 1)
  /-- MMA (R170). -/
  | mma (c : BitVec 2) (q : BitVec 4) (n : BitVec 6) (l : BitVec 1) (r : BitVec 6)
  /-- MMZ (R170). -/
  | mmz (c : BitVec 2) (q : BitVec 4) (n : BitVec 6) (l : BitVec 1) (r : BitVec 6)
  /-- MMG (R171). -/
  | mmg (c : BitVec 2) (q : BitVec 4) (n : BitVec 6) (l : BitVec 1) (z : BitVec 1) (r : BitVec 6)
  /-- MTL (R173). -/
  | mtl (c : BitVec 2) (q : BitVec 4) (n : BitVec 6) (l : BitVec 1) (m : BitVec 2) (r : BitVec 6)
  /-- MSM (R175). -/
  | msm (c : BitVec 2) (q : BitVec 4) (n : BitVec 6) (m : BitVec 2) (r : BitVec 6) (o : BitVec 2)
  /-- MCLR (R176). -/
  | mclr (c : BitVec 2) (z : BitVec 1)
  /-- MOUT (R178). -/
  | mout (c : BitVec 2) (q : BitVec 4) (n : BitVec 6) (m : BitVec 2) (r : BitVec 6)
  /-- MSIDE (R177). -/
  | mside (c : BitVec 2) (o : BitVec 2) (m : BitVec 2)
  /-- MWAIT (R179). -/
  | mwait (g : BitVec 1)
  /-- ST_NOP (R72). -/
  | stNop
  /-- CPY (R215). -/
  | cpy (m : BitVec 2) (s : BitVec 6) (d : BitVec 6) (x : BitVec 5) (t : BitVec 5)
  /-- CPYQ (R216). -/
  | cpyq (q : BitVec 4) (s : BitVec 6) (m : BitVec 2) (x : BitVec 5) (t : BitVec 5)
  /-- CPYO (R216). -/
  | cpyo (q : BitVec 4) (m : BitVec 2) (d : BitVec 6) (x : BitVec 5) (t : BitVec 5)
  /-- CWAIT (R221). -/
  | cwait (a : BitVec 1) (t : BitVec 5)
  /-- RINGI (R218). -/
  | ringi (q : BitVec 4) (x : BitVec 5)
  /-- WSET (R219). -/
  | wset (q : BitVec 4) (s : BitVec 6) (m : BitVec 2) (x : BitVec 5) (t : BitVec 5)
  /-- WADV (R220). -/
  | wadv (q : BitVec 4) (x : BitVec 5) (t : BitVec 5)
  /-- KPOST (R223). -/
  | kpost (k : BitVec 4) (s : BitVec 6) (r : BitVec 6) (x : BitVec 5) (t : BitVec 5)
  /-- KWAIT (R222). -/
  | kwait (x : BitVec 5) (t : BitVec 5)
  /-- OVL (R227). -/
  | ovl (x : BitVec 5) (t : BitVec 5)
  /-- PREF (R228). -/
  | pref (s : BitVec 6) (m : BitVec 2) (x : BitVec 5)
  /-- RES (R228). -/
  | res (k : BitVec 1) (s : BitVec 6)
  /-- RESULT_LAND (R80). -/
  | resultLand (core : Nat)
  /-- INTERLOCKED_RESULT_LAND (R81). -/
  | interlockedResultLand (core : Nat) (id : Nat)
  /-- WAITC_EXPIRE (R100). -/
  | waitcExpire (core : Nat)
  /-- WAITV_TIMEOUT (R189). -/
  | waitvTimeout (core : Nat)
  /-- LWB_REPLAY_LAND (R316). -/
  | lwbReplayLand (core : Nat)
  /-- BASE_REGION_LOAD (R426). -/
  | baseRegionLoad (core : Nat) (region : Nat)
  /-- OVL_REGION_WRITTEN (R227). -/
  | ovlRegionWritten (core : Nat) (tag : Nat) (region : Nat)
  /-- JOB_START (R209). -/
  | jobStart (core : Nat) (job : Nat)
  /-- RING_SLOT_CLAIM (R217). -/
  | ringSlotClaim (core : Nat) (job : Nat)
  /-- JOB_COMPLETE (R208). -/
  | jobComplete (core : Nat) (job : Nat)
  /-- JOB_FAULT (R212). -/
  | jobFault (core : Nat) (job : Nat)
  /-- MX_SLOT_RELEASE (R167). -/
  | mxSlotRelease (core : Nat)
  /-- MX_ROW_PUSH (R167). -/
  | mxRowPush (core : Nat)
  /-- MTL_STEP (R173). -/
  | mtlStep (core : Nat)
  /-- MX_FINISH (R179). -/
  | mxFinish (core : Nat)
  /-- IDLE_CORE_PASS (R303). -/
  | idleCorePass (core : Nat)
  /-- TASK_START (R16). -/
  | taskStart (core : Nat)
  /-- TASK_COMPLETE (R106). -/
  | taskComplete (core : Nat)
  /-- SUBVERSION_MERGE (R255). -/
  | subversionMerge (ctx : Nat) (launch : Nat) (slot : Nat)
  /-- ADMISSION_READ (R376). -/
  | admissionRead (ctx : Nat) (queue : Nat)
  /-- ADMISSION (R249). -/
  | admission (ctx : Nat) (launch : Nat)
  /-- LAUNCH_COMPLETE (R260). -/
  | launchComplete (ctx : Nat) (launch : Nat)
  /-- LAUNCH_COMMIT (R261). -/
  | launchCommit (ctx : Nat) (launch : Nat)
  /-- PREPARE_ACKNOWLEDGE (R262). -/
  | prepareAcknowledge (ctx : Nat) (launch : Nat) (holder : Nat)
  /-- PREPARE_TIMEOUT (R262). -/
  | prepareTimeout (ctx : Nat) (launch : Nat)
  /-- PREPARED_ACCESS_RESUME (R263). -/
  | preparedAccessResume (core : Nat)
  /-- REHEARSAL_COMPARE (R270). -/
  | rehearsalCompare (ctx : Nat) (launch : Nat)
  /-- VERSION_FREE (R252). -/
  | versionFree (die : Nat) (entry : Nat)
  /-- COLLECTIVE_COMPLETE (R225). -/
  | collectiveComplete (ctx : Nat) (comm : Nat)
  /-- CHUNK_COMPLETE (R226). -/
  | chunkComplete (ctx : Nat) (comm : Nat) (chunk : Nat)
  /-- LANE_BOUNDARY (R368). -/
  | laneBoundary (lane : Nat)
  /-- HOP_GRANT (R367). -/
  | hopGrant (cls : Nat) (phase : Nat)
  /-- PREEMPT_DECISION (R319). -/
  | preemptDecision (ctx : Nat) (newcomer : Nat) (launch : Nat)
  /-- DRAIN_WINDOW_EXPIRE (R321). -/
  | drainWindowExpire (core : Nat)
  /-- PARK (R428). -/
  | park (ctx : Nat)
  /-- SAVE_COMPLETE (R325). -/
  | saveComplete (ctx : Nat)
  /-- RESTORE (R324). -/
  | restore (ctx : Nat) (clusters : List Nat)
  /-- RESTORE_COMPLETE (R292). -/
  | restoreComplete (ctx : Nat)
  /-- WATCHDOG_FIRE (R327). -/
  | watchdogFire (ctx : Nat)
  /-- CONTEXT_KILL (R327). -/
  | contextKill (ctx : Nat)
  /-- CONTEXT_CREATE (R353). -/
  | contextCreate (ctx : Nat) (p : ContextParams)
  /-- PAGE_WALK_COMPLETE (R328). -/
  | pageWalkComplete (walk : Nat)
  /-- PAGE_PRESENT (R329). -/
  | pagePresent (ctx : Nat) (page : Nat)
  /-- ADDRESS_INVALID (R329). -/
  | addressInvalid (ctx : Nat) (page : Nat)
  /-- MAPPING_CHANGE (R330). -/
  | mappingChange (ctx : Nat) (place : Nat) (entry : Nat)
  /-- PAGE_MIGRATE (R349). -/
  | pageMigrate (ctx : Nat) (page : Nat) (frame : Nat)
  /-- CODE_LOAD (R90). -/
  | codeLoad (ctx : Nat) (o : CodeImage)
  /-- CODE_UNLOAD (R331). -/
  | codeUnload (id : Nat)
  /-- FORCED_UNLOAD (R331). -/
  | forcedUnload (id : Nat)
  /-- DBG_SET (R332). -/
  | dbgSet (ctx : Nat) (core : Nat) (index : Nat) (value : Nat)
  /-- DEBUG_RESUME (R334). -/
  | debugResume (core : Nat)
  /-- CODE_SAMPLE (R344). -/
  | codeSample (channel : Nat) (tdbi : Nat) (tltc : Nat)
  /-- CODE_CHANGE (R344). -/
  | codeChange (channel : Nat)
  /-- HEARTBEAT (R345). -/
  | heartbeat (stack : Nat)
  /-- HEARTBEAT_DEADLINE (R345). -/
  | heartbeatDeadline (stack : Nat)
  /-- TAKEOVER (R345). -/
  | takeover (stack : Nat)
  /-- PATROL_SCRUB (R345). -/
  | patrolScrub (stack : Nat)
  /-- WIPE (R350). -/
  | wipe (what : WipeTarget)
  /-- CLASSIFY_WINDOW (R305). -/
  | classifyWindow (ctx : Nat)
  /-- DEMOTE (R354). -/
  | demote (ctx : Nat) (area : Nat)
  /-- PROMOTE (R354). -/
  | promote (ctx : Nat) (area : Nat)
  /-- FLY_BIND (R356). -/
  | flyBind (ctx : Nat) (node : Nat) (accepted : Bool)
  /-- FLY_CANCEL (R356). -/
  | flyCancel (ctx : Nat)
  /-- FLY_SAVE (R356). -/
  | flySave (ctx : Nat)
  /-- FLY_SWITCH (R356). -/
  | flySwitch (ctx : Nat)
  /-- FLY_ABANDON (R356). -/
  | flyAbandon (ctx : Nat)
  /-- FLY_RELEASE (R356). -/
  | flyRelease (ctx : Nat)
  /-- RECREATE (R359). -/
  | recreate (ctx : Nat) (copy : Nat) (p : ContextParams)
  /-- REMOTE_STORE (R239). -/
  | remoteStore (p : Packet)
  /-- LOAD_REQUEST (R239). -/
  | loadRequest (p : Packet)
  /-- LOAD_RESPONSE (R239). -/
  | loadResponse (p : Packet)
  /-- ACKNOWLEDGEMENT (R239). -/
  | acknowledgement (p : Packet)
  /-- REFUSAL (R362). -/
  | refusal (p : Packet)
  /-- REMOTE_ATOMIC (R195). -/
  | remoteAtomic (p : Packet)
  /-- REMOTE_REDUCTION (R239). -/
  | remoteReduction (p : Packet)
  /-- CHORUS_UP_ORDERED (R372). -/
  | chorusUpOrdered (p : Packet)
  /-- CHORUS_UP_UNORDERED (R372). -/
  | chorusUpUnordered (p : Packet)
  /-- CHORUS_DOWN (R366). -/
  | chorusDown (p : Packet)
  /-- RESERVATION_REQUEST (R367). -/
  | reservationRequest (p : Packet)
  /-- GRANT (R367). -/
  | grant (p : Packet)
  /-- COMMIT_CONTROL (R264). -/
  | commitControl (p : Packet)
  /-- FLY_CONTROL (R356). -/
  | flyControl (p : Packet)
  /-- FLY_DATA (R356). -/
  | flyData (p : Packet)
  /-- FLIT_RETRANSMIT (R363). -/
  | flitRetransmit (port : Nat) (vc : Nat)
  /-- PORT_RETRAIN_FAIL (R363). -/
  | portRetrainFail (port : Nat)
  /-- ROUTE_SET (R360). -/
  | routeSet (node : Nat) (port : Nat)
  /-- NODE_NUMBER_SET (R360). -/
  | nodeNumberSet (node : Nat)
  /-- DOORBELL: the two words of the doubleword written, of which HEAD's is read-only (R375, Table 16.7). -/
  | doorbell (offset : Nat) (head : Nat) (tail : Nat)
  /-- BAR2_READ (R373). -/
  | bar2Read (addr : Nat) (len : Nat)
  /-- BAR2_WRITE (R373). -/
  | bar2Write (addr : Nat) (bytes : List (BitVec 8))
  /-- REGISTER_WRITE (R365). -/
  | registerWrite (reg : SysReg) (value : Nat)
  /-- COMPLETION_FREE (R377). -/
  | completionFree (ctx : Nat) (count : Nat)
  /-- STATUS (R382). -/
  | status
  /-- FW_STAGE (R381). -/
  | fwStage (off : Nat) (bytes : List (BitVec 8))
  /-- FW_COMMIT (R381). -/
  | fwCommit (len : Nat)
  /-- RESET (R382). -/
  | reset
  /-- LC_ADVANCE (R383). -/
  | lcAdvance (target : Nat)
  /-- REPORT (R384). -/
  | report (nonce : Nat) (ctx : Nat)
  /-- IDKEY (R382). -/
  | idkey
  /-- SET_LTOL (R386). -/
  | setLtol (value : Nat)
  /-- POWER_ON_RESET (R378). -/
  | powerOnReset
  /-- HOST_RESET (R378). -/
  | hostReset
  /-- BOOT_COMPLETE (R379). -/
  | bootComplete
  /-- LOW_POWER_ENTRY (R385). -/
  | lowPowerEntry
  /-- WAKE (R386). -/
  | wake
  /-- THROTTLE (R388). -/
  | throttle
  /-- CLOCK_RESTORE (R388). -/
  | clockRestore
  /-- THERMAL_TRIP (R388). -/
  | thermalTrip
  /-- LOGICAL_CLOCK_TICK (R232). -/
  | logicalClockTick (core : Nat)
  /-- POWER_LOSS (R381). -/
  | powerLoss
  /-- CONTEXT_RESUME (R327). -/
  | contextResume (ctx : Nat)
  /-- CONTEXT_FREE (R352). -/
  | contextFree (ctx : Nat)
  /-- DEBUGGER_ATTACH (R312). -/
  | debuggerAttach (ctx : Nat) (on : Bool)
  /-- DEBUG_CONTEXT_SAVE (R334). -/
  | debugContextSave (ctx : Nat)
  /-- COMMIT_OUTCOME_QUERY (R262). -/
  | commitOutcomeQuery (ctx : Nat) (launch : Nat) (holder : Nat)
deriving DecidableEq, Repr

end Sys2Proof
end

