-- ==== Sys2Proof/Machine/State.lean ====
section
/-!
DEFINITION. The machine state of a package (R11 to R42 and the state that the later chapters add), as plain data, with the
state after reset (R378), the faults and the refusals.
-/
namespace Sys2Proof.Machine

/-! ## Trap causes (Table 14.1) -/

/-- The trap causes of Table 14.1; `none` is code 0x00, an abort that no trap caused (R311). -/
inductive Cause where
  | none | illegal | scoreboard | align | bounds | translate | protect | footprint | region | tag | ring | ifetch
  | shadowFull | eccUncorr | watchdog | brk | swtrap
deriving DecidableEq, Repr

/-- The code of a cause (Table 14.1). -/
def Cause.code : Cause → Nat
  | .none => 0x00 | .illegal => 0x01 | .scoreboard => 0x02 | .align => 0x03 | .bounds => 0x04 | .translate => 0x05
  | .protect => 0x06 | .footprint => 0x07 | .region => 0x08 | .tag => 0x09 | .ring => 0x0A | .ifetch => 0x0B
  | .shadowFull => 0x0C | .eccUncorr => 0x0D | .watchdog => 0x0E | .brk => 0x0F | .swtrap => 0x10

/-! ## Per-core state (Table 1.1) -/

/-- A destination of R74. Vector and predicate files: `b` is true for the B cluster. -/
inductive Dest where
  | x (r : Nat)
  | v (b : Bool) (r : Nat)
  | p (b : Bool) (r : Nat)
  | acc (k : Nat)
  | dev (i : Nat)
  | shape (e r f : Nat)
  | spillV (s : Nat)
  | spillX (s : Nat)
  | record (n : Nat)
deriving DecidableEq, Repr

/-- What a landing writes. Predicates and vectors carry byte enables (R118). -/
inductive Payload where
  | x (r : Nat) (v : Word)
  | vec (b : Bool) (r : Nat) (v : Vec) (bytes : Pred)
  | pred (b : Bool) (r : Nat) (v : Pred)
  | accRow (k row : Nat) (v : Vec) (bytes : Pred)
  | side (cl : Bool) (k : Nat) (v : Vec) (bytes : Pred)
  | dev (i : Nat) (v : Word)
  | shape (e r f : Nat) (v : BitVec 32)
  | spillV (s : Nat) (v : Vec)
  | spillX (s : Nat) (v : Word)
  | record (n : Nat) (v : BitVec 256) (addr : Nat)
  | ringFilled (q : Nat)
  | ringFreed (q : Nat)
  | ringSet (q : Nat) (v : Word)
  | regionsClear (first count : Nat)
  | nothing
deriving DecidableEq, Repr

/-- A result in flight. A fixed-latency result has its due cycle (R80); an interlocked one has none and lands by its
event once no remote answer is awaited (`waits` is 0, R81). `age` orders issuing bundles; `replay` marks a late-write buffer entry after resume (R316). -/
structure Pending where
  id : Nat
  dest : Option Dest
  what : Payload
  due : Option Nat
  waits : Nat
  age : Nat
  flags : FpFlags
  replay : Bool
deriving DecidableEq, Repr

/-- A late-write buffer entry (R315): the result, the cycles remaining and the age of its bundle. -/
structure LwbEntry where
  dest : Option Dest
  what : Payload
  remaining : Nat
  age : Nat
  flags : FpFlags
deriving DecidableEq, Repr

/-- A hardware loop stack entry (R30, R98). -/
structure LoopEntry where
  first : Nat
  last : Nat
  count : Nat
deriving DecidableEq, Repr

/-- A window on a ring (R219): the record copy, COLS and the next row. -/
structure Window where
  record : BitVec 256
  cols : Nat
  next : Nat
deriving DecidableEq, Repr

/-- A ring descriptor with its counters and the positions of the next slot to read and to write (R27, R218). -/
structure Ring where
  base : Nat := 0
  slot : Nat := 0
  cap : Nat := 0
  fmt : Nat := 0
  filled : Nat := 0
  free : Nat := 0
  head : Nat := 0
  tail : Nat := 0
  win : Option Window := none
deriving DecidableEq, Repr

/-- The task-owned registers of a core. Vector register key: 16 × cluster + number. Predicate key: 8 × cluster + number,
p0 never listed. Shape key: 16 × engine + 4 × register + field. -/
structure Regs where
  x : Sparse Word := []
  v : Sparse Vec := []
  p : Sparse Pred := []
  shape : Sparse (BitVec 32) := []
  shadow : Sparse (BitVec 32) := []
  recs : Sparse (BitVec 256) := []
  recAddr : Sparse Nat := []
  loop : List LoopEntry := []
  rings : Sparse Ring := []
deriving DecidableEq, Repr

/-- The rank-owned memories of a core that have no address (R29, R151): spill slots and lane slices
(key 1024 × lane + word). -/
structure LocalMem where
  spillV : Sparse Vec := []
  spillX : Sparse Word := []
  slices : Sparse (BitVec 32) := []
deriving DecidableEq, Repr

/-- A weight plane (R22, R162): the format code, the packed columns and the scale bytes (key 8 × column + group). -/
structure Plane where
  fmt : Nat := 0
  cols : Sparse Vec := []
  scales : Sparse Nat := []
deriving DecidableEq, Repr

/-- The kinds of matrix operation in flight. -/
inductive MxKind where
  | mwl | mma | mmz | mmg | mtl | msm | mclr | mout | mside
deriving DecidableEq, Repr

/-- An issued matrix instruction (R166, R167): its operands, the shape field and the ring formats it read at issue, the
places of the rows it has claimed and not yet read (`slots`, `wslots`) or not yet pushed (`outs`), the rows read (first
read first), the cores that get its rows (MMG), the MTL step with whether that step has begun, and the flags so far. -/
structure MxOp where
  id : Nat
  kind : MxKind
  acc : Nat := 0
  out : Nat := 0
  ring : Nat := 0
  wring : Nat := 0
  plane : Nat := 0
  row : Nat := 0
  count : Nat := 0
  zero : Bool := false
  shape : BitVec 32 := 0
  fmt : Nat := 0
  wfmt : Nat := 0
  steps : Nat := 1
  step : Nat := 0
  stepping : Bool := false
  wclaimed : Bool := false
  reload : Bool := false
  gang : List Nat := []
  slots : List Nat := []
  wslots : List Nat := []
  outs : List Nat := []
  rows : List Nat := []
  wrows : List Nat := []
  flags : FpFlags := 0
deriving DecidableEq, Repr

/-- The matrix unit (R21, R22). Accumulator row key: 64 × k + row. A side register of cm left unlisted is 64 times −∞.
`busy` and `loadBusy` are the cycles from which the array and the load path accept work (R180). -/
structure MatrixUnit where
  acc : Sparse Vec := []
  cm : Sparse Vec := []
  cl : Sparse Vec := []
  planes : Sparse Plane := []
  queue : List MxOp := []
  busy : Nat := 0
  loadBusy : Nat := 0
  joined : Bool := false
  gangDone : Bool := false
deriving DecidableEq, Repr

/-- The device registers that belong to the core or its task (Table 1.5). -/
structure Dev where
  ctl : Word := 0
  est : Word := 0
  wto : Word := 0
  flags : FpFlags := 0
  rngc : Word := 0
  rngh : Word := 0
  tvec : Word := 0
  tcause : Word := 0
  tmask : Word := 0
  tbundle : Word := 0
  taddr : Word := 0
  tsave : Word := 0
  task : Word := 0
  wtoBit : Bool := false
  inh : Bool := false
  dcyc : Word := 0
deriving DecidableEq, Repr

/-- Sequencing (R79, R93, R100, R104): the next bundle, the cycle from which it is eligible, a WAITC deadline, the
handler's resume point, the age of the next bundle, and whether the comparators are ignored once (R334). -/
structure Ctl where
  pc : Nat := 0
  eligible : Nat := 0
  wait : Option Nat := none
  resume : Nat := 0
  age : Nat := 0
  skipBreak : Bool := false
deriving DecidableEq, Repr

/-- The instruction scratchpad (R42): bundles by index and the code-object tag of each valid region. -/
structure InstrMem where
  bundles : Sparse Bundle := []
  tags : Sparse Nat := []
deriving DecidableEq, Repr

/-- The waits of "Synchronisation, atomic and task instructions" and of tagged vector access. A TGET holds a block that it has
taken and for which no task slot is free (R253). -/
inductive SyncKind where
  | ldf (size : Nat) (empty : Bool)
  | ste (size : Nat) (v : Nat)
  | waitv (ne : Bool) (v : Nat) (deadline : Option Nat)
  | barw (gen : Nat)
  | tget (board wait : Bool) (held : Option Nat)
  | lwait (handle : Nat)
  | vldf
  | vste
  | fence (kind scope : Nat)
  | remote
  | waitvAway (ne : Bool) (v : Nat) (deadline : Option Nat) (tgt node addr va : Nat)
  | launch (queue : Nat)
deriving DecidableEq, Repr

/-- One word of a tagged vector access: its lane, its home and, for a store, the data. -/
structure TagElem where
  lane : Nat
  place : Nat
  data : Nat
deriving DecidableEq, Repr

/-- An instruction that has issued and is not yet performed (R184, R186): its kind, the home or barrier name it waits at,
the destination register, the remaining words of a vector access with the data read so far, and its place in the order of
arming (R188). -/
structure SyncOp where
  id : Nat
  kind : SyncKind
  place : Nat
  rd : Option Nat
  armed : Nat
  vdest : Option (Bool × Nat) := none
  elems : List TagElem := []
  got : Sparse Nat := []
  mask : Pred := 0
deriving DecidableEq, Repr

/-- The kinds of job (R208). -/
inductive JobKind where
  | cpy | cpyq | cpyo | wset | wadv | kpost | ovl
deriving DecidableEq, Repr

/-- Where a job stands: posted and waiting for conflicts (R209), running, or stopped at a fault. -/
inductive JobPhase where
  | posted | running | faulted
deriving DecidableEq, Repr

/-- A range of one space for a footprint (R209): the space code, and [lo, hi). -/
structure Range where
  space : Nat
  lo : Nat
  hi : Nat
deriving DecidableEq, Repr

/-- A stream job (R208 to R227): the tag while it holds one, the values it read at posting, and its progress. -/
structure Job where
  id : Nat
  tag : Option Nat
  kind : JobKind
  phase : JobPhase := .posted
  bundle : Nat
  src : BitVec 256 := 0
  dst : BitVec 256 := 0
  f0 : BitVec 32 := 0
  f1 : BitVec 32 := 0
  f2 : BitVec 32 := 0
  orgA : Nat := 0
  orgB : Nat := 0
  ring : Nat := 0
  rows : Nat := 0
  doneRows : Nat := 0
  setsFlags : Bool := false
  cols : Nat := 0
  coll : Option (Nat × Nat) := none
  first : Nat := 0
  regions : List Nat := []
  image : Nat := 0
  reads : List Range := []
  writes : List Range := []
  launch : Nat := 0
  run : Bool := false
  slot : Nat := 0
  acks : Nat := 0
  waits : Nat := 0
  data : List Host.Cell := []
deriving DecidableEq, Repr

/-- What a core runs. -/
inductive TaskKind where
  | point | block | resident
deriving DecidableEq, Repr

/-- Where a task stands: holding no slot yet (R253), loading base regions (R426), running, or ended by DONE or HALT and
draining (R106, R107). -/
inductive TaskPhase where
  | held | loading | running | ending (halt : Bool)
deriving DecidableEq, Repr

/-- A task on a core: its launch and run, its item (linear point index, or block address), its identity I (R59), its slot
once it has one, its kernel and promise (R307), and whether it is checkpointable (R320). -/
structure Task where
  launch : Nat
  run : Bool
  kind : TaskKind
  mode : Nat
  item : Nat
  ident : Nat
  slot : Option Nat
  entry : Nat
  code : Nat
  codeTag : Nat
  exact : Bool
  firstOvl : Nat
  ovls : Nat
  ckpt : Bool
  phase : TaskPhase
deriving DecidableEq, Repr

/-- What keeps a core from issuing beyond its own task (R13, R312, R321, R334). -/
inductive CoreStatus where
  | idle | running | trapped | held | stopped
deriving DecidableEq, Repr

/-- What a pre-emption decision chose for a core (Table 14.2). -/
inductive Outcome4 where
  | nothing | drain | kill | checkpoint
deriving DecidableEq, Repr

/-- A translation cache entry (R348, R349): the page and its target, node, address and permissions; `bad` marks a walk
that ended with TRANSLATE or PROTECT. -/
structure TlbEntry where
  page : Nat
  bits : Nat
  tgt : Nat
  node : Nat
  addr : Nat
  rd : Bool
  wr : Bool
  bad : Option Cause
deriving DecidableEq, Repr

/-- A lease cache line (R232): the write time, the lease, the bytes, and the view that loaded them (R243). -/
structure LeaseLine where
  wts : Nat
  lease : Nat
  data : BitVec 1024
  ctx : Nat
  launch : Nat
  run : Bool
deriving DecidableEq, Repr

/-- A word of a core's own SRAM that holds an uncorrectable error (R338): of a register, an accumulator, a spill slot, a record or
the shadow copy of a shape register, of a lane slice (key 1024 × lane + word), of the active copy of a shape register, or of the
instruction scratchpad (8 × bundle + slot). -/
inductive CoreWord where
  | file (d : Dest)
  | slice (key : Nat)
  | active (e r f : Nat)
  | instr (word : Nat)
deriving DecidableEq, Repr

/-- A physical core with the task state it holds. `now` counts its context cycles (R13). `acks` lists the tags of remote
stores not yet acknowledged (R199). `heldOn` names the prepared line that holds an access (R263). `bad` lists its own words
that hold an uncorrectable error (R338). -/
structure Core where
  ctx : Option Nat := none
  logical : Nat := 0
  status : CoreStatus := .idle
  now : Nat := 0
  task : Option Task := none
  regs : Regs := {}
  loc : LocalMem := {}
  mx : MatrixUnit := {}
  dev : Dev := {}
  ctl : Ctl := {}
  imem : InstrMem := {}
  pend : List Pending := []
  lwb : List LwbEntry := []
  sync : List SyncOp := []
  jobs : List Job := []
  tlb : List TlbEntry := []
  lease : Sparse LeaseLine := []
  pts : Nat := 0
  engPts : Nat := 0
  lastTick : Nat := 0
  nextId : Nat := 1
  acks : List Nat := []
  heldOn : Option Nat := none
  outcome : Outcome4 := .nothing
  drainBy : Option Nat := none
  bad : List CoreWord := []
deriving DecidableEq, Repr

/-! ## Launches (R247 to R309) -/

/-- A footprint entry (Table 11.1). -/
structure FootEntry where
  region : Nat
  cls : Nat
  kind : Nat
  size : Nat
  base : Nat
deriving DecidableEq, Repr

/-- A level descriptor (Table 12.3). -/
structure Level where
  domain : Nat
  scope : Nat
  order : Nat
  swz : Nat
  b : List Nat
deriving DecidableEq, Repr

/-- A launch record as admission reads it (Table 12.1). -/
structure LaunchRec where
  code : Nat
  entry : Nat
  arg : Nat
  mode : Nat
  flags : Nat
  cls : Nat
  tokens : Nat
  est : Nat
  budget : Nat
  ext : List Nat
  ndim : Nat
  ndep : Nat
  deps : List (List Int)
  tcb : Nat
  ntcb : Nat
  levels : List Level
  foot : List FootEntry
deriving DecidableEq, Repr

/-- Where a launch stands (R249, R260, R262, R270). -/
inductive Phase where
  | waiting | running | complete | preparing | ended
deriving DecidableEq, Repr

/-- Where a grid point stands: fired or released and on the board, taken by a core, re-run pending for TRANSLATE, or
checkpointed (R285, R290). -/
inductive PointState where
  | ready | running | pending | saved
deriving DecidableEq, Repr

/-- A released or in-flight grid point (R282, R285): its linear index, its traversal index, its state and run count, and
the page it waits for. -/
structure Point where
  idx : Nat
  t : Nat
  st : PointState
  runs : Nat
  page : Nat
deriving DecidableEq, Repr

/-- An open task slot (R253, R255): the slots it depends on, its logical core, whether its task has completed, and a number that no
other sub-version has. -/
structure Slot where
  num : Nat
  deps : List Nat
  core : Nat
  item : Nat
  kind : TaskKind
  completed : Bool
  stamp : Nat := 0
deriving DecidableEq, Repr

/-- The progress of one run of a launch: the release cursor, heights by row, points, run counts by linear index, blocks of
the launch and those checked (R295), open slots and ended resident programs. -/
structure RunState where
  cursor : Nat := 0
  heights : Sparse Nat := []
  points : List Point := []
  runs : Sparse Nat := []
  blocks : List Nat := []
  checked : List Nat := []
  slots : List Slot := []
  halted : List Nat := []
  started : Bool := false
deriving DecidableEq, Repr

/-- One byte of shadow (R254): its place in the memory order, the run and slot that wrote it, its home, its virtual address
and whether it lies in the spill area. -/
structure ShadowByte where
  seq : Nat
  run : Bool
  slot : Nat
  place : Nat
  va : Nat
  byte : Byte
  spilled : Bool
deriving DecidableEq, Repr

/-- Who placed a launch: the host with its record index, or a task with its launch, run and slot (R203, R376). -/
inductive Origin where
  | host (index : Nat)
  | child (parent : Nat) (run : Bool) (slot : Nat)
deriving DecidableEq, Repr

/-- A launch of a context (R249 to R270). `status` is the LWAIT word of Table 8.6, 0 while it has not ended. `holders` are
the prepare holders still to answer and `peers` those that hold its remote shadow (R262, R264): node + 131,072 × rank for a
rank of another package, 65,537 for die 1. `newcomer`: it was admitted while its context did not
run, and the context has not run since (R319, R428). `dropped` lists the discarded sub-versions whose bytes an answer from
another package may still carry (R244). `blockBytes` holds what the hardware wrote into task
control blocks for the runs of a rehearsal (R267; log entry 37). -/
structure Launch where
  handle : Nat
  queue : Nat
  desc : LaunchRec
  origin : Origin
  phase : Phase := .waiting
  status : Nat := 0
  a : RunState := {}
  b : RunState := {}
  shadow : List ShadowByte := []
  lwaits : List Nat := []
  completeAt : Nat := 0
  holders : List Nat := []
  peers : List Nat := []
  prepareBy : Nat := 0
  frontier : Nat := 0
  acks : Nat := 0
  marked : Bool := false
  newcomer : Bool := false
  dropped : List Nat := []
  blockBytes : List ShadowByte := []
deriving DecidableEq, Repr

/-! ## Logical time (R232) -/

/-- The logical times of a line, or of a barrier. -/
structure LineTime where
  wts : Nat := 0
  rts : Nat := 0
deriving DecidableEq, Repr

/-! ## Contexts (R11, R352) -/

/-- Residency (Table 16.1). -/
inductive Residency where
  | running | parked | green | flying | killed
deriving DecidableEq, Repr

/-- A queue descriptor (Table 16.6) and the doorbell tail (Table 16.7). `asked`: the record at HEAD lies in another package
or the host and has been asked for. -/
structure Queue where
  head : Nat := 0
  tail : Nat := 0
  base : Nat := 0
  logSize : Nat := 0
  en : Bool := false
  asked : Bool := false
deriving DecidableEq, Repr

/-- A communicator descriptor (Table 16.5). -/
structure Comm where
  map : Nat := 0
  nextSeq : Nat := 0
  size : Nat := 0
  pos : Nat := 0
  cls : Nat := 0
  en : Bool := false
deriving DecidableEq, Repr

/-- A named barrier (R31). `bytes` is the range that bytes mode counts (R191): virtual addresses for space 0, homes for a
local space. `time` is the logical time of its accesses, as of a line (R230, R232). -/
structure Barrier where
  target : Nat := 0
  count : Nat := 0
  gen : Nat := 0
  bytes : Option Range := none
  armed : Bool := false
  time : LineTime := {}
deriving DecidableEq, Repr

/-- Ready work: a grid point or a task control block. -/
inductive Work where
  | point (idx : Nat)
  | block (addr : Nat)
deriving DecidableEq, Repr

/-- A call-board or deque entry (R299, R300). `lo` and `hi` bound the logical cores of a point's instance. -/
structure Entry where
  launch : Nat
  run : Bool
  work : Work
  cls : Nat
  key : Nat
  seq : Nat
  lo : Nat
  hi : Nat
  overflow : Bool
deriving DecidableEq, Repr

/-- Work on a block that waits (R294, R295): joining the launch, a spawn with its key, one release, a release whose count the block's
home in another package brings down from `before`, the releases of a block from one successor on, the queuing of a re-run after its
run count rises for a cause (R296), the first queuing of a block whose successors from `next` on are still to be checked, or the
taking by a core. A write of a field, and the marking as KILLED with a cause, wait for a page too, and outlast the launch (R296). -/
inductive HeldKind where
  | join (initial : Bool)
  | spawn (key : Nat)
  | release
  | counted (before : Nat)
  | successors (next : Nat)
  | rerun (cause : Cause)
  | queue (initial : Bool) (next : Nat)
  | take
  | write (off size v : Nat)
  | kill (cause : Nat)
deriving DecidableEq, Repr

/-- What work on a block waits for: a page, or the answer of another package to the request with a tag. -/
inductive BlockWait where
  | page (page : Nat)
  | answer (tag : Nat)
deriving DecidableEq, Repr

/-- Work on a block held for a page (R295) or for the answer of the block's home in another package (R294): the launch and run,
the block, the queuing core's logical index and what it waits for. -/
structure HeldBlock where
  launch : Nat
  run : Bool
  addr : Nat
  logical : Nat
  wait : BlockWait
  kind : HeldKind
deriving DecidableEq, Repr

/-- A resident program without a slot that met an unmapped page (R329): its launch and run, its logical core, and the page it waits
for. -/
structure ResidentWait where
  launch : Nat
  run : Bool
  logical : Nat
  page : Nat
deriving DecidableEq, Repr

/-- 64 bytes of a block or of an array of successors in another package, as the hardware last read and wrote them for a run (R294):
their address, the sub-versions whose bytes the answer carried, and whether it has just come. -/
structure FarLine where
  launch : Nat
  run : Bool
  addr : Nat
  bytes : List Byte
  deps : List Nat
  fresh : Bool
deriving DecidableEq, Repr

/-- A code object loaded for a context (R89, R90). -/
structure CodeObj where
  id : Nat
  tag : Nat
  len : Nat
  bytes : Nat
  data : Nat
deriving DecidableEq, Repr

/-- A completion entry (Table 16.8): handle, status, queue and record index. -/
structure Completion where
  handle : Nat
  status : Nat
  queue : Nat
  index : Nat
deriving DecidableEq, Repr

/-- The host completion ring (R377): base and size in entries, entries in the ring, and entries held in the stage
manager. -/
structure CompRing where
  base : Nat := 0
  size : Nat := 0
  used : Nat := 0
  next : Nat := 0
  held : List Completion := []
deriving DecidableEq, Repr

/-- The watchdog states of Table 14.6. -/
inductive DogState where
  | off | armed | saving | fired
deriving DecidableEq, Repr

/-- A chunk step of the chorus (R366 to R368): the description of a collective sent to position 0, a rank's own bytes read
as a leaf (in the unordered form those of every rank of the package, combined), a tree node combined from its children, a node sent
towards the home of its parent, final bytes written here and sent to the package of a position, and what arrived in a slot of a phase
(0 up, 1 down) received: a node, or final bytes written into memory. -/
inductive StepKind where
  | announce
  | leaf
  | combine (level index : Nat)
  | up (level index : Nat)
  | deliver (pos : Nat)
  | receive (phase level index : Nat)
deriving DecidableEq, Repr

/-- A collective kept for a rank (R223 to R226): its parameters, records, the logical core that posted it, and progress.
`go` says that every rank has posted it alike, and `draining` that it faulted here and only serves the other ranks. `nodes` holds the values of tree nodes formed or received here by block, keyed
(((chunk × 17 + level) × 65,536 + index) × 256 + block), `staged` those that arrived and no lane has received yet, keyed 2 × that key + phase, with `counts`: how many contributions more
than one a block of the unordered form combines (R372), and `slots` the staging slots held for a node. `sent` lists the steps
made, `got` the receive bytes [lo, hi) that hold their final values, `flagged` the chunks complete. `data` holds send bytes
read from remote pages and `waits` counts those still to come. -/
structure Coll where
  k : Nat
  seq : Nat
  prm : Nat
  send : BitVec 256
  recv : BitVec 256
  f1 : BitVec 32
  f2 : BitVec 32
  f3 : BitVec 32
  launch : Nat
  run : Bool
  slot : Nat := 0
  core : Nat := 0
  bundle : Nat := 0
  started : Bool := false
  draining : Bool := false
  go : Bool := false
  done : Bool := false
  fault : Option (Cause × Nat) := none
  nodes : Sparse (List Byte) := []
  staged : Sparse (Nat × List Byte) := []
  counts : Sparse Nat := []
  slots : Sparse Nat := []
  sent : List (Nat × StepKind) := []
  got : List (Nat × Nat) := []
  flagged : List Nat := []
  acks : Nat := 0
  fetched : Bool := false
  waits : Nat := 0
  data : List Host.Cell := []
deriving DecidableEq, Repr

/-- A rank's description of a collective that reached position 0 before its own rank posted it (R225, R369): communicator,
sequence, position and description. -/
structure Notice where
  k : Nat
  seq : Nat
  pos : Nat
  text : Nat
deriving DecidableEq, Repr

/-- A code object taken by force (R331): its identifier and the tails of the queues at that moment, which bound the records
that were queued then. -/
structure Unloaded where
  id : Nat
  tails : Sparse Nat
deriving DecidableEq, Repr

/-- A context (R11) with the identity the runtime gave it, its partition, address space, queues, launches, ready work,
barriers, communicators, code objects, debugger state and save area. `dogPulse` tells that a pulse reached the watchdog in
this cycle (R326). `rung` lists the queues of the host's unread records in
the order of its TAIL writes (R249). Images are keyed by logical core; `imgMem`,
`imgTags` and `imgBarriers` hold the local memory and barrier files of the last save by saved location, and stay until the next
(R324). `positions` holds the frontier image of each live grid launch's run,
keyed 2 × handle + run (R290). `decided` holds the newcomer's TOKENS from a pre-emption decision until the save (R319), and `claim` marks the newcomer's
context until its restore (R325). `macs` and `intensity` are the
classifier's (R305): 16-bit multiply-accumulates in this window, and the class found last (0 memory-bound, 1 neutral,
2 compute-bound). `unloaded` lists the code objects taken from it by force (R331). `farLines` are lines of blocks in other packages
as the hardware last read and wrote them for live launches (R294). `residents` are resident programs that wait for a page (R329). -/
structure Ctx where
  job : Nat
  rank : Nat
  nranks : Nat
  key0 : Nat
  key1 : Nat
  state : Residency
  clusters : Nat
  part : List Nat := []
  root : Nat := 0
  chipBase : Nat := 0
  chipSize : Nat := 0
  queues : Sparse Queue := []
  rung : List Nat := []
  comms : Sparse Comm := []
  launches : List Launch := []
  nextHandle : Nat := 1
  deques : Sparse (List Entry) := []
  board : List Entry := []
  overflowCap : Nat := 0
  barriers : Sparse Barrier := []
  colls : List Coll := []
  notices : List Notice := []
  code : List CodeObj := []
  debugger : Bool := false
  dbg : Sparse Word := []
  hintDrops : Word := 0
  keepAllow : Nat := 0
  kept : List Nat := []
  spillCap : Nat := 0
  allowance : Nat := 0
  wlog : Nat := 26
  dog : DogState := .off
  dogCount : Nat := 0
  dogPulse : Bool := false
  ring : CompRing := {}
  area : Nat := 0
  images : Sparse Core := []
  imgMem : List Host.Cell := []
  imgTags : List Nat := []
  imgBarriers : Sparse Barrier := []
  positions : Sparse (List Byte) := []
  saving : Bool := false
  restoring : Bool := false
  decided : Option Nat := none
  claim : Bool := false
  faults : List Nat := []
  heldBlocks : List HeldBlock := []
  farLines : List FarLine := []
  residents : List ResidentWait := []
  macs : Nat := 0
  intensity : Nat := 1
  unloaded : List Unloaded := []
deriving DecidableEq, Repr

/-! ## Memory (R229 to R242, R336 to R350) -/

/-- Whose copy of a line the L2 holds: the committed line, a launch version's by run, or that of a launch of another
package for a rank here (R254, R264). -/
inductive LineOwner where
  | committed
  | launch (ctx handle : Nat) (run : Bool)
  | peer (dest node job rank handle : Nat)
deriving DecidableEq, Repr

/-- A line that the L2 holds (R340): its number, whose copy it is, the physical line of its set and the sectors it takes. -/
structure L2Line where
  line : Nat
  owner : LineOwner
  phys : Nat
  sectors : Nat
deriving DecidableEq, Repr

/-- An error that strikes the memories (R338, R343), an input from outside: corrected ones of a die's SRAM or of its HBM and
green room, or an uncorrectable one of memory at a place, of the L2's copy of a line, of a word of a core, or of a line that a context
has spilled to its spill area (R258). -/
inductive Upset where
  | corrected (die count : Nat) (dram : Bool)
  | place (p : Nat)
  | cached (p : Nat)
  | core (n : Nat) (w : CoreWord)
  | spill (ctx line : Nat)
deriving DecidableEq, Repr

/-- A per-die partial of a word in commutative-update state (R241). -/
structure Partial where
  place : Nat
  size : Nat
  op : Nat
  die : Nat
  value : Nat
deriving DecidableEq, Repr

/-- A contribution held at a home for its turn (R157, R197); one from another package keeps its packet. -/
structure Contribution where
  ordinal : Nat
  value : Nat
  ctx : Nat
  launch : Nat
  run : Bool
  slot : Nat
  va : Nat
  reply : Option Packet := none
deriving DecidableEq, Repr

/-- An open ordered reduction sequence at a word (R157): its name, the word, the next ordinal and what is held. -/
structure Sequence where
  name : Nat
  count : Nat
  place : Nat
  next : Nat
  held : List Contribution
deriving DecidableEq, Repr

/-- Heartbeat tracking (Table 15.5). -/
inductive HbState where
  | normal | taking | surrogate
deriving DecidableEq, Repr

/-- A stack's status (Tables 15.5, 15.6). -/
structure Stack where
  hb : HbState := .normal
  missed : Nat := 0
  late : Nat := 0
  scrub : Bool := false
  up : Bool := false
deriving DecidableEq, Repr

/-- A channel's code state (Table 15.4): the code in force (true for LTC), the second sample, and a change waiting for
the bursts in flight. -/
structure Channel where
  ltc : Bool := false
  second : Bool := false
  changing : Bool := false
deriving DecidableEq, Repr

/-- The per-die counters of Table 15.3. -/
structure DieCounters where
  casc : Nat := 0
  sramce : Nat := 0
  dramce : Nat := 0
  retired : Nat := 0
  codesw : Nat := 0
deriving DecidableEq, Repr

/-- A page-table walk asked for (R328): the context and page it walks for, and the die whose walkers take it. -/
structure Walk where
  ctx : Nat
  page : Nat
  die : Nat
deriving DecidableEq, Repr

/-- An entry of a die's translation cache (R349), tagged by its context. -/
structure DieTlbEntry where
  ctx : Nat
  entry : TlbEntry
deriving DecidableEq, Repr

/-- A range of places that the contexts of a job used last (R350): a core scratchpad stands for its whole core. -/
structure LastUse where
  base : Nat
  size : Nat
  job : Nat
deriving DecidableEq, Repr

/-- A version table entry of a die (R252, R262, R264): of a run of a launch here, or of one of another package. -/
structure Version where
  owner : LineOwner
  prepared : Bool
  committed : Bool
deriving DecidableEq, Repr

/-- The memory hardware beside the cells: the clock of the agents that have none of their own (log entry 60), the place in the
memory order of the last committed write of each byte that has a shadow (R254), logical times by line, partials, sequences, stacks, channels, counters, retired frames, the L2 by set (R340), walks in the order of
their arrival and the dies' translation caches, newest entry first (R349), version tables, task slots in use, frontier store in use, damaged places
(uncorrectable, `cached` of the L2's own copies, `badSpill` of spilled lines by context and line), the errors that the next clocks bring (log entry 57), and the job that
used each core, cluster, frame and chip range last, newest first (R350). -/
structure MemHw where
  pts : Nat := 0
  order : Sparse Nat := []
  lines : Sparse LineTime := []
  partials : List Partial := []
  seqs : List Sequence := []
  hbmStacks : Sparse Stack := []
  channels : Sparse Channel := []
  counters : Sparse DieCounters := []
  retired : List Nat := []
  l2 : Sparse (List L2Line) := []
  walks : List Walk := []
  tlb0 : List DieTlbEntry := []
  tlb1 : List DieTlbEntry := []
  versions0 : Sparse Version := []
  versions1 : Sparse Version := []
  slots : List Nat := []
  frontier0 : Nat := 0
  frontier1 : Nat := 0
  damaged : List Nat := []
  cached : List Nat := []
  badSpill : List (Nat × Nat) := []
  upsets : List (List Upset) := []
  lastUse : List LastUse := []
deriving DecidableEq, Repr

/-! ## The fabric, the chorus and the host (R351 to R377) -/

/-- A remote request that awaits its answer (R361, R362). `stamp` is the sub-version that made it, 0 for none; `home` is the home of
its bytes where later accesses of the core to them wait for it (R239). -/
structure Request where
  tag : Nat
  kind : Nat
  ctx : Nat
  core : Nat
  id : Nat
  off : Nat
  size : Nat
  signed : Bool
  launch : Nat
  job : Option Nat
  va : Nat
  slot : Nat
  bundle : Nat
  stamp : Nat
  home : Option Nat := none
deriving DecidableEq, Repr

/-- A byte of shadow kept for another package: its place in the memory order, the sub-version that wrote it, its home, its
value, the remote stores of it that bytes mode counts at the curtain (R191), and whether it lies in the spill area (R264). -/
structure PeerByte where
  seq : Nat
  stamp : Nat
  place : Nat
  byte : Byte
  count : Nat
  spilled : Bool
deriving DecidableEq, Repr

/-- Shadow kept here for a launch of another package (R239, R264): the rank here, its owner's node, job and rank, the run of
the launch (2 × handle + run), the bytes newest first, whether the home has prepared them, and the clock from which it asks the
owner for the outcome (R262). -/
structure PeerShadow where
  dest : Nat
  node : Nat
  job : Nat
  rank : Nat
  launch : Nat
  bytes : List PeerByte
  prepared : Bool
  askAt : Nat
deriving DecidableEq, Repr

/-- What is known here to have been given up of a launch of another package whose writes may still be on their way (R255, R266): the rank
here, its owner's node, job and rank, the run, and the sub-version, 0 for the whole run (log entry 39). -/
structure Gone where
  dest : Nat
  node : Nat
  job : Nat
  rank : Nat
  launch : Nat
  stamp : Nat
deriving DecidableEq, Repr

/-- An aborted run here whose writes to other packages are on their way (R266): its job and rank, the run, the peers that keep it in
mind, and the tags whose answers are awaited (log entry 39). -/
structure Farewell where
  job : Nat
  rank : Nat
  launch : Nat
  peers : List Nat
  tags : List Nat
deriving DecidableEq, Repr

/-- The phases of a fly at its source (Table 16.2). -/
inductive FlyPhase where
  | bind | wait | send | forward
deriving DecidableEq, Repr

/-- A fly in progress at its source: the context, the destination node, the phase, the number of the transfer, the clock of the last
progress of the transfer, whether its packets have been refused, whether the destination reports the context parked there, the
packets held between SAVE and SWITCH, and the destination's frames by the source's (R356, R358). -/
structure Fly where
  ctx : Nat
  node : Nat
  phase : FlyPhase
  id : Nat
  since : Nat := 0
  lost : Bool := false
  ready : Bool := false
  held : List Packet := []
  frames : Sparse Nat := []
deriving DecidableEq, Repr

/-- A page as SEND describes it: its virtual address, the bits of its offset, and its permissions. -/
structure CopyPage where
  va : Nat
  bits : Nat
  rd : Bool
  wr : Bool
deriving DecidableEq, Repr

/-- An entry for memory of a peer or of the host as SEND describes it (TGT 1 and 2): its virtual address and bits, and the target. -/
structure CopyEntry where
  va : Nat
  bits : Nat
  tgt : Nat
  node : Nat
  addr : Nat
  rd : Bool
  wr : Bool
deriving DecidableEq, Repr

/-- A context as it arrives by SEND (R356, R359): the sender and its number of the transfer, the resident slot reserved for it, the
CTXM of the source's code objects, the parts of the context so far, its pages and their bytes by virtual address, its entries for
other memory, and its chip scratchpad bytes and full tags by offset. -/
structure Copy where
  node : Nat
  id : Nat
  slot : Nat := 0
  ctxm : List Byte
  ctx : Ctx
  pages : List CopyPage := []
  bytes : List Host.Cell := []
  away : List CopyEntry := []
  chip : List Host.Cell := []
  tags : List Nat := []
  frames : List (Nat × Nat) := []
  area : Nat := 0
  live : Bool := false
  complete : Bool := false
deriving DecidableEq, Repr

/-- A flown context that is parked here, and whose source has not said yet that it has switched (R356, R357): its number, and the node
and the number of the fly. -/
structure Arrival where
  ctx : Nat
  node : Nat
  id : Nat
deriving DecidableEq, Repr

/-- An access of another agent held at its home (R263): a packet, or a read or write of the host; or a doorbell of the host behind
such a write (R240). -/
inductive HeldWhat where
  | packet (p : Packet)
  | hostRead (addr len : Nat)
  | hostWrite (addr : Nat) (bytes : List Byte)
  | doorbell (offset head tail : Nat)
deriving DecidableEq, Repr

/-- An access held for a line that a prepared version holds (R263), with its place. -/
structure HeldEvent where
  place : Nat
  what : HeldWhat
deriving DecidableEq, Repr

/-- A monitor of a doubleword here, armed for a WAITV of another package (R189): the packet that asked, the context here, the home, the
condition, and its place in the order of arming (R188). -/
structure Monitor where
  packet : Packet
  ctx : Nat
  place : Nat
  ne : Bool
  value : Nat
  armed : Nat
deriving DecidableEq, Repr

/-- Lumeus Link (R360 to R364): node number, routes (port by node), ports out of the routes, packets sent, packets of this package
that no route takes (R363), requests that await answers, shadow kept for peers, flies, arriving contexts with the code objects loaded
for each arriving slot, events held for prepared lines, monitors armed for other packages, what peers' launches have given up, and the
aborted runs whose writes are still on their way. -/
structure Link where
  node : Nat := 0xFFFF
  routes : Sparse Nat := []
  ports : List Nat := []
  out : List Packet := []
  lost : List Packet := []
  requests : List Request := []
  nextTag : Nat := 0
  peers : List PeerShadow := []
  gone : List Gone := []
  farewells : List Farewell := []
  flies : List Fly := []
  copies : List Copy := []
  arrived : List Arrival := []
  code : Sparse (List CodeObj) := []
  heldHere : List HeldEvent := []
  monitors : List Monitor := []
  nextFly : Nat := 1
  discarded : Nat := 0
  resent : Nat := 0
deriving DecidableEq, Repr

/-- A chunk step to be made: the rank's context, communicator, sequence, chunk, kind, class, the boundaries it has waited, and the clock
of its grant (R368). -/
structure ChunkStep where
  ctx : Nat
  k : Nat
  seq : Nat
  chunk : Nat
  kind : StepKind
  cls : Nat
  waited : Nat
  since : Nat := 0
deriving DecidableEq, Repr

/-- A request for a staging slot at this hop (R367): the node and virtual rank that ask, the rank here by its context, the
chunk node, and the clock of its arrival. -/
structure SlotRequest where
  node : Nat
  rank : Nat
  ctx : Nat
  k : Nat
  seq : Nat
  chunk : Nat
  level : Nat
  index : Nat
  since : Nat
deriving DecidableEq, Repr

/-- The chorus (R366): granted steps in the order of their grants, steps that await a grant of a next hop, requests by
pool (4 × phase + class), and the staging slots in use of each pool. -/
structure Chorus where
  steps : List ChunkStep := []
  asking : List ChunkStep := []
  requests : Sparse (List SlotRequest) := []
  used : Sparse Nat := []
  pts : Nat := 0
deriving DecidableEq, Repr

/-- An event that the stage manager posts to system software (R270, R312, R327, R329, R343, R345, R375). -/
inductive Event where
  | fault (ctx launch core cause mask bundle addr : Nat)
  | rehearsal (ctx launch entry region : Nat)
  | killed (ctx cause : Nat)
  | pageFault (ctx page : Nat)
  | pageTable (ctx page : Nat)
  | retired (frame : Nat) (ctxs : List Nat)
  | taken (stack : Nat)
  | overrun (ctx queue : Nat)
  | flown (ctx node : Nat)
  | portLost (port : Nat)
  | codeLoaded (ctx id : Nat)
  | codeRefused (ctx : Nat)
  | codeBusy (id : Nat)
  | codeUnloaded (id : Nat)
  | refused (what : Nat)
deriving DecidableEq, Repr

/-- The host port and the stage manager's mailbox (R373 to R377, R382). -/
structure HostPort where
  exported : List Nat := []
  command : Nat := 0
  status : Nat := 0
  result : List Byte := []
  vectors : List Nat := []
  enabled : List Nat := []
  written : List Completion := []
  events : List Event := []
  ignored : Nat := 0
  dropped : Nat := 0
  readData : List Byte := []
  nextCode : Nat := 1
deriving DecidableEq, Repr

/-! ## The platform (R378 to R388) -/

/-- Package power (Table 17.5): off, booting, active, a low-power state by depth 1 to 4, or tripped. -/
inductive Power where
  | off | booting | active | low (depth : Nat) | tripped
deriving DecidableEq, Repr

/-- Reset, life cycle, firmware, power and parameters. Fuses and flash survive a reset. `torn` marks a flash whose write was
broken off (R381); `idle` counts cycles of an idle package (R385). -/
structure Platform where
  power : Power := .booting
  ready : Bool := false
  recovery : Bool := false
  life : Nat := 2
  svn : Nat := 0
  minSvn : Nat := 0
  flash : List Byte := []
  staged : List Host.Cell := []
  writing : Bool := false
  torn : Bool := false
  boots : Nat := 0
  fwm : List Byte := []
  identity : Nat := 0
  ltol : Nat := 0
  idle : Nat := 0
  clockMHz : Nat := 1800
  powerLimit : Nat := 2100
  wd : Nat := 40000
  tk : Nat := 12
deriving DecidableEq, Repr

/-! ## Stepping -/

/-- A failing check of a slot (R76): slot, cause and address. -/
structure SlotFault where
  slot : Nat
  cause : Cause
  addr : Nat
deriving DecidableEq, Repr

/-- The bundle being issued: its core, the slot and the bundle index, whether a slot is held (R75), what its checks raised while
they are gathered (`probe`), whether its shape exchange has been made (R24), and whether its slots are past their readiness
tests. The model's own scratch, not the spec's (log entry 3). -/
structure Issue where
  core : Nat := 0
  slot : Nat := 0
  pc : Nat := 0
  held : Bool := false
  raised : List SlotFault := []
  probe : Bool := false
  swapped : Bool := false
  commit : Bool := false
deriving DecidableEq, Repr

/-- The whole package. `mem` is every memory with an address, by home location (Ops: place); `tags` lists the full words.
`seq` counts the memory order, `clock` the arithmetic clock, `fresh` the free values (log entry 4). `agenda` lists inputs
and chosen asynchronous events still to be taken, `none` for a step of the package's own between two of them; `turn` is the next core of the current clock; `delays` how many package
turns pass before internal events (log entry 5). -/
structure State where
  mem : List Host.Cell := []
  tags : List Nat := []
  cores : Sparse Core := []
  ctxs : Sparse Ctx := []
  hw : MemHw := {}
  link : Link := {}
  chorus : Chorus := {}
  host : HostPort := {}
  plat : Platform := {}
  issue : Issue := {}
  agenda : List (Option Instr) := []
  turn : Nat := 0
  delays : List Nat := []
  clock : Nat := 0
  seq : Nat := 0
  fresh : Nat := 0
deriving DecidableEq, Repr

/-- Faults: the machine stops. -/
inductive Fault where
  /-- The package has no power or has tripped at 110 °C (R381, R388): raised by step when nothing of the agenda restores
  it. Safe: the spec gives a stopped package no step. -/
  | packageStopped
deriving DecidableEq, Repr

/-- Refusals: no meaning. -/
inductive Refusal where
  /-- An instruction whose meaning is not written yet, by mnemonic: raised by an arm of exec. Safe. -/
  | notModelled (mnemonic : String)
deriving DecidableEq, Repr

/-- The machine right after reset (R378): no context, no task, memory wiped to zero with every tag empty, every register
file at rest; boot has not yet run (R379). -/
def State.reset : State := {}

end Sys2Proof.Machine
end

