-- ==== Sys2Proof/Machine/Access.lean ====
section
/-!
DEFINITION. Accessors: cores, contexts, launches, registers and the core's identity. Every read and write of a register
goes through here (R17, R20).
-/
namespace Sys2Proof.Machine

/-- The outcome of one operation of this machine. -/
abbrev Out := Host.Outcome State Fault Refusal

/-- Physical core n. -/
def getCore (s : State) (n : Nat) : Core := spGet {} s.cores n

/-- The state with physical core n replaced. -/
def setCore (s : State) (n : Nat) (c : Core) : State := { s with cores := spSet {} s.cores n c }

/-- The state with a function applied to physical core n. -/
def modCore (s : State) (n : Nat) (f : Core → Core) : State := setCore s n (f (getCore s n))

/-- Resident context n, if the slot holds one. -/
def getCtx (s : State) (n : Nat) : Option Ctx := spFind s.ctxs n

/-- The state with resident slot n holding a context. -/
def setCtx (s : State) (n : Nat) (c : Ctx) : State := { s with ctxs := spPut s.ctxs n c }

/-- The state with a function applied to resident context n, if there is one. -/
def modCtx (s : State) (n : Nat) (f : Ctx → Ctx) : State :=
  match getCtx s n with
  | some c => setCtx s n (f c)
  | none => s

/-- The core whose bundle is being issued. -/
def curCore (s : State) : Core := getCore s s.issue.core

/-- The state with a function applied to the issuing core. -/
def modCur (s : State) (f : Core → Core) : State := modCore s s.issue.core f

/-- The launch of a context with a handle. -/
def findLaunch (c : Ctx) (h : Nat) : Option Launch := c.launches.find? (fun l => l.handle == h)

/-- The context with a function applied to the launch with a handle. -/
def Ctx.modLaunch (c : Ctx) (h : Nat) (f : Launch → Launch) : Ctx :=
  { c with launches := c.launches.map (fun l => if l.handle = h then f l else l) }

/-- The state with a function applied to a launch of a context. -/
def modLaunch (s : State) (n h : Nat) (f : Launch → Launch) : State := modCtx s n (fun c => c.modLaunch h f)

/-- The launch of context n with handle h. -/
def getLaunch (s : State) (n h : Nat) : Option Launch :=
  match getCtx s n with
  | some c => findLaunch c h
  | none => none

/-- The state of one run of a launch (R267). -/
def Launch.runOf (l : Launch) (b : Bool) : RunState := if b then l.b else l.a

/-- A launch with a function applied to the state of one run. -/
def Launch.modRun (l : Launch) (b : Bool) (f : RunState → RunState) : Launch :=
  if b then { l with b := f l.b } else { l with a := f l.a }

/-- The state with a function applied to one run of a launch. -/
def modRun (s : State) (n h : Nat) (b : Bool) (f : RunState → RunState) : State :=
  modLaunch s n h (fun l => l.modRun b f)

/-- The flag bits of a launch record (Table 12.1). -/
def LaunchRec.flag (r : LaunchRec) (i : Nat) : Bool := bitAt r.flags i

/-- The cluster of a physical core (R12, Table 1.6). -/
def clusterOf (core : Nat) : Nat := core / 16

/-- The die of a physical core. -/
def dieOf (core : Nat) : Nat := core / 128

/-- The physical core of a logical core of a partition listed in ascending clusters (R12). -/
def physCore (part : List Nat) (logical : Nat) : Nat := part.getD (logical / 16) 0 * 16 + logical % 16

/-- The number of cores of a partition. -/
def partCores (part : List Nat) : Nat := 16 * part.length

/-! ## Registers -/

/-- x[r]; x0 reads as 0 (R17). -/
def Regs.readX (g : Regs) (r : Nat) : Word := if r = 0 then 0 else spGet 0 g.x r

/-- x[r] := v; a write to x0 is discarded (R17). -/
def Regs.writeX (g : Regs) (r : Nat) (v : Word) : Regs := if r = 0 then g else { g with x := spSet 0 g.x r v }

/-- The key of a vector register. -/
def vecKey (b : Bool) (r : Nat) : Nat := 16 * ofBool b + r

/-- A vector register of the A cluster, or of B when b (R19). -/
def Regs.readV (g : Regs) (b : Bool) (r : Nat) : Vec := spGet 0 g.v (vecKey b r)

/-- A vector register replaced. -/
def Regs.writeV (g : Regs) (b : Bool) (r : Nat) (v : Vec) : Regs := { g with v := spSet 0 g.v (vecKey b r) v }

/-- A predicate; pa0 and pb0 read as all ones (R20). -/
def Regs.readP (g : Regs) (b : Bool) (r : Nat) : Pred :=
  if r = 0 then allBytes else spGet 0 g.p (8 * ofBool b + r)

/-- A predicate replaced; writes to pa0 and pb0 are discarded (R20). -/
def Regs.writeP (g : Regs) (b : Bool) (r : Nat) (v : Pred) : Regs :=
  if r = 0 then g else { g with p := spSet 0 g.p (8 * ofBool b + r) v }

/-- The key of a shape field: engine 0 VM, 1 MX, 2 ST (R112). -/
def shapeKey (e r f : Nat) : Nat := 16 * e + 4 * r + f

/-- The active copy of a shape field (R23). -/
def Regs.readShape (g : Regs) (e r f : Nat) : BitVec 32 := spGet 0 g.shape (shapeKey e r f)

/-- The shadow copy of a shape field written (R24). -/
def Regs.writeShadow (g : Regs) (e r f : Nat) (v : BitVec 32) : Regs :=
  { g with shadow := spSet 0 g.shadow (shapeKey e r f) v }

/-- The sixteen fields of one engine copied over from another set of copies. -/
def copyShape (e : Nat) (src dst : Sparse (BitVec 32)) : Sparse (BitVec 32) :=
  (upTo 16).foldl (fun m k => spSet 0 m (16 * e + k) (spGet 0 src (16 * e + k))) dst

/-- The exchange of the active and shadow copies of one engine (R24). -/
def Regs.swapShape (g : Regs) (e : Nat) : Regs :=
  { g with shape := copyShape e g.shadow g.shape, shadow := copyShape e g.shape g.shadow }

/-- A buffer record (R25). -/
def Regs.readRec (g : Regs) (n : Nat) : BitVec 256 := spGet 0 g.recs n

/-- The address a record was loaded from (R26, R113). -/
def Regs.readRecAddr (g : Regs) (n : Nat) : Nat := spGet 0 g.recAddr n

/-- A ring descriptor (R27). -/
def Regs.ring (g : Regs) (q : Nat) : Ring := spGet {} g.rings q

/-- A ring descriptor replaced. -/
def Regs.setRing (g : Regs) (q : Nat) (r : Ring) : Regs := { g with rings := spSet {} g.rings q r }

/-- 64 FP32 lanes of −∞, what an unlisted cm reads as (Table 1.1). -/
def cmRest : Vec := BitVec.ofNat 2048 (packElems 32 64 (fun _ => 0xFF800000))

/-- Row `row` of accumulator ck as 64 FP32 columns (R21). -/
def MatrixUnit.readRow (m : MatrixUnit) (k row : Nat) : Vec := spGet 0 m.acc (64 * k + row)

/-- A row of an accumulator replaced. -/
def MatrixUnit.writeRow (m : MatrixUnit) (k row : Nat) (v : Vec) : MatrixUnit :=
  { m with acc := spSet 0 m.acc (64 * k + row) v }

/-- A side register: cl when `cl`, else cm (R21). -/
def MatrixUnit.readSide (m : MatrixUnit) (cl : Bool) (k : Nat) : Vec :=
  if cl then spGet 0 m.cl k else spGet cmRest m.cm k

/-- A side register replaced. -/
def MatrixUnit.writeSide (m : MatrixUnit) (cl : Bool) (k : Nat) (v : Vec) : MatrixUnit :=
  if cl then { m with cl := spSet 0 m.cl k v } else { m with cm := spSet cmRest m.cm k v }

/-- A weight plane (R22). -/
def MatrixUnit.plane (m : MatrixUnit) (i : Nat) : Plane := spGet {} m.planes i

/-- A scale byte of a plane; 127 where none was loaded (R162). -/
def Plane.scale (p : Plane) (col g : Nat) : Nat := spGet 127 p.scales (8 * col + g)

/-- A function applied to the registers of the issuing core. -/
def modRegs (s : State) (f : Regs → Regs) : State := modCur s (fun c => { c with regs := f c.regs })

/-- A function applied to the device registers of a core. -/
def modDev (s : State) (n : Nat) (f : Dev → Dev) : State := modCore s n (fun c => { c with dev := f c.dev })

/-- A function applied to the sequencing of a core. -/
def modCtl (s : State) (n : Nat) (f : Ctl → Ctl) : State := modCore s n (fun c => { c with ctl := f c.ctl })

/-- x[r] of the issuing core at issue (R80). -/
def rx (s : State) (r : Nat) : Word := (curCore s).regs.readX r

/-- The context of the issuing core, a blank one when it has none. -/
def blankCtx : Ctx := { job := 0, rank := 0, nranks := 0, key0 := 0, key1 := 0, state := .killed, clusters := 0 }

/-- The context of core n. -/
def ctxOfCore (s : State) (n : Nat) : Ctx :=
  match (getCore s n).ctx with
  | some k => (getCtx s k).getD blankCtx
  | none => blankCtx

/-- The resident slot of core n, 64 when it serves none. -/
def slotOfCore (s : State) (n : Nat) : Nat := (getCore s n).ctx.getD 64

/-- An interrupt vector raised if system software has enabled it (R373, R377). -/
def raiseVector (s : State) (v : Nat) : State :=
  if s.host.enabled.contains v then { s with host := { s.host with vectors := s.host.vectors ++ [v] } } else s

/-- The vector of a package event, one of 64 to 71 (R373); which event has which is the model's choice (log entry 66). -/
def eventVector : Event → Nat
  | .fault _ _ _ _ _ _ _ => 64
  | .killed _ _ | .rehearsal _ _ _ _ => 65
  | .pageFault _ _ | .pageTable _ _ => 66
  | .retired _ _ | .taken _ => 67
  | .overrun _ _ => 68
  | .flown _ _ | .portLost _ => 69
  | .codeLoaded _ _ | .codeRefused _ | .codeBusy _ | .codeUnloaded _ => 70
  | .refused _ => 71

/-- An event posted to system software, with its vector (R373). -/
def post (s : State) (e : Event) : State :=
  raiseVector { s with host := { s.host with events := s.host.events ++ [e] } } (eventVector e)

/-- The number of the line of a place (R232, R339). -/
def lineOf (place : Nat) : Nat := place / 128

/-! ## Pulses of the watchdog (R326) -/

/-- A pulse takes effect in those states of a context's watchdog that a test picks (Table 14.6). -/
def pulseIn (f : Ctx → Bool) (s : State) (k : Nat) : State :=
  modCtx s k (fun c => if f c then { c with dogCount := 0, dogPulse := true } else c)

/-- A progress pulse to the watchdog of a context (R208, R326). It counts during a save too, whose drains it shows to advance (R321;
DEDUCED: Table 14.6 names the save engine's own; log entry 84). -/
def pulse (s : State) (k : Nat) : State := pulseIn (fun c => c.dog == .armed || (c.dog == .saving && !c.restoring)) s k

/-- A pulse of the save engine, for a part or an awaited result (R318, R326). -/
def savePulse (s : State) (k : Nat) : State := pulseIn (fun c => c.dog == .saving) s k

/-- A pulse of a job's progress or an answer, which a save awaits (R208, R318, R326). -/
def awaitedPulse (s : State) (k : Nat) : State := savePulse (pulse s k) k

end Sys2Proof.Machine
end

