-- ==== Sys2Proof/Machine/Flags.lean ====
section
/-!
DEFINITION. Floating-point flags (R48) in the places of DFLAGS (R34, Table 1.6).
-/
namespace Sys2Proof.Machine

/-- No flag. -/
def noFlags : FpFlags := 0
/-- Invalid, DFLAGS bit 0. -/
def flagNV : FpFlags := 1
/-- Overflow, DFLAGS bit 1. -/
def flagOF : FpFlags := 2
/-- Underflow, DFLAGS bit 2. -/
def flagUF : FpFlags := 4
/-- Divide by zero, DFLAGS bit 3. -/
def flagDZ : FpFlags := 8

/-- A flag that is set when a condition holds. -/
def flagIf (c : Bool) (f : FpFlags) : FpFlags := if c then f else 0

/-- A flag result beside a value. -/
abbrev WithFlags (α : Type) := α × FpFlags

/-- What SETD DFLAGS leaves (Table 1.5, R33): a written 1 clears its bit, and a bit that a result sets in the
same cycle ends set. -/
def flagsAfterClear (old set : FpFlags) (written : Nat) : FpFlags :=
  (old &&& ~~~ BitVec.ofNat 4 written) ||| set

end Sys2Proof.Machine
end

