-- ==== Sys2Proof/Machine/Formats.lean ====
section
/-!
DEFINITION. Number formats and arithmetic (R43 to R56, R61, R62): exact values, decoding, rounding, conversions, block
formats, O4, register reductions and the matrix group sum.
-/
namespace Sys2Proof.Machine

/-- An exact value: NaN, an infinity, or (−1)^neg × m × 2^e (R44, R46). A zero keeps its sign. -/
inductive Val where
  | nan
  | inf (neg : Bool)
  | fin (neg : Bool) (m : Nat) (e : Int)
deriving DecidableEq, Repr

/-- How a floating format uses its topmost encodings (R44). -/
inductive TopKind where
  /-- exponent all ones is infinity or NaN -/
  | ieee
  /-- E4M3: only S.1111.111 is NaN -/
  | e4m3
  /-- every encoding is finite -/
  | finite
deriving DecidableEq, Repr

/-- A floating format: exponent bits, mantissa bits, bias and the use of the top encodings (Table 2.1). -/
structure FloatFmt where
  exp : Nat
  man : Nat
  bias : Nat
  top : TopKind
deriving DecidableEq, Repr

/-- An element format of Table 2.1 that stands alone: an integer or a floating format. -/
inductive Fmt where
  | int (w : Nat) (signed : Bool)
  | flt (f : FloatFmt)
deriving DecidableEq, Repr

/-- FP32 (Table 2.1). -/
def fp32 : FloatFmt := ⟨8, 23, 127, .ieee⟩
/-- BF16 (Table 2.1). -/
def bf16 : FloatFmt := ⟨8, 7, 127, .ieee⟩
/-- FP16 (Table 2.1). -/
def fp16 : FloatFmt := ⟨5, 10, 15, .ieee⟩
/-- FP8 E4M3 (Table 2.1). -/
def e4m3 : FloatFmt := ⟨4, 3, 7, .e4m3⟩
/-- FP8 E5M2 (Table 2.1). -/
def e5m2 : FloatFmt := ⟨5, 2, 15, .ieee⟩
/-- FP6 E3M2 (Table 2.1). -/
def e3m2 : FloatFmt := ⟨3, 2, 3, .finite⟩
/-- FP6 E2M3 (Table 2.1). -/
def e2m3 : FloatFmt := ⟨2, 3, 1, .finite⟩
/-- FP4 E2M1 (Table 2.1). -/
def e2m1 : FloatFmt := ⟨2, 1, 1, .finite⟩

/-- The integer or floating format of a code of Table 2.1; O4 and the block formats have their own operations. -/
def fmtOfCode : Nat → Option Fmt
  | 0x00 => some (.int 8 true)
  | 0x01 => some (.int 8 false)
  | 0x02 => some (.int 16 true)
  | 0x03 => some (.int 16 false)
  | 0x04 => some (.int 32 true)
  | 0x05 => some (.int 32 false)
  | 0x08 => some (.flt fp32)
  | 0x09 => some (.flt bf16)
  | 0x0A => some (.flt fp16)
  | 0x0B => some (.flt e4m3)
  | 0x0C => some (.flt e5m2)
  | 0x0D => some (.flt e3m2)
  | 0x0E => some (.flt e2m3)
  | 0x0F => some (.flt e2m1)
  | 0x10 => some (.int 4 true)
  | _ => none

/-- The reserved format codes of R43. -/
def fmtReserved (c : Nat) : Bool :=
  c == 0x06 || c == 0x07 || (0x12 ≤ c && c ≤ 0x1F) || 0x25 ≤ c

/-- A block format (R49): codes 0x20 to 0x24. -/
def isBlockFmt (c : Nat) : Bool := 0x20 ≤ c && c ≤ 0x24

/-- The bytes of one block (Table 2.2). -/
def blockBytes : Nat → Nat
  | 0x20 => 17
  | 0x21 => 17
  | 0x22 => 25
  | _ => 33

/-- The bits of one element of a format code: Table 2.1; for a block format, those of its element. -/
def fmtBits (c : Nat) : Nat :=
  match c with
  | 0x00 | 0x01 | 0x0B | 0x0C | 0x23 | 0x24 => 8
  | 0x02 | 0x03 | 0x09 | 0x0A => 16
  | 0x04 | 0x05 | 0x08 => 32
  | 0x0D | 0x0E | 0x22 => 6
  | 0x0F | 0x10 | 0x11 | 0x20 | 0x21 => 4
  | _ => 8

/-- The format code of a vector ALU element type (R69). -/
def typeCode : Nat → Nat
  | 0 => 0x00
  | 1 => 0x02
  | 2 => 0x04
  | 3 => 0x09
  | 4 => 0x0A
  | 5 => 0x08
  | 6 => 0x0B
  | _ => 0x0C

/-- The element size in bytes of a vector ALU element type (R117). -/
def typeSize : Nat → Nat
  | 0 => 1
  | 1 => 2
  | 2 => 4
  | 3 => 2
  | 4 => 2
  | 5 => 4
  | _ => 1

/-- The element type is a floating type. -/
def typeIsFloat (t : Nat) : Bool := 3 ≤ t

/-- The floating format of a floating element type (R69). -/
def typeFloat : Nat → FloatFmt
  | 3 => bf16
  | 4 => fp16
  | 6 => e4m3
  | 7 => e5m2
  | _ => fp32

/-- The least exponent of a normal value. -/
def FloatFmt.emin (f : FloatFmt) : Int := 1 - (f.bias : Int)

/-- The width of an encoding. -/
def FloatFmt.width (f : FloatFmt) : Nat := 1 + f.exp + f.man

/-- The magnitude encoding of the largest finite value (Table 2.1). -/
def FloatFmt.maxBits (f : FloatFmt) : Nat :=
  match f.top with
  | .ieee => (2 ^ f.exp - 1) * 2 ^ f.man - 1
  | .e4m3 => 2 ^ (f.exp + f.man) - 2
  | .finite => 2 ^ (f.exp + f.man) - 1

/-- The canonical NaN of a format (R46). The formats without NaN give +0 (Table 2.5). -/
def FloatFmt.nanBits (f : FloatFmt) : Nat :=
  match f.top with
  | .ieee => (2 ^ f.exp - 1) * 2 ^ f.man + 2 ^ (f.man - 1)
  | .e4m3 => 2 ^ (f.exp + f.man) - 1
  | .finite => 0

/-- A sign bit and a magnitude encoding joined. -/
def FloatFmt.join (f : FloatFmt) (neg : Bool) (mag : Nat) : Nat := (if neg then 2 ^ (f.exp + f.man) else 0) + mag

/-- The magnitude encoding of infinity, in the formats that have one. -/
def FloatFmt.infBits (f : FloatFmt) : Nat := (2 ^ f.exp - 1) * 2 ^ f.man

/-- The value of a floating encoding (R44). -/
def decodeFloat (f : FloatFmt) (w : Nat) : Val :=
  let neg := bitAt w (f.exp + f.man)
  let e := field w f.man f.exp
  let m := field w 0 f.man
  let plain : Val :=
    if e = 0 then .fin neg m (f.emin - f.man)
    else .fin neg (m + 2 ^ f.man) ((e : Int) - f.bias - f.man)
  match f.top with
  | .ieee => if e = 2 ^ f.exp - 1 then (if m = 0 then .inf neg else .nan) else plain
  | .e4m3 => if e = 2 ^ f.exp - 1 ∧ m = 2 ^ f.man - 1 then .nan else plain
  | .finite => plain

/-- An integer as an exact value. -/
def valOfInt (x : Int) : Val := .fin (x < 0) x.natAbs 0

/-- The value of an encoding in a format. -/
def decodeFmt (f : Fmt) (w : Nat) : Val :=
  match f with
  | .int n true => valOfInt (toSigned n w)
  | .int n false => .fin false (w % 2 ^ n) 0
  | .flt g => decodeFloat g w

/-- The rounding step (Table 2.4, R54): whether the magnitude (n + rem/2^d) units goes up to n + 1. -/
def roundsUp (mode : Nat) (neg : Bool) (n rem d W : Nat) : Bool :=
  match mode with
  | 0 | 6 => decide (2 ^ d < 2 * rem) || (decide (2 * rem = 2 ^ d) && n % 2 == 1)
  | 1 => false
  | 2 => decide (rem ≠ 0) && !neg
  | 3 => decide (rem ≠ 0) && neg
  | 4 => decide (rem ≠ 0) && decide (2 ^ d ≤ 2 * rem)
  | 5 => decide (2 ^ 32 ≤ rem * 2 ^ 32 / 2 ^ d + W)
  | _ => false

/-- A magnitude m × 2^e rounded to a whole number of units 2^q, and whether that is inexact. -/
def roundUnits (mode : Nat) (neg : Bool) (m : Nat) (e q : Int) (W : Nat) : Nat × Bool :=
  if q ≤ e then (m * 2 ^ (e - q).toNat, false)
  else
    let d := (q - e).toNat
    let n := m / 2 ^ d
    let rem := m % 2 ^ d
    (n + ofBool (roundsUp mode neg n rem d W), decide (rem ≠ 0))

/-- The delivered magnitude encoding on overflow (Table 2.4). -/
def overflowBits (f : FloatFmt) (mode : Nat) (neg sat : Bool) : Nat :=
  if sat then f.maxBits
  else
    match f.top with
    | .finite => f.maxBits
    | .e4m3 =>
      match mode with
      | 0 | 4 => f.nanBits
      | _ => f.maxBits
    | .ieee =>
      match mode with
      | 0 | 4 => f.infBits
      | 2 => if neg then f.maxBits else f.infBits
      | 3 => if neg then f.infBits else f.maxBits
      | _ => f.maxBits

/-- Rounds the exact nonzero magnitude m × 2^e into a floating format with its flags (R48, R53, R54). `sat` asks for the
saturation of a finite overflow in every mode (R56, R139). The overflow NaN of E4M3 is 0x7F whatever the sign. -/
def roundFinite (f : FloatFmt) (mode : Nat) (sat neg : Bool) (m : Nat) (e : Int) (W : Nat) : WithFlags Nat :=
  let E : Int := (log2 m : Int) + e
  let q : Int := (if E < f.emin then f.emin else E) - f.man
  let (n, inexact) := roundUnits mode neg m e q W
  let bits := (q - (f.emin - f.man)).toNat * 2 ^ f.man + n
  if f.maxBits < bits then
    let b := overflowBits f mode neg sat
    (if f.top = .e4m3 ∧ b = f.nanBits then b else f.join neg b, flagOF)
  else
    let (u, _) := roundUnits mode neg m e (E - f.man) W
    let tiny := decide (E < f.emin) && !(decide (E = f.emin - 1) && decide (u = 2 ^ (f.man + 1)))
    (f.join neg bits, flagIf (tiny && inexact) flagUF)

/-- Conversion of an exact value to a floating format (R48, R53 to R55). -/
def encodeFloat (f : FloatFmt) (mode : Nat) (sat : Bool) (W : Nat) : Val → WithFlags Nat
  | .nan => (f.nanBits, flagIf (f.top = .finite) flagNV)
  | .inf neg =>
    match f.top with
    | .ieee => (f.join neg f.infBits, 0)
    | .e4m3 => (if mode = 6 then f.join neg f.maxBits else f.nanBits, flagNV)
    | .finite => (f.join neg f.maxBits, flagNV)
  | .fin neg m e => if m = 0 then (f.join neg 0, 0) else roundFinite f mode sat neg m e W

/-- The least and the greatest value of an integer format. -/
def intRange (w : Nat) (signed : Bool) : Int × Int :=
  if signed then (-(2 ^ (w - 1) : Nat), ((2 ^ (w - 1) : Nat) : Int) - 1) else (0, ((2 ^ w : Nat) : Int) - 1)

/-- Rounds an exact finite value to an integer by a mode (R53, R54: u = 1). -/
def roundToInt (mode : Nat) (neg : Bool) (m : Nat) (e : Int) (W : Nat) : Int :=
  let n := (roundUnits mode neg m e 0 W).1
  if neg then -(n : Int) else n

/-- The float to integer row of Table 2.5: rounded, then saturated; NV on NaN, infinity and saturation. -/
def encodeInt (w : Nat) (signed : Bool) (mode W : Nat) : Val → WithFlags Nat
  | .nan => (0, flagNV)
  | .inf neg => (ofSigned w (if neg then (intRange w signed).1 else (intRange w signed).2), flagNV)
  | .fin neg m e =>
    let x := roundToInt mode neg m e W
    let y := clampInt (intRange w signed).1 (intRange w signed).2 x
    (ofSigned w y, flagIf (decide (x ≠ y)) flagNV)

/-- The integer rows of Table 2.5 between two integer formats: exact where the destination holds every source value,
otherwise saturated under RNE-SAT and the low bits of the 32-bit extension in the other modes. No flag. -/
def convertIntInt (sw : Nat) (ss : Bool) (dw : Nat) (ds : Bool) (mode w : Nat) : Nat :=
  let x : Int := if ss then toSigned sw w else ((w % 2 ^ sw : Nat) : Int)
  if mode = 6 then ofSigned dw (clampInt (intRange dw ds).1 (intRange dw ds).2 x) else ofSigned dw x

/-- Convert of R129: from one format to another by Table 2.5, with a mode and a random word. -/
def convertFmt (src dst : Fmt) (mode : Nat) (sat : Bool) (W w : Nat) : WithFlags Nat :=
  match src, dst with
  | .int sw ss, .int dw ds => (convertIntInt sw ss dw ds mode w, 0)
  | _, .int dw ds => encodeInt dw ds mode W (decodeFmt src w)
  | _, .flt g => encodeFloat g mode sat W (decodeFmt src w)

/-- An exact value converted to a format by the float-source rows of Table 2.5. -/
def encodeVal (dst : Fmt) (mode : Nat) (sat : Bool) (W : Nat) (v : Val) : WithFlags Nat :=
  match dst with
  | .int dw ds => encodeInt dw ds mode W v
  | .flt g => encodeFloat g mode sat W v

/-! ## Exact arithmetic on values (R46, R47) -/

/-- The value with its sign turned. -/
def Val.negate : Val → Val
  | .nan => .nan
  | .inf n => .inf (!n)
  | .fin n m e => .fin (!n) m e

/-- The value is NaN. -/
def Val.isNan : Val → Bool
  | .nan => true
  | _ => false

/-- The value is a zero of either sign. -/
def Val.isZero : Val → Bool
  | .fin _ m _ => m == 0
  | _ => false

/-- The signed integer of a finite value in units of 2^q, for q at most its exponent. -/
def signedUnits (neg : Bool) (m : Nat) (e q : Int) : Int :=
  let n := m * 2 ^ (e - q).toNat
  if neg then -(n : Int) else n

/-- The exact sum; a zero sum is −0 only when both terms are −0, or 0 and −0 in round to nearest give +0 (R46). -/
def addVal : Val → Val → WithFlags Val
  | .nan, _ => (.nan, 0)
  | _, .nan => (.nan, 0)
  | .inf a, .inf b => if a = b then (.inf a, 0) else (.nan, flagNV)
  | .inf a, _ => (.inf a, 0)
  | _, .inf b => (.inf b, 0)
  | .fin s m e, .fin t n f =>
    if m = 0 ∧ n = 0 then (.fin (s && t) 0 0, 0)
    else
      let q := if e < f then e else f
      let x := signedUnits s m e q + signedUnits t n f q
      (.fin (decide (x < 0)) x.natAbs q, 0)

/-- The exact product (R46): an infinity times a zero is invalid. -/
def mulVal : Val → Val → WithFlags Val
  | .nan, _ => (.nan, 0)
  | _, .nan => (.nan, 0)
  | .inf a, .inf b => (.inf (a != b), 0)
  | .inf a, .fin t n _ => if n = 0 then (.nan, flagNV) else (.inf (a != t), 0)
  | .fin s m _, .inf b => if m = 0 then (.nan, flagNV) else (.inf (s != b), 0)
  | .fin s m e, .fin t n f => (.fin (s != t) (m * n) (e + f), 0)

/-- The exact a × b + c (R123): an infinite product times zero is invalid whatever c is. -/
def fmaVal (a b c : Val) : WithFlags Val :=
  let (p, g) := mulVal a b
  let (r, h) := addVal p c
  (r, g ||| h)

/-- The ordering of R61 on two values that are not NaN: −0 lies below +0. -/
def ltVal : Val → Val → Bool
  | .nan, _ => false
  | _, .nan => false
  | .inf a, .inf b => a && !b
  | .inf a, .fin _ _ _ => a
  | .fin _ _ _, .inf b => !b
  | .fin s m e, .fin t n f =>
    if m = 0 ∧ n = 0 then s && !t
    else
      let q := if e < f then e else f
      decide (signedUnits s m e q < signedUnits t n f q)

/-- The quiet numeric comparison of VCMP (R124): −0 equals +0. -/
def ltNum (a b : Val) : Bool := !(a.isZero && b.isZero) && ltVal a b

/-- Numeric equality of two values (R124). -/
def eqNum (a b : Val) : Bool := !a.isNan && !b.isNan && !(ltNum a b) && !(ltNum b a)

/-- The smaller value by R61, canonical NaN for any NaN. -/
def minVal (a b : Val) : Val := if a.isNan || b.isNan then .nan else if ltVal b a then b else a

/-- The larger value by R61, canonical NaN for any NaN. -/
def maxVal (a b : Val) : Val := if a.isNan || b.isNan then .nan else if ltVal a b then b else a

/-- A float operation of an element type (R47): exact, then rounded once with RNE. -/
def roundRne (f : FloatFmt) (r : WithFlags Val) : WithFlags Nat :=
  let (b, g) := encodeFloat f 0 false 0 r.1
  (b, r.2 ||| g)

/-- FP32 addition with RNE on encodings. -/
def addFp32 (a b : Nat) : WithFlags Nat := roundRne fp32 (addVal (decodeFloat fp32 a) (decodeFloat fp32 b))

/-- FP32 subtraction with RNE on encodings. -/
def subFp32 (a b : Nat) : WithFlags Nat :=
  roundRne fp32 (addVal (decodeFloat fp32 a) (decodeFloat fp32 b).negate)

/-- FP32 multiplication with RNE on encodings. -/
def mulFp32 (a b : Nat) : WithFlags Nat := roundRne fp32 (mulVal (decodeFloat fp32 a) (decodeFloat fp32 b))

/-- FP32 maximum by R61 on encodings. -/
def maxFp32 (a b : Nat) : Nat := (encodeFloat fp32 0 false 0 (maxVal (decodeFloat fp32 a) (decodeFloat fp32 b))).1

/-- FP32 minimum by R61 on encodings. -/
def minFp32 (a b : Nat) : Nat := (encodeFloat fp32 0 false 0 (minVal (decodeFloat fp32 a) (decodeFloat fp32 b))).1

/-- FP32 one. -/
def fp32One : Nat := 0x3F800000
/-- FP32 negative zero, the neutral element of a sum (R61). -/
def fp32NegZero : Nat := 0x80000000
/-- FP32 negative infinity. -/
def fp32NegInf : Nat := 0xFF800000
/-- FP32 positive infinity. -/
def fp32PosInf : Nat := 0x7F800000
/-- The canonical FP32 NaN (R46). -/
def fp32Nan : Nat := 0x7FC00000

/-! ## O4 (R51, R52) -/

/-- Plain(n): a nibble as four-bit two's complement (R51). -/
def o4Plain (n : Nat) : Int := toSigned 4 n

/-- Outlier(n) (R51). -/
def o4Outlier (n : Nat) : Int :=
  let mag : Int := ((2 ^ (8 + n % 8 - 7) : Nat) : Int)
  if bitAt n 3 then -mag else mag

/-- DecodeO4Pair (R51): the elements 2k and 2k + 1 of a byte. -/
def decodeO4Pair (lo hi : Nat) : Int × Int :=
  if lo = 8 ∧ hi = 8 then (0, 0)
  else if lo = 8 then (o4Outlier hi, 0)
  else if hi = 8 then (0, o4Outlier lo)
  else (o4Plain lo, o4Plain hi)

/-- A scaled value as the choice of O4 candidate takes it (R52): NaN is 0 and an infinity 256 with its sign; a finite
value is (numerator, exponent). The flags are those of R52. -/
def o4Source : Val → (Int × Int) × FpFlags
  | .nan => ((0, 0), flagNV)
  | .inf neg => ((if neg then -256 else 256, 0), flagNV)
  | .fin neg m e =>
    let big := if 0 ≤ e then decide (256 < m * 2 ^ e.toNat) else decide (256 * 2 ^ (-e).toNat < m)
    ((if neg then -(m : Int) else m, e), flagIf big flagOF)

/-- Q of R52: rounded by the mode to an integer and saturated to [−7, 7]. -/
def o4Quant (mode W : Nat) (x : Int × Int) : Int :=
  clampInt (-7) 7 (roundToInt mode (decide (x.1 < 0)) x.1.natAbs x.2 W)

/-- |x − y| for x = n × 2^e as a number of units 2^q with q ≤ min e 0. -/
def o4Dist (x : Int × Int) (y q : Int) : Nat :=
  (x.1 * ((2 ^ (x.2 - q).toNat : Nat) : Int) - y * ((2 ^ (-q).toNat : Nat) : Int)).natAbs

/-- The code of the outlier nearest to x (R52): a tie goes to the larger magnitude, which the descending search keeps. -/
def o4Nearest (x : Int × Int) (q : Int) : Nat :=
  let codes : List Nat := if x.1 < 0 then [15, 14, 13, 12, 11, 10, 9] else [7, 6, 5, 4, 3, 2, 1, 0]
  codes.foldl (fun best c => if o4Dist x (o4Outlier c) q < o4Dist x (o4Outlier best) q then c else best)
    (if x.1 < 0 then 15 else 7)

/-- The code byte (low nibble first element) and flags of a pair (R52). -/
def encodeO4Pair (mode Wa Wb : Nat) (va vb : Val) : WithFlags Nat :=
  let (a, fa) := o4Source va
  let (b, fb) := o4Source vb
  let q0 := if a.2 < b.2 then a.2 else b.2
  let q := if 0 < q0 then 0 else q0
  let pa := o4Quant mode Wa a
  let pb := o4Quant mode Wb b
  let dPlain := o4Dist a pa q + o4Dist b pb q
  let ca := o4Nearest a q
  let cb := o4Nearest b q
  let dLow := o4Dist a (o4Outlier ca) q + o4Dist b 0 q
  let dHigh := o4Dist a 0 q + o4Dist b (o4Outlier cb) q
  let lowOk := decide (a.1 ≠ 0)
  let highOk := decide (b.1 ≠ 0)
  let byte :=
    if (!lowOk || dPlain ≤ dLow) && (!highOk || dPlain ≤ dHigh) then ofSigned 4 pa + 16 * ofSigned 4 pb
    else if lowOk && (!highOk || dLow ≤ dHigh) then 8 + 16 * ca
    else cb + 16 * 8
  (byte, fa ||| fb)

/-! ## Packed rows and blocks (R45, R49, R50, R56) -/

/-- Element i of a packed row held as one little-endian number (R45). -/
def packedElem (bits row i : Nat) : Nat := field row (bits * i) bits

/-- The value of element i of an O4 row (R51). -/
def o4Elem (row i : Nat) : Int :=
  let p := decodeO4Pair (field row (8 * (i / 2)) 4) (field row (8 * (i / 2) + 4) 4)
  if i % 2 = 0 then p.1 else p.2

/-- A value times 2^k. -/
def scaleVal (k : Int) : Val → Val
  | .nan => .nan
  | .inf n => .inf n
  | .fin n m e => .fin n m (e + k)

/-- The element format of a block format, O4 apart (Table 2.2). -/
def blockElemFmt : Nat → Fmt
  | 0x20 => .flt e2m1
  | 0x22 => .flt e2m3
  | 0x24 => .int 8 true
  | _ => .flt e4m3

/-- The value of element i, without the block scale, of a block's element bytes `w` (R49, R51). -/
def blockElemRaw (c w i : Nat) : Val :=
  if c = 0x21 then valOfInt (o4Elem w i) else decodeFmt (blockElemFmt c) (packedElem (fmtBits c) w i)

/-- The value of element i of a block whose bytes are the number `blk` (R49, R50). -/
def blockElem (c blk i : Nat) : Val :=
  let s := blk % 256
  if s = 255 then .nan else scaleVal ((s : Int) - 127) (blockElemRaw c (blk / 256) i)

/-- Element i of a packed image of format c held as one number from bit 0 (R45, R49). -/
def imageElem (c img i : Nat) : Val :=
  if isBlockFmt c then
    let n := blockBytes c
    blockElem c (field img (8 * n * (i / 32)) (8 * n)) (i % 32)
  else if c = 0x11 then valOfInt (o4Elem img i)
  else
    match fmtOfCode c with
    | some f => decodeFmt f (packedElem (fmtBits c) img i)
    | none => .nan

/-- floor(log2 |v|) of a finite nonzero value. -/
def Val.exponent : Val → Int
  | .fin _ m e => (log2 m : Int) + e
  | _ => 0

/-- Emax of R56. -/
def blockEmax : Nat → Int
  | 0x23 => 8
  | 0x24 => 6
  | _ => 2

/-- The greatest exponent among values that are finite and nonzero, none if there is none (R56). -/
def maxExponent (vs : List Val) : Option Int :=
  vs.foldl (fun acc v =>
    if v.isZero then acc
    else
      match acc with
      | none => some v.exponent
      | some x => some (if x < v.exponent then v.exponent else x)) none

/-- A value is NaN or infinite. -/
def Val.notFinite : Val → Bool
  | .fin _ _ _ => false
  | _ => true

/-- The O4 bytes of a list of values taken in pairs, as one number (R52). -/
def encodeO4List (mode : Nat) : List (Val × Nat) → WithFlags Nat
  | (a, wa) :: (b, wb) :: rest =>
    let (x, f) := encodeO4Pair mode wa wb a b
    let (y, g) := encodeO4List mode rest
    (x + 256 * y, f ||| g)
  | _ => (0, 0)

/-- The packed elements of a list of values in a plain format, as one number (R45). -/
def encodePlainList (f : Fmt) (bits mode : Nat) (sat : Bool) : List (Val × Nat) → WithFlags Nat
  | [] => (0, 0)
  | (v, w) :: rest =>
    let (x, g) := encodeVal f mode sat w v
    let (y, h) := encodePlainList f bits mode sat rest
    (x % 2 ^ bits + 2 ^ bits * y, g ||| h)

/-- One block of 32 values with its scale byte first (R56). -/
def encodeBlock (c mode : Nat) (vs : List (Val × Nat)) : WithFlags Nat :=
  if vs.any (fun p => p.1.notFinite) then (255, flagNV)
  else
    let s : Int :=
      match maxExponent (vs.map (fun p => p.1)) with
      | none => 127
      | some x => clampInt 0 254 (x - blockEmax c + 127)
    let scaled := vs.map (fun p => (scaleVal (127 - s) p.1, p.2))
    let (w, f) := if c = 0x21 then encodeO4List mode scaled
      else encodePlainList (blockElemFmt c) (fmtBits c) mode true scaled
    (s.toNat + 256 * w, f)

/-- Consecutive blocks, as one number: `k` blocks of the values in order. -/
def encodeBlocks (c mode : Nat) : Nat → List (Val × Nat) → WithFlags Nat
  | 0, _ => (0, 0)
  | k + 1, vs =>
    let (x, f) := encodeBlock c mode (vs.take 32)
    let (y, g) := encodeBlocks c mode k (vs.drop 32)
    (x + 2 ^ (8 * blockBytes c) * y, f ||| g)

/-- The packed image of a list of values in format c (R130): a block format in whole blocks. -/
def encodeImage (c mode : Nat) (vs : List (Val × Nat)) : WithFlags Nat :=
  if isBlockFmt c then encodeBlocks c mode (vs.length / 32) vs
  else if c = 0x11 then encodeO4List mode vs
  else
    match fmtOfCode c with
    | some f => encodePlainList f (fmtBits c) mode false vs
    | none => (0, 0)

/-! ## Reductions within a register (R61) -/

/-- One level of the pairwise tree. -/
def pairLevel {α : Type} (f : α → α → α) : List α → List α
  | a :: b :: rest => f a b :: pairLevel f rest
  | xs => xs

/-- `k` levels of the pairwise tree. -/
def pairTree {α : Type} (f : α → α → α) : Nat → List α → List α
  | 0, xs => xs
  | k + 1, xs => pairTree f k (pairLevel f xs)

/-- An FP32 sum of two partial results with the flags so far. -/
def addFlagged (x y : WithFlags Nat) : WithFlags Nat :=
  let (s, f) := addFp32 x.1 y.1
  (s, x.2 ||| y.2 ||| f)

/-- The pairwise FP32 sum of R61 over encodings; the empty list is −0. -/
def sumTree (xs : List Nat) : WithFlags Nat :=
  match pairTree addFlagged (log2 xs.length) (xs.map (fun x => (x, (0 : FpFlags)))) with
  | r :: _ => r
  | [] => (fp32NegZero, 0)

/-! ## The matrix group sum (R62) -/

/-- The state of a scan over the products of a group. -/
structure GroupScan where
  anyNan : Bool := false
  posInf : Bool := false
  negInf : Bool := false
  invalid : Bool := false
  nonzero : Bool := false
  allNegZero : Bool := true
  maxExp : Int := 0
deriving DecidableEq, Repr

/-- One product joins the scan (R62). -/
def groupScanStep (g : GroupScan) (p : Val × Val) : GroupScan :=
  if p.1.isNan || p.2.isNan then { g with anyNan := true }
  else
    match (mulVal p.1 p.2).1 with
    | .nan => { g with invalid := true }
    | .inf n => { g with posInf := g.posInf || !n, negInf := g.negInf || n, allNegZero := false }
    | .fin n m e =>
      if m = 0 then { g with allNegZero := g.allNegZero && n }
      else
        let x := (log2 m : Int) + e
        { g with
          nonzero := true
          allNegZero := false
          maxExp := if g.nonzero then (if g.maxExp < x then x else g.maxExp) else x }

/-- A product aligned to units of 2^q, truncated towards zero (R62: AlignGroup). -/
def alignProduct (q : Int) (p : Val × Val) : Int :=
  match (mulVal p.1 p.2).1 with
  | .fin n m e =>
    let k := if q ≤ e then m * 2 ^ (e - q).toNat else m / 2 ^ (q - e).toNat
    if n then -(k : Int) else k
  | _ => 0

/-- GroupSum (R62): 32 pairs, the sum of the two block scale exponents, and whether a scale is NaN. -/
def groupSum (ps : List (Val × Val)) (scale : Int) (scaleNan : Bool) : WithFlags Nat :=
  let g := ps.foldl groupScanStep {}
  if scaleNan || g.anyNan then (fp32Nan, 0)
  else if g.invalid || (g.posInf && g.negInf) then (fp32Nan, flagNV)
  else if g.posInf then (fp32PosInf, 0)
  else if g.negInf then (fp32NegInf, 0)
  else if !g.nonzero then (if g.allNegZero then fp32NegZero else 0, 0)
  else
    let q := g.maxExp - 30
    let S := ps.foldl (fun acc p => acc + alignProduct q p) (0 : Int)
    encodeFloat fp32 0 false 0 (.fin (decide (S < 0)) S.natAbs (q + scale))

/-- One group joins an accumulator element (R62: Accumulate). -/
def accumulateGroup (acc : WithFlags Nat) (grp : WithFlags Nat) : WithFlags Nat :=
  let (s, f) := addFp32 acc.1 grp.1
  (s, acc.2 ||| grp.2 ||| f)

end Sys2Proof.Machine
end

