-- ==== Sys2Proof/Machine/Memory.lean ====
section
/-!
DEFINITION. Memory: home locations, the address map (R38, Table 15.2), tags (R41), page-table walks (R347, R348), logical
time (R232), commutative-update partials (R241), and reads through a launch's view (R243, R254).
-/
namespace Sys2Proof.Machine

/-! ## Home locations

A place is a byte's home: a package physical address below 2^40; 2^40 + o for chip scratchpad byte o; 2^41 + 2^23 c + o
for cluster memory; 2^42 + 2^19 n + o for the scratchpad of physical core n. -/

/-- Where chip scratchpad bytes have their homes. -/
def chipPlace (off : Nat) : Nat := 2 ^ 40 + off
/-- Where cluster memory bytes have their homes. -/
def clusterPlace (cl off : Nat) : Nat := 2 ^ 41 + 2 ^ 23 * cl + off
/-- Where core scratchpad bytes have their homes. -/
def corePlace (core off : Nat) : Nat := 2 ^ 42 + 2 ^ 19 * core + off

/-- A place in HBM or the green room. -/
def isGlobalPlace (p : Nat) : Bool := decide (p < 2 ^ 40)

/-- A physical address of Table 15.2. -/
def physExists (a : Nat) : Bool :=
  decide (a < 0x6000000000) || (decide (0x8000000000 ≤ a) && decide (a < 0x10000000000))

/-- Every byte of a page is one of Table 15.2 (R348). -/
def pageExists (a size : Nat) : Bool :=
  decide (a + size ≤ 0x6000000000) || (decide (0x8000000000 ≤ a) && decide (a + size ≤ 0x10000000000))

/-- A physical address in HBM. -/
def inHbm (a : Nat) : Bool := decide (a < 0x6000000000)

/-- The die of a physical address (Table 15.2). -/
def placeDie (a : Nat) : Nat :=
  if a < 0x3000000000 then 0 else if a < 0x6000000000 then 1 else if a < 0xC000000000 then 0 else 1

/-- The four addressable spaces with their record codes (Table 1.3). -/
inductive Space where
  | global | cluster | chip | core
deriving DecidableEq, Repr

/-- The SPACE code of a record (Table 1.3). -/
def spaceOfCode : Nat → Space
  | 1 => .cluster
  | 2 => .chip
  | 3 => .core
  | _ => .global

/-- SpaceBase (R144, Table 1.7). -/
def spaceBase : Space → Nat
  | .global => 0
  | .core => 0xFF0000000000
  | .cluster => 0xFF1000000000
  | .chip => 0xFF2000000000

/-- The bytes a space spans (Table 1.7). -/
def spaceSize : Space → Nat
  | .global => 2 ^ 47
  | .core => 2 ^ 19
  | .cluster => 2 ^ 23
  | .chip => 2 ^ 27

/-- The space and offset of an address of Table 1.7. -/
def classify (a : Nat) : Option (Space × Nat) :=
  if a < 2 ^ 47 then some (.global, a)
  else if 0xFF0000000000 ≤ a ∧ a < 0xFF0000000000 + 2 ^ 19 then some (.core, a - 0xFF0000000000)
  else if 0xFF1000000000 ≤ a ∧ a < 0xFF1000000000 + 2 ^ 23 then some (.cluster, a - 0xFF1000000000)
  else if 0xFF2000000000 ≤ a ∧ a < 0xFF2000000000 + 2 ^ 27 then some (.chip, a - 0xFF2000000000)
  else none

/-- The home of a local byte as core n reaches it. -/
def localPlace (core : Nat) (sp : Space) (off : Nat) : Nat :=
  match sp with
  | .global => off
  | .core => corePlace core off
  | .cluster => clusterPlace (clusterOf core) off
  | .chip => chipPlace off

/-! ## Bytes and tags -/

/-- What an unlisted byte reads as: 0, as a wipe leaves it (R350, R378). -/
def restByte : Byte := 0

/-- The committed byte at a place. -/
def rawByte (s : State) (p : Nat) : Byte := spGet restByte s.mem p

/-- A launch of this or another package holds a shadow of a byte (R254, R264). -/
def hasShadow (s : State) (p : Nat) : Bool :=
  s.ctxs.any (fun e => e.2.launches.any (fun l => l.shadow.any (fun b => b.place == p) || l.blockBytes.any (fun b => b.place == p))) ||
    s.link.peers.any (fun q => q.bytes.any (fun b => b.place == p))

/-- A committed write of a byte takes its place in the memory order, which decides between it and the shadows (R254). -/
def noteWrite (s : State) (p : Nat) : State :=
  if hasShadow s p then { s with seq := s.seq + 1, hw := { s.hw with order := spPut s.hw.order p s.seq } } else s

/-- The state with the byte at a place replaced; the canonical form is kept. -/
def putByte (s : State) (p : Nat) (b : Byte) : State :=
  let s1 := noteWrite s p
  { s1 with mem := spSet restByte s1.mem p b }

/-- Committed bytes from a place, the lowest first. -/
def rawBytes (s : State) (p : Nat) : Nat → List Byte
  | 0 => []
  | n + 1 => rawByte s p :: rawBytes s (p + 1) n

/-- Bytes stored from a place. -/
def putBytes (s : State) (p : Nat) : List Byte → State
  | [] => s
  | b :: bs => putBytes (putByte s p b) (p + 1) bs

/-- The number that n committed bytes hold. -/
def rawNat (s : State) (p n : Nat) : Nat := ofBytes (rawBytes s p n)

/-- A sorted list of word numbers with one put in. -/
def insertNat (x : Nat) : List Nat → List Nat
  | [] => [x]
  | y :: ys => if x < y then x :: y :: ys else if x = y then y :: ys else y :: insertNat x ys

/-- The full/empty tag of the local word that holds a place (R41). -/
def tagFull (s : State) (p : Nat) : Bool := s.tags.contains (p / 4)

/-- The tag of a word set full or empty. -/
def setTag (s : State) (p : Nat) (full : Bool) : State :=
  { s with tags := if full then insertNat (p / 4) s.tags else s.tags.filter (fun t => decide (t ≠ p / 4)) }

/-! ## Logical time (R232) -/

/-- The agents that hold a logical clock (R232): a core, the engines of a core, the chorus, and the stage manager, whose clock
the deliveries and the host use too (log entry 60). -/
inductive Agent where
  | core (n : Nat)
  | engine (n : Nat)
  | chorus
  | manager
deriving DecidableEq, Repr

/-- The clock of an agent. -/
def clockOf (s : State) : Agent → Nat
  | .core n => (getCore s n).pts
  | .engine n => (getCore s n).engPts
  | .chorus => s.chorus.pts
  | .manager => s.hw.pts

/-- The clock of an agent set. -/
def setClock (s : State) (a : Agent) (t : Nat) : State :=
  match a with
  | .core n => modCore s n (fun c => { c with pts := t })
  | .engine n => modCore s n (fun c => { c with engPts := t })
  | .chorus => { s with chorus := { s.chorus with pts := t } }
  | .manager => { s with hw := { s.hw with pts := t } }

/-- What agent `b` has done comes before what agent `a` does next: a's clock is raised to b's (R230, R235, R246). -/
def follows (s : State) (a b : Agent) : State := if clockOf s b ≤ clockOf s a then s else setClock s a (clockOf s b)

/-- The lines that n bytes from a place lie in. -/
def linesOf (p n : Nat) : List Nat := (upTo (lineOf (p + n - 1) + 1 - lineOf p)).map (fun i => lineOf p + i)

/-- The times of a line by its number. -/
def lineTime (s : State) (l : Nat) : LineTime := spGet {} s.hw.lines l

/-- The times of a line replaced. -/
def setLineTime (s : State) (l : Nat) (t : LineTime) : State := { s with hw := { s.hw with lines := spSet {} s.hw.lines l t } }

/-- The lease length: 16 for global lines, 0 for local ones (R232). -/
def leaseLength (p : Nat) : Nat := if isGlobalPlace p then 16 else 0

/-- The logical time of a load of some lines by an agent whose clock reads `pts` (Table 10.1). -/
def loadTime (s : State) (ls : List Nat) (pts : Nat) : Nat := ls.foldl (fun t l => max t (lineTime s l).wts) pts

/-- The logical time of a write of some lines by an agent whose clock reads `pts` (Table 10.1). -/
def storeTime (s : State) (ls : List Nat) (pts : Nat) : Nat := ls.foldl (fun t l => max t ((lineTime s l).rts + 1)) pts

/-- Table 10.1: an agent loads n bytes at their home. One access takes one time, though it lie in several lines. -/
def loads (s : State) (a : Agent) (p n : Nat) : State :=
  let t := loadTime s (linesOf p n) (clockOf s a)
  setClock ((linesOf p n).foldl (fun st l =>
    let x := lineTime st l
    setLineTime st l { x with rts := max x.rts (t + leaseLength p) }) s) a t

/-- Table 10.1: an agent writes n bytes at their home. -/
def stores (s : State) (a : Agent) (p n : Nat) : State :=
  let t := storeTime s (linesOf p n) (clockOf s a)
  setClock ((linesOf p n).foldl (fun st l => setLineTime st l { wts := t, rts := t }) s) a t

/-! ## Commutative-update partials (R241) -/

/-- The reduction operations: VRED's and RED's codes (Tables 6.3, 8.5). -/
def reduceOp (op size m v : Nat) : Nat :=
  let w := 8 * size
  match op with
  | 0 => (m + v) % 2 ^ w
  | 1 => m &&& v
  | 2 => m ||| v
  | 3 => m ^^^ v
  | 4 => if toSigned w m ≤ toSigned w v then m else v
  | 5 => if toSigned w m ≤ toSigned w v then v else m
  | 6 => if m ≤ v then m else v
  | 7 => if m ≤ v then v else m
  | _ => (addFp32 m v).1

/-- The values of some lines with their partials merged (R241). -/
def mergeValues (s : State) (ls : List Nat) : State :=
  if s.hw.partials.isEmpty then s
  else
    let here := s.hw.partials.filter (fun q => ls.contains (lineOf q.place))
    let rest := s.hw.partials.filter (fun q => !ls.contains (lineOf q.place))
    here.foldl (fun st q =>
      putBytes st q.place (bytesOf q.size (reduceOp q.op q.size (rawNat st q.place q.size) q.value)))
      { s with hw := { s.hw with partials := rest } }

/-- The identity of an operation (R241). -/
def reduceIdentity (op size : Nat) : Nat :=
  let w := 8 * size
  match op with
  | 1 => 2 ^ w - 1
  | 4 => 2 ^ (w - 1) - 1
  | 5 => 2 ^ (w - 1)
  | 6 => 2 ^ w - 1
  | 8 => fp32NegZero
  | _ => 0

/-- A reduction held in the partial of a die (R241). -/
def holdPartial (s : State) (p size op die v : Nat) : State :=
  let mine := fun (q : Partial) => q.place == p && q.size == size && q.op == op && q.die == die
  match s.hw.partials.find? mine with
  | some _ =>
    { s with hw := { s.hw with partials := s.hw.partials.map (fun q =>
        if mine q then { q with value := reduceOp op size q.value v } else q) } }
  | none =>
    { s with hw := { s.hw with partials := s.hw.partials ++
        [{ place := p, size := size, op := op, die := die, value := reduceOp op size (reduceIdentity op size) v }] } }

/-- A reduction of another operation or width in the line forces a merge first (R241). -/
def partialsConflict (s : State) (p size op : Nat) : Bool :=
  s.hw.partials.any (fun q => lineOf q.place == lineOf p && !(q.size == size && q.op == op))

/-! ## Page-table walks (R347, R348) -/

/-- How a walk ends. -/
inductive WalkEnd where
  | leaf (bits tgt node addr : Nat) (rd wr : Bool)
  | unmapped
  | malformed
deriving DecidableEq, Repr

/-- A frame of 64 KiB that has been retired (R343). -/
def isRetired (s : State) (a : Nat) : Bool := s.hw.retired.contains (a / 65536)

/-- A page of package memory can be used: every byte of it is one of Table 15.2, and none lies in a retired frame (R348). -/
def pageUsable (s : State) (a size : Nat) : Bool :=
  pageExists a size && !s.hw.retired.any (fun f => decide (f < (a + size + 65535) / 65536) && decide (a / 65536 ≤ f))

/-- One level of a walk: the table at `table`, level 1 to 3 (Table 15.7). A NODE other than 0 beside a TGT other than 1 is malformed, as
a reserved bit that is set (DEDUCED: Table 15.8 says 'otherwise 0', and the list of malformed entries does not name it; log entry 85). -/
def walkLevel (s : State) (va : Nat) : Nat → Nat → Nat → WalkEnd
  | 0, _, _ => .malformed
  | fuel + 1, level, table =>
    let lo := if level = 1 then 38 else if level = 2 then 27 else 16
    let len := if level = 1 then 10 else 11
    let e := rawNat s (table + 8 * field va lo len) 8
    let tgt := field e 62 2
    let node := field e 46 16
    let addr := field e 12 34 * 4096
    let wr := bitAt e 4
    let rd := bitAt e 3
    let leaf := bitAt e 2
    if !bitAt e 0 then .unmapped
    else if field e 5 7 ≠ 0 ∨ bitAt e 1 ∨ tgt = 3 ∨ (wr && !rd) ∨ (!leaf && level == 3) ∨ (tgt ≠ 1 ∧ node ≠ 0) then
      .malformed
    else if leaf then
      if addr % 2 ^ lo ≠ 0 then .malformed
      else if tgt = 0 ∧ !pageUsable s addr (2 ^ lo) then .malformed
      else .leaf lo tgt node addr rd wr
    else if tgt ≠ 0 ∨ addr % 65536 ≠ 0 ∨ !pageUsable s addr 16384 then .malformed
    else walkLevel s va fuel (level + 1) addr

/-- The walk of an address from a context's root (R347, R348). -/
def walkTable (s : State) (root va : Nat) : WalkEnd := walkLevel s va 3 1 root

/-! ## Mapped pages and frames (R343, R347, R362) -/

/-- The indices of the valid entries of a table, by the memory cells that list them. -/
def validEntries (s : State) (table count : Nat) : List Nat :=
  (s.mem.filter (fun e => decide (table ≤ e.1) && decide (e.1 < table + 8 * count) && (e.1 - table) % 8 == 0 && e.2.toNat % 2 == 1)).map
    (fun e => (e.1 - table) / 8)

/-- The mapped pages of a table tree with the virtual address of each (R347). -/
def pagesFrom (s : State) (root : Nat) : Nat → Nat → Nat → Nat → List (Nat × WalkEnd)
  | 0, _, _, _ => []
  | fuel + 1, level, table, base =>
    let lo := if level = 1 then 38 else if level = 2 then 27 else 16
    (validEntries s table (if level = 1 then 512 else 2048)).flatMap (fun i =>
      let va := base + i * 2 ^ lo
      let e := rawNat s (table + 8 * i) 8
      if bitAt e 2 then [(va, walkTable s root va)] else pagesFrom s root fuel (level + 1) (field e 12 34 * 4096) va)

/-- The mapped pages of a context. -/
def pagesOf (s : State) (c : Ctx) : List (Nat × WalkEnd) := pagesFrom s c.root 3 1 c.root 0

/-- A context maps a place of package memory. -/
def mapsPlace (s : State) (c : Ctx) (p : Nat) : Bool :=
  (pagesOf s c).any (fun e =>
    match e.2 with
    | .leaf bits 0 _ addr _ _ => decide (addr ≤ p) && decide (p < addr + 2 ^ bits)
    | _ => false)

/-! ## Translation (R328, R349) -/

/-- What a global address resolves to. -/
inductive Xlat where
  | miss
  | bad (c : Cause)
  | pkg (place : Nat) (rd wr : Bool)
  | remote (tgt node addr : Nat) (rd wr : Bool)
deriving DecidableEq, Repr

/-- A finished walk as a translation of an address. -/
def xlatOfWalk (va : Nat) : WalkEnd → Xlat
  | .leaf bits tgt node addr rd wr =>
    let a := addr + va % 2 ^ bits
    if tgt = 0 then .pkg a rd wr else .remote tgt node a rd wr
  | .unmapped => .bad .translate
  | .malformed => .bad .protect

/-- A cache entry translates an address. -/
def TlbEntry.covers (e : TlbEntry) (va : Nat) : Bool := e.page == va / 2 ^ e.bits

/-- An entry as a translation of an address. -/
def TlbEntry.xlat (e : TlbEntry) (va : Nat) : Xlat :=
  match e.bad with
  | some c => .bad c
  | none =>
    let a := e.addr + va % 2 ^ e.bits
    if e.tgt = 0 then .pkg a e.rd e.wr else .remote e.tgt e.node a e.rd e.wr

/-- The translation cache of a die. -/
def dieTlb (s : State) (die : Nat) : List DieTlbEntry := if die = 0 then s.hw.tlb0 else s.hw.tlb1

/-- Translation by the core's translation cache, and where that has no entry by the cache of its die (R328, R349). -/
def xlatCore (s : State) (n va : Nat) : Xlat :=
  let c := getCore s n
  match c.tlb.find? (fun e => e.covers va) with
  | some e => e.xlat va
  | none =>
    match (dieTlb s (dieOf n)).find? (fun e => some e.ctx == c.ctx && e.entry.covers va) with
    | some e => e.entry.xlat va
    | none => .miss

/-- Translation by a walk that is waited for: jobs, the chorus and the hardware's own accesses (R328). -/
def xlatCtx (s : State) (c : Ctx) (va : Nat) : Xlat := xlatOfWalk va (walkTable s c.root va)

/-! ## A launch's view (R243, R254) -/

/-- On whose behalf an access is made: context, launch, run and task slot; launch 0 for none. -/
structure Who where
  ctx : Nat
  launch : Nat
  run : Bool
  slot : Nat
deriving DecidableEq, Repr

/-- The slot number that marks merged bytes: those of the launch version itself (R255). -/
def mergedSlot : Nat := 1024

/-- The newest shadow byte of a place among a launch and its ancestors, with the launch that holds it (R243, R254). -/
def shadowFind (c : Ctx) : Nat → Nat → Bool → Nat → Option (Nat × ShadowByte)
  | 0, _, _, _ => none
  | fuel + 1, h, run, p =>
    match findLaunch c h with
    | none => none
    | some l =>
      let stored := l.shadow.find? (fun b => b.place == p && b.run == run)
      let mine := match stored, l.blockBytes.find? (fun b => b.place == p && b.run == run) with
        | some b, some q => if b.seq < q.seq then some q else some b
        | some b, none => some b
        | none, q => q
      let up : Option (Nat × ShadowByte) :=
        match l.origin with
        | .host _ => none
        | .child ph pr _ => shadowFind c fuel ph pr p
      match mine, up with
      | none, u => u
      | some b, none => some (h, b)
      | some b, some (k, q) => if q.seq < b.seq then some (h, b) else some (k, q)

/-- The depth of nesting a view looks through. -/
def viewDepth (c : Ctx) : Nat := c.launches.length + 1

/-- The shadow byte of a place that a launch reads: the newest among it and its ancestors, where no committed write is newer
(R243, R254). -/
def viewFind (s : State) (w : Who) (p : Nat) : Option (Nat × ShadowByte) :=
  match getCtx s w.ctx with
  | none => none
  | some c =>
    match shadowFind c (viewDepth c) w.launch w.run p with
    | none => none
    | some (h, b) => if b.seq < spGet 0 s.hw.order p then none else some (h, b)

/-- The byte at a global place as a launch sees it. -/
def viewByte (s : State) (w : Who) (p : Nat) : Byte :=
  match viewFind s w p with
  | some (_, b) => b.byte
  | none => rawByte s p

/-- n bytes from a place as a launch sees them; local bytes have no shadow (R245). -/
def viewBytes (s : State) (w : Who) (p : Nat) : Nat → List Byte
  | 0 => []
  | n + 1 => (if isGlobalPlace p then viewByte s w p else rawByte s p) :: viewBytes s w (p + 1) n

/-- The slots that a launch is nested in (R203): its discard is theirs already, so it does not depend on them (R244, R255; log
entry 61). -/
def nestSlots (c : Ctx) : Nat → Nat → List Nat
  | 0, _ => []
  | fuel + 1, h =>
    match findLaunch c h with
    | none => []
    | some l =>
      match l.origin with
      | .host _ => []
      | .child p _ k => k :: nestSlots c fuel p

/-- A byte's slot is one that a read or write for `w` becomes dependent on (R244). -/
def dependsOn (s : State) (w : Who) (k : Nat) : Bool :=
  k != mergedSlot && k != w.slot &&
    !(((getCtx s w.ctx).map (fun c => (nestSlots c (viewDepth c) w.launch).contains k)).getD false)

/-- The open slots other than its own whose bytes a read of n bytes returns (R244). -/
def viewSlots (s : State) (w : Who) (p : Nat) : Nat → List Nat
  | 0 => []
  | n + 1 =>
    let rest := viewSlots s w (p + 1) n
    match viewFind s w p with
    | some (_, b) => if dependsOn s w b.slot then insertNat b.slot rest else rest
    | none => rest

/-- A task's slot becomes dependent on open slots (R244). -/
def addDeps (s : State) (w : Who) (ds : List Nat) : State :=
  if ds.isEmpty then s
  else modRun s w.ctx w.launch w.run (fun r =>
    { r with slots := r.slots.map (fun t =>
        if t.num = w.slot then { t with deps := ds.foldl (fun acc d => insertNat d acc) t.deps } else t) })

/-- The identity of the issuing task (R254). -/
def whoIs (s : State) (n : Nat) : Who :=
  let c := getCore s n
  match c.ctx, c.task with
  | some k, some t => ⟨k, t.launch, t.run, t.slot.getD mergedSlot⟩
  | some k, none => ⟨k, 0, false, mergedSlot⟩
  | none, _ => ⟨64, 0, false, mergedSlot⟩

/-- A PREPARED version on die 1, or a peer's prepared shadow, still holds a line of n bytes against every agent but its own
launch (R263). -/
def heldByPrepared (s : State) (w : Who) (p n : Nat) : Bool :=
  let ls := linesOf p n
  s.ctxs.any (fun e => e.2.launches.any (fun l =>
    !(e.1 == w.ctx && l.handle == w.launch) && l.phase == .preparing &&
      l.shadow.any (fun b => placeDie b.place == 1 && ls.contains (lineOf b.place)))) ||
    s.link.peers.any (fun q => q.prepared && q.bytes.any (fun b => ls.contains (lineOf b.place)))

/-- Two bytes' units of `u` bytes, one of them among n bytes from p, are the same. -/
def unitMet (u p n d : Nat) : Bool := decide (p / u ≤ d / u) && decide (d / u ≤ (p + n - 1) / u)

/-- A read of n bytes finds a damaged byte d: in its 64-byte transfer of HBM and the green room (R343), else in its 32-bit word (R338). -/
def damageMet (p n d : Nat) : Bool := unitMet (if isGlobalPlace d then 64 else 4) p n d

/-- An uncorrectable error among n bytes, of the memory or of the L2's copy (R338, R343). -/
def isDamaged (s : State) (p n : Nat) : Bool := s.hw.damaged.any (damageMet p n) || s.hw.cached.any (unitMet 4 p n)

/-- The bytes of n that a launch reads from its shadow lie in a spilled line with an uncorrectable error (R258, R343). -/
def spillDamaged (s : State) (w : Who) (p n : Nat) : Bool :=
  !s.hw.badSpill.isEmpty && (upTo n).any (fun i =>
    match viewFind s w (p + i) with
    | some (_, b) => b.spilled && s.hw.badSpill.contains (w.ctx, lineOf (p + i))
    | none => false)

/-! ## Footprints (R251) -/

/-- The write or open entry of a record that contains an address. -/
def footOf (r : LaunchRec) (a : Nat) : Option FootEntry :=
  r.foot.find? (fun e => (e.kind == 2 || e.kind == 3) && decide (e.base ≤ a) && decide (a < e.base + e.size))

/-- CheckWriteByte (R251): the entry kind, or the cause. `region` is the record's REGION, 0 for none. -/
def checkWriteByte (r : LaunchRec) (a cls region : Nat) : Except Cause Nat :=
  match footOf r a with
  | none => .error .footprint
  | some e =>
    if e.cls ≠ cls then .error .region
    else if region ≠ 0 ∧ region ≠ e.region then .error .region
    else .ok e.kind

/-- The checks of n bytes from an address: the smallest cause among the bytes (R251). -/
def checkWriteBytes (r : LaunchRec) (a cls region : Nat) : Nat → Cause
  | 0 => .none
  | n + 1 =>
    let rest := checkWriteBytes r (a + 1) cls region n
    match checkWriteByte r a cls region with
    | .ok _ => rest
    | .error c => if rest = .none ∨ c.code < rest.code then c else rest

/-- The record of an access's launch. -/
def recOf (s : State) (w : Who) : Option LaunchRec := (getLaunch s w.ctx w.launch).map (fun l => l.desc)

/-- The launch runs in rehearsal (R267): its own record says so. A child nested in a rehearsed run, whose record does not, is under none
of R268's prohibitions (DESIGN CHOICE: the rule does not speak of it; log entry 65). -/
def rehearsing (s : State) (w : Who) : Bool :=
  match recOf s w with
  | some r => r.flag 1
  | none => false

end Sys2Proof.Machine
end

