-- ==== Sys2Proof/Machine/L2.lean ====
section
/-!
DEFINITION. The lines that the L2 holds, the growth of a line (R340, R341), and the spill area (R257 to R259).
-/
namespace Sys2Proof.Machine

/-! ## The spill area (R257 to R259) -/

/-- The distinct lines of a list of shadow bytes that a test keeps: a line of a run counts once, however many slots have a copy of it
(DESIGN CHOICE: R254 and R257 do not say; log entry 94). -/
def shadowLines (f : ShadowByte → Bool) (bs : List ShadowByte) : List Nat :=
  bs.foldl (fun acc b => if f b then insertNat (2 * lineOf b.place + ofBool b.run) acc else acc) []

/-- The distinct lines of the bytes that a test keeps of a peer's shadow. -/
def peerLines (f : PeerByte → Bool) (bs : List PeerByte) : List Nat :=
  bs.foldl (fun acc b => if f b then insertNat (lineOf b.place) acc else acc) []

/-- The shadow budget in lines of each die (R257). -/
def LaunchRec.budgetLines (r : LaunchRec) : Nat :=
  if r.budget = 0 then 65536 else min r.budget 786432

/-- The shadow kept here for launches of other packages that lies in the memory of a context (R264). -/
def peersOf (s : State) (c : Ctx) : List PeerShadow := s.link.peers.filter (fun q => q.job == c.job && q.dest == c.rank)

/-- The uncommitted lines that a die's L2 holds, of every launch (R257, R264). -/
def shadowOnDie (s : State) (die : Nat) : Nat :=
  s.ctxs.foldl (fun acc e => e.2.launches.foldl (fun a q =>
    a + (shadowLines (fun b => !b.spilled && placeDie b.place == die) q.shadow).length) acc)
    (s.link.peers.foldl (fun a q => a + (peerLines (fun b => !b.spilled && placeDie b.place == die) q.bytes).length) 0)

/-- The bytes of shadow of every launch: at least as many as their lines. -/
def shadowBytes (s : State) : Nat :=
  s.ctxs.foldl (fun acc e => e.2.launches.foldl (fun a q => a + q.shadow.length) acc)
    (s.link.peers.foldl (fun a q => a + q.bytes.length) 0)

/-- Whether a new line of a launch goes to the spill area (R257). -/
def mustSpill (s : State) (l : Launch) (die : Nat) : Bool :=
  let mine := fun (_ : Unit) => (shadowLines (fun b => !b.spilled && placeDie b.place == die) l.shadow).length
  (decide (l.desc.budgetLines ≤ l.shadow.length) && decide (l.desc.budgetLines ≤ mine ())) ||
    (decide (786432 ≤ shadowBytes s) && decide (786432 ≤ shadowOnDie s die))

/-- The spill lines in use by a context (R258, R264). -/
def spillUsed (s : State) (c : Ctx) : Nat :=
  c.launches.foldl (fun a l => a + (shadowLines (fun b => b.spilled) l.shadow).length)
    ((peersOf s c).foldl (fun a q => a + (peerLines (fun b => b.spilled) q.bytes).length) 0)

/-- The spill lines a launch may use: the area, and for an exclusive launch 512 lines per frame of the allowance (R258,
R259). -/
def spillLimit (c : Ctx) (l : Launch) : Nat := c.spillCap + (if l.desc.flag 2 then 512 * c.allowance else 0)

/-! ## Evictions (R341) -/

/-- No line has partials or is a shadow line, so that an eviction has nothing to dispose of. -/
def nothingHeld (s : State) : Bool :=
  s.hw.partials.isEmpty && s.link.peers.isEmpty && s.ctxs.all (fun e => e.2.launches.all (fun l => l.shadow.isEmpty))

/-- Some context's spill area may be full after as many lines as one write evicts. -/
def spillTight (s : State) : Bool :=
  s.ctxs.any (fun e =>
    let most := e.2.launches.foldl (fun a l => a + l.shadow.length) ((peersOf s e.2).foldl (fun a q => a + q.bytes.length) 0)
    decide (e.2.spillCap < most) && decide (e.2.spillCap < spillUsed s e.2 + 33))

/-- A line of an owner is among those evicted. -/
def evicted (xs : List L2Line) (o : LineOwner) (line : Nat) : Bool := xs.any (fun x => x.owner == o && x.line == line)

/-- The shadow of a launch as an eviction leaves it. -/
def spillLaunch (xs : List L2Line) (k : Nat) (l : Launch) : Launch :=
  { l with shadow := l.shadow.map (fun b =>
      { b with spilled := b.spilled || evicted xs (.launch k l.handle b.run) (lineOf b.place) }) }

/-- The shadow kept for another package as an eviction leaves it. -/
def spillPeer (xs : List L2Line) (q : PeerShadow) : PeerShadow :=
  { q with bytes := q.bytes.map (fun b =>
      { b with spilled := b.spilled || evicted xs (.peer q.dest q.node q.job q.rank q.launch) (lineOf b.place) }) }

/-- An evicted shadow line found its context's spill area full (R258). -/
def overflowed (s : State) (xs : List L2Line) : Bool :=
  xs.any (fun x =>
    match x.owner with
    | .committed => false
    | .launch k h _ =>
      match getCtx s k, getLaunch s k h with
      | some c, some l => decide (spillLimit c l < spillUsed s c)
      | _, _ => false
    | .peer dest _ job _ _ =>
      s.ctxs.any (fun e => e.2.job == job && e.2.rank == dest && decide (e.2.spillCap < spillUsed s e.2)))

/-- Evicted lines are disposed of (R341): a committed one has its partials merged and goes back to its memory, a shadow line
goes to its context's spill area; true where the area has no line for it. -/
def evict (s : State) (xs : List L2Line) : State × Bool :=
  if nothingHeld s then (s, false)
  else
    let s1 := mergeValues s ((xs.filter (fun x => x.owner == .committed)).map (fun x => x.line))
    let s2 := { s1 with
      ctxs := s1.ctxs.map (fun e => (e.1, { e.2 with launches := e.2.launches.map (spillLaunch xs e.1) }))
      link := { s1.link with peers := s1.link.peers.map (spillPeer xs) } }
    (s2, spillTight s && overflowed s2 xs)

/-! ## Places of lines (R340, R341) -/

/-- The slices of a die (R339). -/
def l2Slices : Nat := 128

/-- The sets of a slice: 1,572,864 physical lines of a die, 16 in each set (R339, R340). -/
def l2Sets : Nat := 768

/-- The slice of a line: a hash of its 256-byte block (R339). -/
def l2SliceOf (l : Nat) : Nat := l2Slices * placeDie (128 * l) + Config.l2Slice (l / 2) % l2Slices

/-- The set of a line, in its slice (R339, R340). -/
def l2SetOf (l : Nat) : Nat := l2Sets * l2SliceOf l + Config.l2Set l % l2Sets

/-- The sectors that lines take of a physical line. -/
def usedSectors (ls : List L2Line) (ph : Nat) : Nat :=
  (ls.filter (fun x => x.phys == ph)).foldl (fun a x => a + x.sectors) 0

/-- A context holds a line under RES KEEP (R228). -/
def keptLine (s : State) (l : Nat) : Bool := s.ctxs.any (fun e => e.2.kept.contains l)

/-- How late step 2 of R341 takes a physical line: by its lines, and last of all where KEEP holds one of them. -/
def emptyRank (s : State) (ls : List L2Line) (ph : Nat) : Nat :=
  let here := ls.filter (fun x => x.phys == ph)
  here.length + (if here.any (fun x => keptLine s x.line) then 64 else 0)

/-- The physical line that step 2 of R341 empties for a line that grows out of `own`: of equal ones the first. -/
def emptiest (s : State) (ls : List L2Line) (own : Nat) : Nat :=
  ((upTo 16).filter (fun ph => ph != own)).foldl (fun best ph =>
    if emptyRank s ls ph < emptyRank s ls best then ph else best) (if own = 0 then 1 else 0)

/-- Where a written line of k sectors goes in its set beside the other lines: its physical line, the lines that leave, and
whether it grew (R341). A line that the L2 did not hold takes the first physical line with room; where there is none, or none of the
32 tags is free, the lines of one that holds some leave, a free choice (log entry 4). -/
def l2Room (s : State) (others : List L2Line) (own : Option L2Line) (k pick : Nat) : Nat × List L2Line × Bool :=
  let fits := fun (ph : Nat) => decide (usedSectors others ph + k ≤ 4)
  let emptied := fun (ph : Nat) => others.filter (fun x => x.phys == ph)
  let full := (upTo 16).filter (fun ph => others.any (fun x => x.phys == ph))
  let victim := full.getD (pick % full.length) 0
  match own with
  | some x =>
    if fits x.phys then (x.phys, [], true)
    else
      match (upTo 16).find? (fun ph => ph != x.phys && fits ph) with
      | some ph => (ph, [], true)
      | none => (emptiest s others x.phys, emptied (emptiest s others x.phys), true)
  | none =>
    match (upTo 16).find? fits with
    | some ph => if others.length < 32 then (ph, [], false) else (victim, emptied victim, false)
    | none => (victim, emptied victim, false)

/-- A written line takes its place in the L2 (R340, R341), unless it lies in the spill area; true where an evicted shadow line
finds that area full. -/
def l2Write (s : State) (l : Nat) (o : LineOwner) (skip : Bool) : State × Bool :=
  let set := l2SetOf l
  let ls := spGet [] s.hw.l2 set
  let mine := fun (x : L2Line) => x.line == l && x.owner == o
  let others := ls.filter (fun x => !mine x)
  let k := Config.l2Sectors s.fresh % 4 + 1
  let r := l2Room s others (ls.find? mine) k (Config.l2Victim s.fresh)
  let out := if skip then [] else r.2.1
  let left := if skip then ls else others.filter (fun x => !out.contains x) ++ [{ line := l, owner := o, phys := r.1, sectors := k }]
  let die := placeDie (128 * l)
  let cnt : DieCounters := spGet {} s.hw.counters die
  let grown : Nat := if r.2.2 then out.length else 0
  evict { s with
    fresh := s.fresh + 1
    hw := { s.hw with l2 := spSet [] s.hw.l2 set left
                      counters := spSet {} s.hw.counters die { cnt with casc := min (cnt.casc + grown) (2 ^ 64 - 1) } } } out

/-- A line that a write meets: its number, whose copy is written, and whether that lies in the spill area. -/
structure LineWrite where
  line : Nat
  owner : LineOwner
  spilled : Bool
deriving DecidableEq, Repr

/-- Several written lines take their places. -/
def l2WriteAll (s : State) (ls : List LineWrite) : State × Bool :=
  ls.foldl (fun (acc : State × Bool) e => let r := l2Write acc.1 e.line e.owner e.spilled; (r.1, acc.2 || r.2)) (s, false)

/-- The partials of some lines merge into their values (R241), which is a write of each of them: it finds its place as any other, and an
evicted shadow line goes to the spill area even where that is full (R341; log entry 62). -/
def mergeLines (s : State) (ls : List Nat) : State :=
  if s.hw.partials.isEmpty then s
  else
    let due := ls.filter (fun l => s.hw.partials.any (fun q => lineOf q.place == l))
    (l2WriteAll (mergeValues s ls) (due.map (fun l => ⟨l, .committed, false⟩))).1

/-- The partials of the lines of n bytes merge into their values; local lines have none (R241). -/
def mergePartials (s : State) (p n : Nat) : State := if isGlobalPlace p then mergeLines s (linesOf p n) else s

/-- The committed lines of n written bytes take their places. What another agent than a launch writes always finds one: an
evicted shadow line goes to the spill area even where that is full (log entry 62). -/
def l2Commit (s : State) (p n : Nat) : State :=
  if isGlobalPlace p then (l2WriteAll s ((linesOf p n).map (fun l => ⟨l, .committed, false⟩))).1 else s

/-- A version still has bytes of a line in the L2. -/
def ownerHolds (s : State) (x : L2Line) : Bool :=
  match x.owner with
  | .committed => true
  | .launch k h run =>
    ((getLaunch s k h).map (fun l => l.shadow.any (fun b => lineOf b.place == x.line && b.run == run && !b.spilled))).getD false
  | .peer dest node job rank handle =>
    s.link.peers.any (fun q => q.dest == dest && q.node == node && q.job == job && q.rank == rank && q.launch == handle &&
      q.bytes.any (fun b => lineOf b.place == x.line && !b.spilled))

/-- The L2 holds no line of a version that has no bytes left there, and what no shadow is compared with any longer is forgotten
(R252, R254). -/
def l2Sweep (s : State) : State :=
  { s with hw := { s.hw with
      l2 := (s.hw.l2.map (fun e => (e.1, e.2.filter (ownerHolds s)))).filter (fun e => !e.2.isEmpty)
      order := s.hw.order.filter (fun e => hasShadow s e.1) } }

end Sys2Proof.Machine
end

