-- ==== Sys2Proof/Machine/Store.lean ====
section
/-!
DEFINITION. Writes and what they set off: the shadow (R251, R254, R257), tags and their waiters (R187, R188), monitored waits
(R189), barriers (R190, R191), and packets to other packages (R239, R361).
-/
namespace Sys2Proof.Machine

/-! ## Results and waits of a core -/

/-- A pending interlocked result gets its value and awaits nothing more (R81). -/
def fillPending (s : State) (n id : Nat) (p : Payload) : State :=
  modCore s n (fun c => { c with pend := c.pend.map (fun e => if e.id = id then { e with what := p, waits := 0 } else e) })

/-- An instruction that waited has been performed (R184). -/
def dropSync (s : State) (n id : Nat) : State :=
  modCore s n (fun c => { c with sync := c.sync.filter (fun o => decide (o.id ≠ id)) })

/-! ## Barriers (R190) -/

/-- Complete (R190) in closed form: with a target above 0, as many generations as the counter holds targets. -/
def Barrier.complete (b : Barrier) : Barrier :=
  if !b.armed then b
  else if b.target = 0 then { b with gen := (b.gen + 1) % 2 ^ 32, armed := false }
  else
    let k := b.count / b.target
    { b with count := b.count % b.target, gen := (b.gen + k) % 2 ^ 32 }

/-- The key of a barrier name within a context (R31). -/
def barrierKey (name : Nat) : Nat := name % 2 ^ 24

/-- The barrier with a name. -/
def Ctx.barrier (c : Ctx) (name : Nat) : Barrier := spGet {} c.barriers (barrierKey name)

/-- A barrier replaced. -/
def Ctx.setBarrier (c : Ctx) (name : Nat) (b : Barrier) : Ctx :=
  { c with barriers := spSet {} c.barriers (barrierKey name) b }

/-- An access of a barrier takes its logical time, as a write or a load of a line does (R230, R232). -/
def barTime (s : State) (k name : Nat) (a : Agent) (write : Bool) : State :=
  match getCtx s k with
  | none => s
  | some c =>
    let b := c.barrier name
    if write then
      let t := max (clockOf s a) (b.time.rts + 1)
      setClock (setCtx s k (c.setBarrier name { b with time := { wts := t, rts := t } })) a t
    else
      let t := max (clockOf s a) b.time.wts
      setClock (setCtx s k (c.setBarrier name { b with time := { b.time with rts := max b.time.rts t } })) a t

/-- The generation of a barrier of a context. -/
def barrierGen (s : State) (n name : Nat) : Nat :=
  match getCtx s n with
  | some c => (c.barrier name).gen
  | none => 0

/-! ## Packets (R239, R361, R362) -/

/-- Node number that stands for the host. -/
def hostNode : Nat := 65536

/-- A route in service leads to a node (R360, R363). The host of PCI Express and the package itself need none. -/
def reachable (s : State) (node : Nat) : Bool :=
  node == hostNode || node == s.link.node ||
    (match spFind s.link.routes node with
     | some port => !s.link.ports.contains port
     | none => false)

/-- A packet sent on its virtual channel (Table 16.4). This router refuses one that no route takes (R363). -/
def sendPacket (s : State) (p : Packet) : State :=
  if reachable s p.dst then { s with link := { s.link with out := s.link.out ++ [p] } }
  else { s with link := { s.link with lost := s.link.lost ++ [p] } }

/-- The answer to a packet, on VC 1 with its tag (Table 16.4), and the sub-versions met (R244). -/
def answerDeps (s : State) (p : Packet) (kind : Nat) (payload : List Byte) (deps : List Nat) : State :=
  sendPacket s { p with kind := kind, vc := 1, src := s.link.node, dst := p.src, rank := p.srank, srank := p.rank, payload := payload
                        parents := [], deps := deps, wait := 0 }

/-! ## The view of a launch of another package (R243, R254) -/

/-- The shadow belongs to a run of a launch of the rank that a packet comes from. -/
def PeerShadow.isRun (q : PeerShadow) (p : Packet) (key : Nat) : Bool :=
  q.dest == p.rank && q.node == p.src && q.job == p.job && q.rank == p.srank && q.launch == key

/-- The newer of two shadow bytes. -/
def newerByte : Option PeerByte → PeerByte → Option PeerByte
  | none, b => some b
  | some a, b => if a.seq < b.seq then some b else some a

/-- The shadow byte of a place that a packet's launch reads: the newest among its own and those of the launches it is nested in,
where no committed write is newer. -/
def peerFind (s : State) (p : Packet) (place : Nat) : Option PeerByte :=
  if p.launch = 0 then none
  else
    let mine := s.link.peers.filter (fun q => (p.launch :: p.parents).any (fun key => q.isRun p key))
    let found := mine.foldl (fun acc q =>
      match q.bytes.find? (fun b => b.place == place) with
      | some b => newerByte acc b
      | none => acc) none
    match found with
    | none => none
    | some b => if b.seq < spGet 0 s.hw.order place then none else some b

/-- Bytes at their home as the launch that a packet names sees them (R239, R243, R254). -/
def peerRead (s : State) (p : Packet) (place n : Nat) : List Byte :=
  (upTo n).map (fun i => ((peerFind s p (place + i)).map (fun b => b.byte)).getD (rawByte s (place + i)))

/-- The other sub-versions whose bytes a read of n bytes returns (R244). -/
def peerReadDeps (s : State) (p : Packet) (place n : Nat) : List Nat :=
  (upTo n).foldl (fun acc i =>
    match peerFind s p (place + i) with
    | some b => if b.stamp = 0 ∨ b.stamp = p.stamp then acc else insertNat b.stamp acc
    | none => acc) []

/-! ## Waiters (R188, R189) -/

/-- The value of the doubleword that a WAITV of core n compares, at its home (R189). -/
def waitvValue (s : State) (n place : Nat) : Nat := ofBytes (viewBytes s (whoIs s n) place 8)

/-- The status word of a launch of a context, 0 while it has not ended (R204). -/
def launchStatus (s : State) (n h : Nat) : Nat :=
  match getLaunch s n h with
  | some l => if l.phase = .ended ∨ l.marked then l.status else 0
  | none => 0

/-- A job writes a space: its write footprint, the ring slots it fills, or its flag words, those of a collective's chunks too (R209, R210,
R226, R237). -/
def Job.writesSpace (j : Job) (sp : Nat) : Bool :=
  j.writes.any (fun r => r.space == sp) ||
    (sp == 3 && (j.kind == .cpyq || j.kind == .wset || j.kind == .wadv)) ||
    ((field j.f1.toNat 4 2 == 1 || j.setsFlags) && field j.f1.toNat 6 2 == sp)

/-- A range of global addresses lies in part outside the pages of other packages and of the host. -/
def rangeHere (s : State) (c : Ctx) (lo hi : Nat) : Bool :=
  (upTo ((hi - 1) / 65536 + 1 - lo / 65536)).any (fun i =>
    match xlatCtx s c (65536 * (lo / 65536 + i)) with
    | .remote _ _ _ _ _ => false
    | _ => true)

/-- A job writes global memory of this package (R237). -/
def Job.writesHere (s : State) (c : Ctx) (j : Job) : Bool :=
  j.writes.any (fun r => r.space == 0 && rangeHere s c r.lo r.hi)

/-- A job of a core is one that a release at a scope waits for (Table 10.2): scope 0 device, 1 group, 2 system. -/
def releaseWaitsFor (s : State) (c : Ctx) (scope : Nat) (j : Job) : Bool :=
  match scope with
  | 1 => j.writesSpace 1
  | 2 => true
  | _ => j.writesHere s c || j.writesSpace 1 || j.writesSpace 2 || j.writesSpace 3

/-- Every load and atomic of the core has been performed: none awaits an answer from another package (R199, R239). -/
def loadsPerformed (s : State) (n : Nat) : Bool :=
  !s.link.requests.any (fun r => r.core == n && r.job.isNone && (r.kind == 0x02 || r.kind == 0x06))

/-- What a release waits for (R199, Table 10.2). -/
def releaseReady (s : State) (n scope : Nat) : Bool :=
  loadsPerformed s n && !(getCore s n).jobs.any (releaseWaitsFor s (ctxOfCore s n) scope) && (scope != 2 || (getCore s n).acks.isEmpty)

/-- Whether a waiting instruction of core n can be performed now. -/
def canPerform (s : State) (n : Nat) (o : SyncOp) : Bool :=
  match o.kind with
  | .ldf size _ => tagFull s o.place && (size == 4 || tagFull s (o.place + 4))
  | .ste size _ => !tagFull s o.place && (size == 4 || !tagFull s (o.place + 4))
  | .waitv ne v _ => (waitvValue s n o.place == v) != ne
  | .barw gen => barrierGen s (slotOfCore s n) o.place != gen
  | .lwait h => launchStatus s (slotOfCore s n) h != 0
  | .vldf => o.elems.isEmpty || o.elems.any (fun e => tagFull s e.place)
  | .vste => o.elems.isEmpty || o.elems.any (fun e => !tagFull s e.place)
  | .tget _ _ _ => false
  | .fence kind scope => if kind = 1 then loadsPerformed s n else releaseReady s n scope
  | .remote | .waitvAway _ _ _ _ _ _ _ | .launch _ => false

/-- The first word of a tagged vector access that can be performed, and the rest. -/
def takeElem (f : TagElem → Bool) : List TagElem → Option (TagElem × List TagElem)
  | [] => none
  | e :: es => if f e then some (e, es) else (takeElem f es).map (fun r => (r.1, e :: r.2))

/-- A SyncOp replaced in its core by one with the same id. -/
def putSync (s : State) (n : Nat) (o : SyncOp) : State :=
  modCore s n (fun c => { c with sync := c.sync.map (fun q => if q.id = o.id then o else q) })

/-- The loaded lanes of a VLDF as a result (R152, R153). -/
def vldfPayload (o : SyncOp) : Payload :=
  match o.vdest with
  | some (b, r) => .vec b r (BitVec.ofNat 2048 (packElems 32 64 (fun l => spGet 0 o.got l))) o.mask
  | none => .nothing

/-- A waiting instruction of core n is performed (R187, R189, R190, R204), or one word of a tagged vector access (R152). -/
def performSync (s : State) (n : Nat) (o : SyncOp) : State :=
  let rd := o.rd.getD 0
  match o.kind with
  | .ldf size empty =>
    let v := rawNat s o.place size
    let s1 := if empty then setTag (if size = 8 then setTag s (o.place + 4) false else s) o.place false else s
    let s2 := if empty then stores s1 (.core n) o.place size else loads s1 (.core n) o.place size
    dropSync (fillPending s2 n o.id (.x rd (sext64 (8 * size) v))) n o.id
  | .ste size v =>
    let s1 := putBytes s o.place (bytesOf size v)
    let s2 := setTag (if size = 8 then setTag s1 (o.place + 4) true else s1) o.place true
    dropSync (stores s2 (.core n) o.place size) n o.id
  | .waitv _ _ _ =>
    let v := waitvValue s n o.place
    let s1 := addDeps s (whoIs s n) (viewSlots s (whoIs s n) o.place 8)
    let s2 := modDev (loads s1 (.core n) o.place 8) n (fun d => { d with wtoBit := false })
    dropSync (fillPending s2 n o.id (.x rd (BitVec.ofNat 64 v))) n o.id
  | .barw _ =>
    dropSync (fillPending (barTime s (slotOfCore s n) o.place (.core n) false) n o.id
      (.x rd (BitVec.ofNat 64 (barrierGen s (slotOfCore s n) o.place)))) n o.id
  | .lwait h =>
    dropSync (fillPending (follows s (.core n) .manager) n o.id (.x rd (BitVec.ofNat 64 (launchStatus s (slotOfCore s n) h)))) n o.id
  | .vldf =>
    match takeElem (fun e => tagFull s e.place) o.elems with
    | none => dropSync (fillPending s n o.id (vldfPayload o)) n o.id
    | some (e, es) =>
      putSync (loads s (.core n) e.place 4) n { o with elems := es, got := spPut o.got e.lane (rawNat s e.place 4) }
  | .vste =>
    match takeElem (fun e => !tagFull s e.place) o.elems with
    | none => dropSync s n o.id
    | some (e, es) =>
      let s1 := setTag (putBytes s e.place (bytesOf 4 e.data)) e.place true
      putSync (stores s1 (.core n) e.place 4) n { o with elems := es }
  | .tget _ _ _ => s
  | .fence _ _ => dropSync s n o.id
  | .remote | .waitvAway _ _ _ _ _ _ _ | .launch _ => s

/-- The doubleword of a monitor armed for another package meets its condition, as the launch that waits sees it (R189, R243). -/
def monitorMet (s : State) (m : Monitor) : Bool := (ofBytes (peerRead s m.packet m.place 8) == m.value) != m.ne

/-- A monitor is answered with the doubleword, and is armed no more (R189). -/
def performMonitor (s : State) (m : Monitor) : State :=
  let s1 := loads { s with link := { s.link with monitors := s.link.monitors.filter (fun q => decide (q ≠ m)) } } .manager m.place 8
  answerDeps s1 m.packet 0x03 (peerRead s1 m.packet m.place 8) (peerReadDeps s1 m.packet m.place 8)

/-- What waits: an instruction of a core, or a monitor armed for another package. -/
inductive Waiter where
  | core (n : Nat) (o : SyncOp)
  | monitor (m : Monitor)
deriving DecidableEq, Repr

/-- Its place in the order of arming (R188). -/
def Waiter.armed : Waiter → Nat
  | .core _ o => o.armed
  | .monitor m => m.armed

/-- A waiter is performed. -/
def performWaiter (s : State) : Waiter → State
  | .core n o => performSync s n o
  | .monitor m => performMonitor s m

/-- The waiters that can be performed. A core stopped for a save or restore has none: its waits are armed again when it resumes
(R186). -/
def performable (s : State) : List Waiter :=
  s.cores.flatMap (fun e =>
    if e.2.status = .stopped then [] else (e.2.sync.filter (fun o => canPerform s e.1 o)).map (fun o => .core e.1 o)) ++
    (s.link.monitors.filter (monitorMet s)).map (fun m => .monitor m)

/-- The waiter that was armed first (R188). -/
def firstArmed : List Waiter → Option Waiter
  | [] => none
  | x :: xs =>
    match firstArmed xs with
    | none => some x
    | some y => some (if y.armed < x.armed then y else x)

/-- Every waiting operation that has become performable is performed, in the order of arming, each seeing the effect of the
one before (R188). -/
def settleFuel : Nat → State → State
  | 0, s => s
  | k + 1, s =>
    match firstArmed (performable s) with
    | none => s
    | some w => settleFuel k (performWaiter s w)

/-- The number of single operations that can be waiting. -/
def waitCount (s : State) : Nat :=
  s.cores.foldl (fun acc e => e.2.sync.foldl (fun a o => a + 1 + o.elems.length) acc) s.link.monitors.length

/-- Waiters are served until none is performable. -/
def settle (s : State) : State := settleFuel (waitCount s) s

/-- A core's wait is armed, in one operation with its first check (R187, R189). -/
def armSync (s : State) (n : Nat) (o : SyncOp) : State :=
  let s1 := { s with seq := s.seq + 1 }
  settle (modCore s1 n (fun c => { c with sync := c.sync ++ [{ o with armed := s.seq }] }))

/-! ## Bytes counted by BARC (R191) -/

/-- A global place lies in a range of a context's virtual addresses. -/
def placeInRange (s : State) (c : Ctx) (r : Range) (p : Nat) : Bool :=
  (upTo ((r.hi - r.lo) / 65536 + 2)).any (fun i =>
    let va := (r.lo / 65536 + i) * 65536
    match xlatCtx s c va with
    | .pkg q _ _ => q / 65536 == p / 65536 && decide (r.lo ≤ va + p % 65536) && decide (va + p % 65536 < r.hi)
    | _ => false)

/-- One byte performed at home p for a remote store or the chorus counts into every bytes-mode barrier of its context that
covers it (R191), at the logical time of the agent that performs it (R230). -/
def countByte (s : State) (n p : Nat) (a : Agent) : State :=
  match getCtx s n with
  | none => s
  | some c =>
    let hit := fun (b : Barrier) =>
      match b.bytes with
      | none => false
      | some r => if isGlobalPlace p then r.space == 0 && placeInRange s c r p
                  else r.space != 0 && decide (r.lo ≤ p) && decide (p < r.hi)
    (c.barriers.filter (fun e => hit e.2)).foldl (fun st e =>
      barTime (modCtx st n (fun q => q.setBarrier e.1
        ({ q.barrier e.1 with count := ((q.barrier e.1).count + 1) % 2 ^ 32 } : Barrier).complete)) n e.1 a true) s

/-! ## The shadow (R254, R257, R258) -/

/-- A write of one byte enters the shadow of the writing slot (R254); true beside the state when it needs a spill line
that is not there (R258). -/
def shadowWrite (s : State) (w : Who) (va p : Nat) (b : Byte) : State × Bool :=
  match getCtx s w.ctx with
  | none => (s, false)
  | some c =>
    match findLaunch c w.launch with
    | none => (s, false)
    | some l =>
      let inLine := l.shadow.filter (fun q => lineOf q.place == lineOf p && q.run == w.run)
      let others := inLine.foldl (fun acc q =>
        if q.slot = w.slot ∨ q.slot = mergedSlot then acc else insertNat q.slot acc) []
      let spilled := match inLine with
        | q :: _ => q.spilled
        | [] => mustSpill s l (placeDie p)
      let full := inLine.isEmpty && spilled && decide (spillLimit c l ≤ spillUsed s c)
      if full then (s, true)
      else
        let nb : ShadowByte :=
          { seq := s.seq, run := w.run, slot := w.slot, place := p, va := va, byte := b, spilled := spilled }
        let keep := l.shadow.filter (fun q => !(q.place == p && q.run == w.run && q.slot == w.slot))
        let s1 := modLaunch { s with seq := s.seq + 1 } w.ctx w.launch (fun q => { q with shadow := nb :: keep })
        (addDeps s1 w others, false)

/-! ## Packets of a context (R239, R361, R362) -/

/-- A memory packet of a context to the home of a remote page. -/
def memPacket (s : State) (n kind vc node addr tag launch : Nat) (payload : List Byte) : Packet :=
  let c := (getCtx s n).getD blankCtx
  { kind := kind, vc := vc, src := s.link.node, dst := node, job := c.job, rank := Config.ownerRank node addr,
    srank := c.rank, addr := addr, tag := tag, launch := launch, stamp := 0, payload := payload }

/-- How packets name a run of a launch: 2 × handle + run, 0 for no launch (log entry 8). -/
def launchKey (h : Nat) (run : Bool) : Nat := if h = 0 then 0 else 2 * h + ofBool run

/-- The runs of launches that a launch is nested in, nearest first (R243, R256). -/
def parentKeysFuel (c : Ctx) : Nat → Nat → List Nat
  | 0, _ => []
  | fuel + 1, h =>
    match findLaunch c h with
    | none => []
    | some l =>
      match l.origin with
      | .host _ => []
      | .child p run _ => launchKey p run :: parentKeysFuel c fuel p

/-- The runs of launches that the launch of an access is nested in. -/
def parentKeys (s : State) (w : Who) : List Nat :=
  match getCtx s w.ctx with
  | some c => parentKeysFuel c (viewDepth c) w.launch
  | none => []

/-- A holder of a launch's remote shadow: the node and the virtual rank that own the frame of an address (R264). -/
def peerKey (node addr : Nat) : Nat := node + 131072 * Config.ownerRank node addr

/-- A request remembered until its answer (R362), with the launch's count of remote writes outstanding (R260). -/
def openRequest (s : State) (r : Request) : State :=
  { s with link := { s.link with requests := s.link.requests ++ [r], nextTag := (s.link.nextTag + 1) % 2 ^ 32 } }

/-- The target node of a remote page: a peer, or the host (R348). -/
def remoteNode (tgt node : Nat) : Nat := if tgt = 2 then hostNode else node

/-- The number of the sub-version of a task; 0 for writes of the launch itself. -/
def stampOf (s : State) (w : Who) : Nat :=
  match getLaunch s w.ctx w.launch with
  | none => 0
  | some l => (((l.runOf w.run).slots.find? (fun t => t.num == w.slot)).map (fun t => t.stamp)).getD 0

/-- A packet of an access that its home makes in the view of the sending launch (R239, R243): it names the run, its
parents and the task's sub-version. -/
def inView (s : State) (w : Who) (p : Packet) : Packet :=
  { p with launch := launchKey w.launch w.run, parents := parentKeys s w, stamp := stampOf s w }

/-- A home as every package names it: its node and the address there. -/
def homeName (node addr : Nat) : Nat := node * 2 ^ 48 + addr

/-- A remote write of a core or job at `addr`, a store (0x01) or a reduction (0x07), whose bytes all have one entry kind: 2
for the shadow at the home, else performed on delivery. It is sent and remembered until acknowledged (R239, R260). -/
def sendWrite (s : State) (n : Nat) (w : Who) (code node addr va kind : Nat) (job : Option Nat) (slot bundle : Nat)
    (payload : List Byte) : State :=
  let tag := s.link.nextTag
  let plain := memPacket s w.ctx code 5 node addr tag 0 payload
  let s1 := sendPacket s (if kind = 2 then inView s w plain else plain)
  let s2 := openRequest s1 { tag := tag, kind := code, ctx := w.ctx, core := n, id := 0, off := 0
                             size := if code = 0x07 then ofBytes ((payload.drop 1).take 1) else payload.length
                             signed := false, launch := w.launch, job := job, va := va, slot := slot, bundle := bundle
                             stamp := if kind = 2 then stampOf s w else 0, home := some (homeName node addr) }
  let s3 := modLaunch s2 w.ctx w.launch (fun l =>
    { l with acks := l.acks + 1, peers := if kind = 2 then insertNat (peerKey node addr) l.peers else l.peers })
  match job with
  | none => modCore s3 n (fun c => { c with acks := c.acks ++ [tag] })
  | some j => modCore s3 n (fun c => { c with jobs := c.jobs.map (fun q => if q.id = j then { q with acks := q.acks + 1 } else q) })

/-- A remote store of bytes (R239). -/
def sendStore (s : State) (n : Nat) (w : Who) (node addr va kind : Nat) (job : Option Nat) (slot bundle : Nat)
    (bytes : List Byte) : State := sendWrite s n w 0x01 node addr va kind job slot bundle bytes

/-- The payload of a remote reduction, as the model lays it out: operation, size, operand, ordinal, count, the name of an
ordered sequence, and which of its bytes go to the shadow (log entry 11). -/
def reductionPayload (op size v ordinal count name mask : Nat) : List Byte :=
  bytesOf 1 op ++ bytesOf 1 size ++ bytesOf 8 v ++ bytesOf 4 ordinal ++ bytesOf 4 count ++ bytesOf 8 name ++ bytesOf 1 mask

/-- The fields that the hardware reads of a block, by offset and size: all that software writes but ARG (R294, Table 13.1). -/
def blockReads : List (Nat × Nat) := [(0x00, 8), (0x10, 32), (0x30, 4)]

/-- The payload of a remote atomic, as the model lays it out: operation, size, operand, expected value, and which of its
bytes go to the shadow (log entry 11). -/
def atomicPayload (op size v expected mask : Nat) : List Byte :=
  bytesOf 1 op ++ bytesOf 1 size ++ bytesOf 8 v ++ bytesOf 8 expected ++ bytesOf 1 mask

/-- Bytes cut into runs of one entry kind: (offset, kind, bytes) (R251). -/
def cutKinds (kindOf : Nat → Nat) : Nat → List Byte → List (Nat × Nat × List Byte)
  | _, [] => []
  | i, b :: bs =>
    match cutKinds kindOf (i + 1) bs with
    | (j, k, cs) :: rest => if k = kindOf i ∧ j = i + 1 then (i, k, b :: cs) :: rest else (i, kindOf i, [b]) :: (j, k, cs) :: rest
    | [] => [(i, kindOf i, [b])]

/-! ## Stores -/

/-- The entry kind of a byte of a launch's write: 2 shadow, else at once (R251). -/
def byteKind (s : State) (w : Who) (va : Nat) : Nat :=
  match recOf s w with
  | none => 3
  | some r =>
    match footOf r va with
    | some e => e.kind
    | none => 3

/-- The bytes of a word that lie under write entries, one bit each (R251). -/
def shadowMask (s : State) (w : Who) (va size : Nat) : Nat :=
  packElems 1 size (fun i => if byteKind s w (va + i) = 2 then 1 else 0)

/-- A line of a launch's shadow lies in the spill area, or will (R257). -/
def lineSpilled (s : State) (w : Who) (l : Nat) : Bool :=
  match getLaunch s w.ctx w.launch with
  | none => false
  | some x =>
    match x.shadow.find? (fun q => lineOf q.place == l && q.run == w.run) with
    | some q => q.spilled
    | none => mustSpill s x (placeDie (128 * l))

/-- The lines that a write of n bytes to global memory meets: the launch's copy where a byte enters the shadow, the committed one
where a byte is performed at once (R251, R254). -/
def lineWrites (s : State) (w : Who) (va p n : Nat) : List LineWrite :=
  if !isGlobalPlace p then []
  else
    (linesOf p n).flatMap (fun l =>
      let kinds := ((upTo n).filter (fun i => lineOf (p + i) == l)).map (fun i => byteKind s w (va + i))
      (if kinds.contains 2 then [⟨l, .launch w.ctx w.launch w.run, lineSpilled s w l⟩] else []) ++
        (if kinds.any (fun k => k != 2) then [⟨l, .committed, false⟩] else []))

/-- One byte of a checked write to package memory on behalf of `w` (R245, R251); true when the spill area is full. -/
def storeByte (s : State) (w : Who) (va p : Nat) (b : Byte) : State × Bool :=
  if isGlobalPlace p then
    if byteKind s w va = 2 then shadowWrite s w va p b else (putByte s p b, false)
  else (putByte s p b, false)

/-- Bytes of a checked write to package memory. -/
def storeBytes (s : State) (w : Who) (va p : Nat) : List Byte → State × Bool
  | [] => (s, false)
  | b :: bs =>
    let (s1, f) := storeByte s w va p b
    if f then (s1, true) else storeBytes s1 w (va + 1) (p + 1) bs

/-- A write of a core or engine to package memory in the memory order: partials merged, the lines' places taken, logical time
taken, bytes placed, waiters served (R229, R232, R241, R341, R188, R189); true when the spill area ran out. -/
def storeAt (s : State) (a : Agent) (w : Who) (va p : Nat) (bytes : List Byte) : State × Bool :=
  let s1 := mergePartials s p bytes.length
  let (s2, full) := l2WriteAll s1 (lineWrites s1 w va p bytes.length)
  if full then (s2, true)
  else
    let (s3, f) := storeBytes (stores s2 a p bytes.length) w va p bytes
    (settle s3, f)

/-- Checked stores of one access in order: address, place and bytes of each; true when the spill area ran out. -/
def storeList (s : State) (a : Agent) (w : Who) : List (Nat × Nat × List Byte) → State × Bool
  | [] => (s, false)
  | (va, p, bytes) :: rest =>
    let (s1, f) := storeAt s a w va p bytes
    if f then (s1, true) else storeList s1 a w rest

/-- A monitored wait is armed on the line of a place (R189). -/
def monitored (s : State) (p : Nat) : Bool :=
  s.cores.any (fun e => e.2.sync.any (fun o =>
    match o.kind with
    | .waitv _ _ _ => lineOf o.place == lineOf p
    | _ => false)) || s.link.monitors.any (fun m => lineOf m.place == lineOf p)

/-- The die whose partial a reduction of an agent enters (R241): the agent's own, else the line's. -/
def agentDie (a : Agent) (p : Nat) : Nat :=
  match a with
  | .core n | .engine n => dieOf n
  | _ => placeDie p

/-- A reduction at the home of a word of package memory (R196, R241): into its die's partial where the hardware chooses to
hold it there, which it does not on a monitored line, else as one write; true when the spill area ran out (R341). -/
def reduceAt (s : State) (a : Agent) (w : Who) (va p size op v : Nat) : State × Bool :=
  if isGlobalPlace p && (upTo size).all (fun i => byteKind s w (va + i) == 3) && !partialsConflict s p size op && !monitored s p &&
      Config.holdPartial s.fresh then
    let r := l2WriteAll { s with fresh := s.fresh + 1 } ((linesOf p size).map (fun l => ⟨l, .committed, false⟩))
    (holdPartial (stores r.1 a p size) p size op (agentDie a p) v, r.2)
  else
    let s1 := mergePartials { s with fresh := s.fresh + 1 } p size
    storeAt s1 a w va p (bytesOf size (reduceOp op size (ofBytes (viewBytes s1 w p size)) v))

/-- A write of an agent to a place outside any launch: the host, a delivery, the hardware's own (R240, R294). -/
def writeAs (s : State) (a : Agent) (p : Nat) (bytes : List Byte) : State :=
  settle (putBytes (stores (l2Commit (mergePartials s p bytes.length) p bytes.length) a p bytes.length) p bytes)

/-- A write of the stage manager, a delivery or the host. -/
def writeDirect (s : State) (p : Nat) (bytes : List Byte) : State := writeAs s .manager p bytes

/-- A read of n bytes at a place for `w`, with its dependence (R243, R244); the partials of the lines merge first. -/
def readAt (s : State) (w : Who) (p n : Nat) : State × List Byte :=
  let s1 := mergePartials s p n
  (addDeps s1 w (if isGlobalPlace p then viewSlots s1 w p n else []), viewBytes s1 w p n)

/-- A read of n committed bytes by the stage manager, a delivery or the host: partials merged, logical time taken. -/
def readDirect (s : State) (p n : Nat) : State := loads (mergePartials s p n) .manager p n

/-! ## The lease cache (R232, R336) -/

/-- The lines that a lease cache of 64 KiB holds. -/
def leaseLines : Nat := 512

/-- A line put into a lease cache; where it is full another leaves it, a free choice (log entry 4). -/
def Core.addLease (c : Core) (l : Nat) (x : LeaseLine) (pick : Nat) : Core :=
  let m := spErase c.lease l
  let kept := if m.length < leaseLines then m else m.eraseIdx (pick % m.length)
  { c with lease := spPut kept l x }

/-- The bytes of a line as one number, when no shadow byte of the reader's launches lies in it. -/
def lineData (s : State) (w : Who) (l : Nat) : Option Nat :=
  match getCtx s w.ctx with
  | none => none
  | some c => if (upTo 128).any (fun i => (shadowFind c (viewDepth c) w.launch w.run (128 * l + i)).isSome) then none
              else some (rawNat s (128 * l) 128)

/-- A line that the L2 has served enters the core's lease cache. One that holds shadow of the reader's launches does not (log
entry 63). -/
def leaseLine (s : State) (n : Nat) (w : Who) (l : Nat) : State :=
  match lineData s w l with
  | none => s
  | some d =>
    modCore { s with fresh := s.fresh + 1 } n (fun c =>
      c.addLease l ⟨(lineTime s l).wts, c.pts + 16, BitVec.ofNat 1024 d, w.ctx, w.launch, w.run⟩ (Config.leaseVictim s.fresh))

/-- The logical time at which the lease cache may serve n bytes: a copy of every line, made in the same view, whose lease has
not run out by then (R232, R243). -/
def leaseTime (c : Core) (w : Who) (p n : Nat) : Option Nat :=
  let found := (linesOf p n).map (fun l => spFind c.lease l)
  let t := found.foldl (fun t x => match x with
    | some l => max t l.wts
    | none => t) c.pts
  if found.all (fun x => match x with
    | some l => decide (t ≤ l.lease) && l.ctx == w.ctx && l.launch == w.launch && l.run == w.run
    | none => false) then some t else none

/-- n bytes as the lease cache holds them. -/
def leaseBytes (c : Core) (p n : Nat) : List Byte :=
  (upTo n).map (fun i =>
    match spFind c.lease (lineOf (p + i)) with
    | some l => BitVec.ofNat 8 (field l.data.toNat (8 * ((p + i) % 128)) 8)
    | none => 0)

/-- A core's load of n bytes of package memory: from the lease cache where it may and does serve (R232), else at the home. -/
def coreRead (s : State) (n : Nat) (w : Who) (p len : Nat) : State × List Byte :=
  let (s1, bs) := readAt s w p len
  let s2 := loads s1 (.core n) p len
  if !isGlobalPlace p then (s2, bs)
  else
    let atHome : State × List Byte := ((linesOf p len).foldl (fun st l => leaseLine st n w l) s2, bs)
    match leaseTime (getCore s n) w p len with
    | none => atHome
    | some t =>
      if Config.useLease s.fresh then
        (setClock { s with fresh := s.fresh + 1 } (.core n) t, leaseBytes (getCore s n) p len)
      else ({ atHome.1 with fresh := atHome.1.fresh + 1 }, atHome.2)

end Sys2Proof.Machine
end

