-- ==== Sys2Proof/Machine/Peers.lean ====
section
/-!
DEFINITION. What a package keeps and performs for the launches of other packages (R239, R251, R264): shadow at the home of a
remote page, reads through it, and acknowledgements.
-/
namespace Sys2Proof.Machine

/-! ## Packets on the link (R361) -/

/-- The fields of a packet fit the header of Table 16.3; node 65,536 is the host of PCI Express. -/
def packetFits (p : Packet) : Bool :=
  decide (p.kind < 2 ^ 8) && decide (p.vc < 2 ^ 5) && decide (p.payload.length ≤ 4096) && decide (p.src ≤ hostNode) &&
    decide (p.dst ≤ hostNode) && decide (p.job < 2 ^ 32) && decide (p.rank < 2 ^ 16) && decide (p.srank < 2 ^ 16) &&
    decide (p.addr < 2 ^ 64) && decide (p.tag < 2 ^ 32)

/-- The 32 bytes of a packet's header (Table 16.3). -/
def packetHeader (p : Packet) : List Byte :=
  bytesOf 1 p.kind ++ bytesOf 1 p.vc ++ bytesOf 2 p.payload.length ++ bytesOf 2 p.src ++ bytesOf 2 p.dst ++ bytesOf 4 p.job ++
    bytesOf 2 p.rank ++ bytesOf 2 p.srank ++ bytesOf 8 p.addr ++ bytesOf 4 p.tag ++ bytesOf 4 0

/-- The number of flits of a packet (R361). -/
def packetFlits (p : Packet) : Nat := (32 + p.payload.length + 255) / 256

/-- A packet as it crosses a link: header, payload, and zeros to the end of its last flit (R361). -/
def packetWire (p : Packet) : List Byte :=
  packetHeader p ++ p.payload ++ List.replicate (256 * packetFlits p - 32 - p.payload.length) 0

/-! ## The shadow of a launch of another package (R264) -/

/-- The shadow belongs to the launch that a packet names. -/
def PeerShadow.isOf (q : PeerShadow) (p : Packet) : Bool := q.isRun p p.launch

/-- The shadow kept here for the launch that a packet names. -/
def peerOf (s : State) (p : Packet) : Option PeerShadow := s.link.peers.find? (fun q => q.isOf p)

/-- A run of the launch that a packet names, or its sub-version, has been given up: what the packet would write transactionally is part
of it (R255, R266; log entry 39). -/
def isGone (s : State) (p : Packet) : Bool :=
  s.link.gone.any (fun g => g.dest == p.rank && g.node == p.src && g.job == p.job && g.rank == p.srank && g.launch == p.launch &&
    (g.stamp == 0 || g.stamp == p.stamp))

/-- The launch that a packet names has given up a sub-version, or with stamp 0 the whole run; writes on their way are dropped. -/
def rememberGone (s : State) (p : Packet) (stamp : Nat) : State :=
  let g : Gone := { dest := p.rank, node := p.src, job := p.job, rank := p.srank, launch := p.launch, stamp := stamp }
  { s with link := { s.link with gone := g :: s.link.gone.filter (fun x => decide (x ≠ g)) } }

/-- Nothing of the run that a packet names is on its way any longer. -/
def forgetGone (s : State) (p : Packet) : State :=
  { s with link := { s.link with gone := s.link.gone.filter (fun g =>
      !(g.dest == p.rank && g.node == p.src && g.job == p.job && g.rank == p.srank && g.launch == p.launch)) } }

/-- Whose copy of a line the shadow of a packet's launch is. -/
def peerOwner (p : Packet) : LineOwner := .peer p.rank p.src p.job p.srank p.launch

/-- The lowest free entries of a version table. -/
def freeVersions (t : Sparse Version) (n : Nat) : List Nat := ((upTo 256).filter (fun i => (spFind t i).isNone)).take n

/-- A version takes the lowest free entry of each die (R252, R264). -/
def takeVersion (s : State) (o : LineOwner) : State :=
  let v : Version := { owner := o, prepared := false, committed := false }
  let put := fun (t : Sparse Version) => (freeVersions t 1).foldl (fun m i => spPut m i v) t
  { s with hw := { s.hw with versions0 := put s.hw.versions0, versions1 := put s.hw.versions1 } }

/-- The entries of an owner with a function applied (R252, R262). -/
def modVersion (s : State) (o : LineOwner) (f : Version → Version) : State :=
  let on := fun (t : Sparse Version) => t.map (fun e => if e.2.owner = o then (e.1, f e.2) else e)
  { s with hw := { s.hw with versions0 := on s.hw.versions0, versions1 := on s.hw.versions1 } }

/-- The entries of an owner are free (R252). -/
def freeVersion (s : State) (o : LineOwner) : State :=
  let out := fun (t : Sparse Version) => t.filter (fun e => decide (e.2.owner ≠ o))
  { s with hw := { s.hw with versions0 := out s.hw.versions0, versions1 := out s.hw.versions1 } }

/-- A packet would open a shadow here for which no version entry is free: it waits for one (R252, R264; log entry 39). -/
def peerTableFull (s : State) (p : Packet) (mask : Nat) : Bool :=
  p.launch != 0 && mask != 0 && !isGone s p && (peerOf s p).isNone &&
    ((freeVersions s.hw.versions0 1).isEmpty || (freeVersions s.hw.versions1 1).isEmpty)

/-- The shadow of the launch that a packet names, opened with version entries of its own where there is none (R264). -/
def openPeer (s : State) (p : Packet) : State :=
  match peerOf s p with
  | some _ => s
  | none =>
    let fresh : PeerShadow :=
      { dest := p.rank, node := p.src, job := p.job, rank := p.srank, launch := p.launch, bytes := [], prepared := false
        askAt := 0 }
    takeVersion { s with link := { s.link with peers := s.link.peers ++ [fresh] } } (peerOwner p)

/-- A function applied to the shadow of the launch that a packet names, opened where there is none. -/
def modPeer (s : State) (p : Packet) (f : PeerShadow → PeerShadow) : State :=
  let s1 := openPeer s p
  { s1 with link := { s1.link with peers := s1.link.peers.map (fun q => if q.isOf p then f q else q) } }

/-- The shadow kept for a launch of a peer is gone, and its version entries are free (R252). -/
def dropPeer (s : State) (p : Packet) : State :=
  l2Sweep (freeVersion { s with link := { s.link with peers := s.link.peers.filter (fun q => !q.isOf p) } } (peerOwner p))

/-- A new line of a peer's launch goes to the spill area (R257, R264: outside any budget). -/
def peerSpills (s : State) (q : PeerShadow) (line : Nat) : Bool :=
  match q.bytes.find? (fun b => lineOf b.place == line) with
  | some b => b.spilled
  | none => decide (786432 ≤ shadowBytes s) && decide (786432 ≤ shadowOnDie s (placeDie (128 * line)))

/-- One byte of a remote write at its home: into the shadow of its launch, unless it has been given up, or performed at once (R239,
R255). A byte of a remote store
counts into barriers, at once or at the curtain (R191). -/
def peerByte (s : State) (k : Nat) (p : Packet) (place : Nat) (shadow counts : Bool) (b : Byte) : State :=
  if shadow && p.launch != 0 then
    if isGone s p then s
    else
      modPeer { s with seq := s.seq + 1 } p (fun q =>
        let mine := fun (x : PeerByte) => x.place == place && x.stamp == p.stamp
        let before : Nat := ((q.bytes.find? mine).map (fun x => x.count)).getD 0
        { q with bytes := { seq := s.seq, stamp := p.stamp, place := place, byte := b, count := before + ofBool counts
                            spilled := peerSpills s q (lineOf place) } :: q.bytes.filter (fun x => !mine x) })
  else if counts then countByte (putByte s place b) k place .manager
  else putByte s place b

/-- The lines that a remote write meets (R254, R264). -/
def peerLineWrites (s : State) (p : Packet) (place mask n : Nat) : List LineWrite :=
  if !isGlobalPlace place then []
  else
    (linesOf place n).flatMap (fun l =>
      let kinds := ((upTo n).filter (fun i => lineOf (place + i) == l)).map (fun i => bitAt mask i && p.launch != 0)
      (if kinds.contains true && !isGone s p then [⟨l, peerOwner p, ((peerOf s p).map (fun q => peerSpills s q l)).getD false⟩] else []) ++
        (if kinds.contains false then [⟨l, .committed, false⟩] else []))

/-- A new line of a peer's launch needs a spill line that the context has not (R258, R264). -/
def peerAreaFull (s : State) (k : Nat) (p : Packet) (place mask n : Nat) : Bool :=
  (peerLineWrites s p place mask n).any (fun w => w.spilled &&
    !((peerOf s p).map (fun q => q.bytes.any (fun b => lineOf b.place == w.line))).getD false) &&
    ((getCtx s k).map (fun c => decide (c.spillCap ≤ spillUsed s c))).getD false

/-- The owner of a launch is told that a spill area here is full, which aborts the launch with SHADOW_FULL (R258; log entry 8). -/
def tellFull (s : State) (p : Packet) : State :=
  sendPacket s { p with kind := 0x20, vc := 0, src := s.link.node, dst := p.src, rank := p.srank, srank := p.rank, tag := 8, payload := []
                        parents := [], deps := [] }

/-- The bytes of a remote write at its home, in the memory order (R239, R251); bit i of `mask` sends byte i to the shadow, and
`counts` tells a remote store. -/
def peerWrite (s : State) (k : Nat) (p : Packet) (place mask : Nat) (counts : Bool) (bytes : List Byte) : State :=
  let n := bytes.length
  let s1 := mergePartials s place n
  let (s2, evicts) := l2WriteAll s1 (peerLineWrites s1 p place mask n)
  let full := p.launch != 0 && mask != 0 && (evicts || peerAreaFull s1 k p place mask n)
  let s3 := stores (if full then tellFull s2 p else s2) .manager place n
  settle (((upTo n).zip bytes).foldl (fun st e => peerByte st k p (place + e.1) (bitAt mask e.1) counts e.2) s3)

/-- The other sub-versions that have written a line of n bytes (R254). -/
def peerWriteDeps (s : State) (p : Packet) (place n : Nat) : List Nat :=
  match peerOf s p with
  | none => []
  | some q => q.bytes.foldl (fun acc b =>
      if (linesOf place n).contains (lineOf b.place) ∧ b.stamp ≠ 0 ∧ b.stamp ≠ p.stamp then insertNat b.stamp acc else acc) []

/-- The answer to a packet, on VC 1 with its tag (Table 16.4). -/
def answerPacket (s : State) (p : Packet) (kind : Nat) (payload : List Byte) : State := answerDeps s p kind payload []

/-- The acknowledgement of a remote write (R239). -/
def ackPacket (s : State) (p : Packet) : State := answerPacket s p 0x04 []

/-! ## Arrival (R360 to R363, R386) -/

/-- An event is held at its home (R263). -/
def holdEvent (s : State) (place : Nat) (w : HeldWhat) : State :=
  { s with link := { s.link with heldHere := s.link.heldHere ++ [⟨place, w⟩] } }

/-- A wake event makes the package active (R386). -/
def wake (s : State) : State :=
  { s with plat := { s.plat with power := match s.plat.power with
    | .low _ => .active
    | x => x } }

/-- A host access to BAR2 or a packet arrives: it wakes the package, and ends the time for which it was idle (R385, R386). -/
def wakeUp (s : State) : State := wake { s with plat := { s.plat with idle := 0 } }

/-- The package has power (R381, R388). -/
def poweredOn (s : State) : Bool :=
  match s.plat.power with
  | .off | .tripped => false
  | _ => true

/-- The host port answers (R379). -/
def portReady (s : State) : Bool := poweredOn s && s.plat.ready

/-- System software manages the package: it is READY, not in RECOVERY, and not decommissioned (R379, R381, R383). -/
def manages (s : State) : Bool := portReady s && !s.plat.recovery && s.plat.life != 3

/-- Contexts may be there: tenants', or in manufacturing test contexts (R381, R383). -/
def takesContexts (s : State) : Bool := manages s && (s.plat.life == 0 || s.plat.life == 2)

/-- The resident slot of a job's rank, in whatever state (R352, R362); a KILLED context only where no other has the rank. -/
def residentOf (s : State) (job rank : Nat) : Option Nat :=
  let mine := s.ctxs.filter (fun e => e.2.job == job && e.2.rank == rank)
  ((mine.filter (fun e => e.2.state != .killed)) ++ mine).head?.map (fun e => e.1)

/-- A packet has arrived: one for a resident context wakes the package (R352, R385, R386). -/
def arrived (s : State) (p : Packet) : State :=
  if s.ctxs.any (fun e => e.2.job == p.job && e.2.rank == p.rank && e.2.state != .killed) then wakeUp s else s

/-- The refusal of a packet; its payload is the kind refused (R362). -/
def refusePacket (s : State) (p : Packet) : State :=
  sendPacket s { p with kind := 0x05, vc := 1, src := s.link.node, dst := p.src, rank := p.srank, srank := p.rank
                        payload := bytesOf 1 p.kind }

/-- A packet that is discarded and counted (R353, R362). -/
def discardPacket (s : State) : State := { s with link := { s.link with discarded := s.link.discarded + 1 } }

/-- A virtual channel that Table 16.4 reserves. -/
def reservedVc (vc : Nat) : Bool := vc == 6 || vc == 7 || decide (16 ≤ vc)

/-- A kind that answers another packet, and is never answered itself. -/
def isAnswer (kind : Nat) : Bool := kind == 0x03 || kind == 0x04 || kind == 0x05

/-- A packet for another node goes on by its route, or is refused where no route is left (R360, R363). -/
def routeOn (s : State) (p : Packet) : State :=
  if reachable s p.dst then sendPacket s p else if isAnswer p.kind then discardPacket s else refusePacket s p

/-- A packet of a kind reaches the router (R353, R361, R362): one of another or a reserved kind, on a reserved channel, with
job 0 or with a field that its header cannot hold is discarded. One for a resident context wakes the package, whatever becomes of it
(R385, R386). -/
def arrival (s : State) (p : Packet) (kind : Nat) (act : State → State) : State :=
  if !poweredOn s then s
  else if p.kind ≠ kind ∨ reservedVc p.vc ∨ p.job = 0 ∨ !packetFits p then discardPacket s
  else if p.dst ≠ s.link.node ∧ p.src ≠ hostNode then routeOn s p
  else act (arrived s p)

end Sys2Proof.Machine
end

