-- ==== Sys2Proof/Machine/Levels.lean ====
section
/-!
DEFINITION. Levels, traversal order and instances of a grid launch (R275 to R281), and the dependence test of the wet edge
(R283 to R285).
-/
namespace Sys2Proof.Machine

/-- Axis d of a four-entry list. -/
def axis (v : List Nat) (d : Nat) : Nat := v.getD d 0

/-- The extents with 1 for undeclared axes (R59, R279). -/
def LaunchRec.dims (r : LaunchRec) : List Nat := (upTo 4).map (fun d => if axis r.ext d = 0 then 1 else axis r.ext d)

/-- The number of points of a grid launch. -/
def LaunchRec.points (r : LaunchRec) : Nat := r.dims.foldl (fun a x => a * x) 1

/-- RowMajor(i, n) (R279). -/
def rowMajor (i n : List Nat) : Nat := ((axis i 0 * axis n 1 + axis i 1) * axis n 2 + axis i 2) * axis n 3 + axis i 3

/-- ColMajor(i, n) (R279). -/
def colMajor (i n : List Nat) : Nat := ((axis i 3 * axis n 2 + axis i 2) * axis n 1 + axis i 1) * axis n 0 + axis i 0

/-- The coordinates of a row-major index. -/
def coordsOf (idx : Nat) (n : List Nat) : List Nat :=
  [idx / (axis n 1 * axis n 2 * axis n 3), idx / (axis n 2 * axis n 3) % axis n 1, idx / axis n 3 % axis n 2,
   idx % axis n 3]

/-- MortonCode(i) over the declared axes (R279). -/
def mortonCode (ndim : Nat) (i : List Nat) : Nat :=
  (upTo 16).foldl (fun acc b =>
    (upTo ndim).foldl (fun a d => a + ofBool (bitAt (axis i d) b) * 2 ^ (ndim * b + ndim - 1 - d)) acc) 0

/-- The walk of HilbertIndex (R280): `k` halvings of s. -/
def hilbertLoop (size : Nat) : Nat → Nat → Nat → Nat → Nat → Nat
  | 0, _, _, _, d => d
  | k + 1, s, x, y, d =>
    let rx := ofBool (decide (x &&& s ≠ 0))
    let ry := ofBool (decide (y &&& s ≠ 0))
    let d' := d + s * s * ((3 * rx) ^^^ ry)
    if ry = 0 then
      if rx = 1 then hilbertLoop size k (s / 2) (size - 1 - y) (size - 1 - x) d'
      else hilbertLoop size k (s / 2) y x d'
    else hilbertLoop size k (s / 2) x y d'

/-- HilbertIndex(k, x, y) (R280). -/
def hilbertIndex (k x y : Nat) : Nat := hilbertLoop (2 ^ k) k (2 ^ k / 2) x y 0

/-- Ceil(log2 n), 0 for 1 (R279). -/
def ceilLog2 (n : Nat) : Nat := if n ≤ 1 then 0 else log2 (n - 1) + 1

/-- Swizzle (R279). -/
def swizzle (w i0 i1 n0 n1 : Nat) : Nat :=
  let k := i1 / w
  let ws := min w (n1 - k * w)
  k * w * n0 + i0 * ws + (i1 - k * w)

/-- The number of blocks of a grid. -/
def gridCount (n : List Nat) : Nat := axis n 0 * axis n 1 * axis n 2 * axis n 3

/-- LocalIndex(ORDER, w, i, n) (R279). -/
def localIndex (ndim order w : Nat) (i n : List Nat) : Nat :=
  match order with
  | 0 =>
    if w ≤ 1 then rowMajor i n
    else (swizzle w (axis i 0) (axis i 1) (axis n 0) (axis n 1) * axis n 2 + axis i 2) * axis n 3 + axis i 3
  | 1 => colMajor i n
  | 2 => ((upTo (gridCount n)).filter (fun j => decide (mortonCode ndim (coordsOf j n) < mortonCode ndim i))).length
  | _ =>
    let k := ceilLog2 (max (axis n 0) (axis n 1))
    let me := hilbertIndex k (axis i 1) (axis i 0)
    let rank := ((upTo (axis n 0 * axis n 1)).filter (fun j =>
      decide (hilbertIndex k (j % axis n 1) (j / axis n 1) < me))).length
    (rank * axis n 2 + axis i 2) * axis n 3 + axis i 3

/-- The block extents of a level in a parent of given extents (R276). -/
def Level.blockDims (l : Level) (ext : List Nat) : List Nat :=
  (upTo 4).map (fun d => if axis l.b d = 0 then axis ext d else axis l.b d)

/-- The grid of child blocks (R279). -/
def gridOf (ext blk : List Nat) : List Nat := (upTo 4).map (fun d => (axis ext d + axis blk d - 1) / axis blk d)

/-- The extents of child block i, smaller at the far edges (R276). -/
def childDims (ext blk i : List Nat) : List Nat :=
  (upTo 4).map (fun d => min (axis blk d) (axis ext d - axis i d * axis blk d))

/-- The traversal index of a point within a block (R281). -/
def traverse (ndim : Nat) : List Level → List Nat → List Nat → Nat
  | [], ext, p => rowMajor p ext
  | l :: ls, ext, p =>
    let blk := l.blockDims ext
    let n := gridOf ext blk
    let i := (upTo 4).map (fun d => axis p d / axis blk d)
    let me := localIndex ndim l.order l.swz i n
    let before := (upTo (gridCount n)).foldl (fun acc j =>
      let c := coordsOf j n
      if localIndex ndim l.order l.swz c n < me then acc + gridCount (childDims ext blk c) else acc) 0
    before + traverse ndim ls (childDims ext blk i) ((upTo 4).map (fun d => axis p d % axis blk d))

/-- The traversal index T of the point with a row-major index (R281). -/
def LaunchRec.traversal (r : LaunchRec) (idx : Nat) : Nat :=
  traverse r.ndim r.levels r.dims (coordsOf idx r.dims)

/-- The point whose traversal index is t. -/
def LaunchRec.pointAt (r : LaunchRec) (t : Nat) : Nat :=
  if r.levels.isEmpty then t else ((upTo r.points).find? (fun i => r.traversal i == t)).getD 0

/-- The logical cores of a domain's instance (Table 12.4). -/
def domainCores (dom parts : Nat) : Nat :=
  match dom with
  | 0 => 1
  | 1 => 4
  | 2 => 16
  | 3 => 64
  | 4 => 128
  | _ => parts

/-- The instance [lo, hi) of the innermost block of a point (R277). -/
def instanceOf (ndim : Nat) : List Level → List Nat → List Nat → Nat × Nat → Nat × Nat
  | [], _, _, inst => inst
  | l :: ls, ext, p, inst =>
    let blk := l.blockDims ext
    let n := gridOf ext blk
    let i := (upTo 4).map (fun d => axis p d / axis blk d)
    let size := domainCores l.domain (inst.2 - inst.1)
    let m := (inst.2 - inst.1 + size - 1) / size
    let j := localIndex ndim l.order l.swz i n % m
    let lo := inst.1 + j * size
    instanceOf ndim ls (childDims ext blk i) ((upTo 4).map (fun d => axis p d % axis blk d)) (lo, min inst.2 (lo + size))

/-- The instance of a point on a partition of P cores. -/
def LaunchRec.instancePoint (r : LaunchRec) (idx P : Nat) : Nat × Nat :=
  instanceOf r.ndim r.levels r.dims (coordsOf idx r.dims) (0, P)

/-! ## The wet edge -/

/-- e_last, the extent of the streak axis (R283). -/
def LaunchRec.eLast (r : LaunchRec) : Nat := axis r.ext (r.ndim - 1)

/-- The number of rows (R283). -/
def LaunchRec.rows (r : LaunchRec) : Nat := r.points / r.eLast

/-- The row and streak coordinate of a point (R283). -/
def LaunchRec.rowOf (r : LaunchRec) (idx : Nat) : Nat × Nat := (idx / r.eLast, idx % r.eLast)

/-- Whether predecessor p − d of a point is complete, counting the boundary as complete (R285). -/
def predecessorDone (r : LaunchRec) (heights : Sparse Nat) (p : List Nat) (d : List Int) : Bool :=
  let q := (upTo 4).map (fun a => ((axis p a : Nat) : Int) - d.getD a 0)
  let inside := (upTo 4).all (fun a => decide (0 ≤ q.getD a 0) && decide (q.getD a 0 < ((axis r.dims a : Nat) : Int)))
  if !inside then true
  else
    let (row, j) := r.rowOf (rowMajor (q.map Int.toNat) r.dims)
    decide (j < spGet 0 heights row)

/-- Fires(p) for the point (row, j) with j = h[row] (R285). -/
def firesRow (r : LaunchRec) (u : RunState) (row : Nat) : Bool :=
  let j := spGet 0 u.heights row
  let idx := row * r.eLast + j
  decide (j < r.eLast) && !u.points.any (fun p => p.idx / r.eLast == row) &&
    r.deps.all (fun d => predecessorDone r u.heights (coordsOf idx r.dims) d)

end Sys2Proof.Machine
end

