-- ==== Sys2Proof/Machine/Work.lean ====
section
/-!
DEFINITION. Ready work and its ends: task control blocks (R293 to R297), queues of ready work (R298 to R302), releases and
firings (R282 to R286), discards and aborts (R255, R265, R266), completion entries (R377).
-/
namespace Sys2Proof.Machine

/-! ## Completion entries (R377) -/

/-- The 32 bytes of a completion entry (Table 16.8). -/
def Completion.bytes (e : Completion) : List Byte :=
  bytesOf 8 e.handle ++ bytesOf 8 e.status ++ bytesOf 1 e.queue ++ bytesOf 3 0 ++ bytesOf 4 e.index ++ bytesOf 8 0

/-- A posted write of the package to host memory, for which no answer is awaited (R377; log entry 58). -/
def hostStore (s : State) (n addr : Nat) (bytes : List Byte) : State :=
  sendPacket s (memPacket s n 0x01 5 hostNode addr (2 ^ 32 - 1) 0 bytes)

/-- A completion entry of a context written to host memory, at its place in the ring, with the vector raised. -/
def writeEntry (s : State) (n : Nat) (c : Ctx) (e : Completion) : State :=
  let s1 := hostStore (setCtx s n { c with ring := { c.ring with used := c.ring.used + 1, next := (c.ring.next + 1) % c.ring.size } })
    n (c.ring.base + 32 * c.ring.next) e.bytes
  raiseVector { s1 with host := { s1.host with written := s1.host.written ++ [e] } } n

/-- A completion entry of a context: written, or held while the ring is full and behind others that are held. -/
def completionEntry (s : State) (n : Nat) (e : Completion) : State :=
  match getCtx s n with
  | none => s
  | some c =>
    if c.ring.used < c.ring.size ∧ c.ring.held = [] then writeEntry s n c e
    else setCtx s n { c with ring := { c.ring with held := c.ring.held ++ [e] } }

/-- The completion entry of a launch that the host placed (R262, R377). -/
def reportLaunch (s : State) (n : Nat) (l : Launch) : State :=
  match l.origin with
  | .host t => completionEntry s n { handle := l.handle, status := l.status, queue := l.queue, index := t }
  | .child _ _ _ => s

/-! ## Task control blocks (Table 13.1) -/

/-- Where a byte of a block lies: at a place of the package, at an address of another node, or on an absent page (R293). -/
inductive BlockHome where
  | here (p : Nat)
  | far (node addr : Nat)
  | absent
deriving DecidableEq, Repr

/-- The home of a byte of a block (R294). -/
def blockHome (s : State) (n va : Nat) : BlockHome :=
  match getCtx s n with
  | none => .absent
  | some c =>
    if 2 ^ 47 ≤ va then .absent
    else
      match xlatCtx s c va with
      | .pkg p _ _ => .here p
      | .remote tgt node a _ _ => .far (remoteNode tgt node) a
      | _ => .absent

/-- The place of a byte of a block, if it lies in the package. -/
def blockPlace (s : State) (n va : Nat) : Option Nat :=
  match blockHome s n va with
  | .here p => some p
  | _ => none

/-- The line of another package that a run's hardware keeps for an address. -/
def farLine (s : State) (w : Who) (va : Nat) : Option FarLine :=
  (getCtx s w.ctx).bind (fun c =>
    c.farLines.find? (fun q => q.launch == w.launch && q.run == w.run && q.addr == va / 64 * 64))

/-- A sub-version of a context has been discarded. -/
def wasDropped (c : Ctx) (stamp : Nat) : Bool := c.launches.any (fun l => l.dropped.contains stamp)

/-- The line at an address has just been read from its home, and holds nothing of a sub-version since discarded (R294). -/
def farFresh (s : State) (w : Who) (va : Nat) : Bool :=
  match farLine s w va, getCtx s w.ctx with
  | some q, some c => q.fresh && !q.deps.any (wasDropped c)
  | _, _ => false

/-- The hardware can read a block or an entry of an array now: it lies in the package, or has just been read from its home (R294,
R295). -/
def blockAt (s : State) (w : Who) (va : Nat) : Bool :=
  match blockHome s w.ctx va with
  | .here _ => true
  | .far _ _ => farFresh s w va
  | .absent => false

/-- A field of a block as the launch's own tasks see it, partials of its line merged (R294, R241); one in another package as it was
last read there. -/
def blockField (s : State) (w : Who) (addr off size : Nat) : Nat :=
  match blockHome s w.ctx (addr + off) with
  | .here p => ofBytes (viewBytes (mergePartials s p size) w p size)
  | .far _ _ => ofBytes ((((farLine s w (addr + off)).map (fun q => q.bytes)).getD []).drop ((addr + off) % 64) |>.take size)
  | .absent => 0

/-- A place of the model's own that stands for a byte of another package in what the hardware wrote for a run of a rehearsal. -/
def farPlace (va : Nat) : Nat := 2 ^ 80 + va

/-- A launch runs in rehearsal, or is nested in one that does (R267). -/
def inRehearsal (c : Ctx) : Nat → Nat → Bool
  | 0, _ => false
  | fuel + 1, h =>
    match findLaunch c h with
    | none => false
    | some l =>
      l.desc.flag 1 || (match l.origin with
        | .host _ => false
        | .child p _ _ => inRehearsal c fuel p)

/-- What the hardware writes into a block for a run of a rehearsal: bytes of that run's own, newest first (R267; log entry 37). -/
def ownBlockBytes (s : State) (w : Who) (va p : Nat) (bytes : List Byte) : State :=
  ((upTo bytes.length).zip bytes).foldl (fun st e =>
    modLaunch { st with seq := st.seq + 1 } w.ctx w.launch (fun l =>
      { l with blockBytes := { seq := st.seq, run := w.run, slot := mergedSlot, place := p + e.1, va := va + e.1, byte := e.2, spilled := false } ::
          l.blockBytes.filter (fun b => !(b.place == p + e.1 && b.run == w.run)) })) s

/-- The number of no core, by which a request of the hardware for a block names its maker. -/
def blockMaker : Nat := 258

/-- A request of the hardware to the home of a block in another package: kind 0x01 stores outside any version, 0x02 reads, for `wait`
5 a block, and 0x06 counts down or spawns, each as the run's own tasks see the block (R202, R239, R294). -/
def sendFar (s : State) (w : Who) (kind wait node addr va : Nat) (payload : List Byte) : State :=
  let tag := s.link.nextTag
  let vc := if kind = 0x01 then 5 else 4
  let plain : Packet := { memPacket s w.ctx kind vc node addr tag 0 payload with wait := wait }
  let s1 := openRequest (sendPacket s (if kind = 0x01 then plain else inView s w plain))
    { tag := tag, kind := kind, ctx := w.ctx, core := blockMaker, id := 0, off := ofBool w.run, size := payload.length, signed := false
      launch := w.launch, job := none, va := va, slot := 0, bundle := 0, stamp := 0 }
  if kind = 0x01 then modLaunch s1 w.ctx w.launch (fun l => { l with acks := l.acks + 1 }) else s1

/-- A line read from another package is kept for a run, in place of an older one. -/
def putLine (s : State) (w : Who) (q : FarLine) : State :=
  let older := fun (x : FarLine) => x.launch == w.launch && x.run == w.run && x.addr == q.addr
  modCtx s w.ctx (fun c => { c with farLines := q :: c.farLines.filter (fun x => !older x) })

/-- Bytes written into the line that a run keeps for an address. -/
def writeLine (s : State) (w : Who) (va : Nat) (bytes : List Byte) : State :=
  match farLine s w va with
  | none => s
  | some q => putLine s w { q with bytes := q.bytes.take (va % 64) ++ bytes ++ q.bytes.drop (va % 64 + bytes.length) }

/-- A launch has ended (R249). -/
def Launch.ended (l : Launch) : Bool := l.phase == .ended

/-- The hardware keeps what it writes into the blocks of a run apart: the run is of a live rehearsal (R267; log entry 37). -/
def keepsBlocks (s : State) (w : Who) : Bool :=
  ((getCtx s w.ctx).map (fun c => inRehearsal c (viewDepth c) w.launch && ((findLaunch c w.launch).map (fun l => !l.ended)).getD false)).getD false

/-- Work on a block is kept until the page of an address is there, of which system software is told once (R295, R296). -/
def holdForPage (s : State) (w : Who) (addr logical va : Nat) (k : HeldKind) : State :=
  let page := va / 65536
  let b : HeldBlock := { launch := w.launch, run := w.run, addr := addr, logical := logical, wait := .page page, kind := k }
  let told := ((getCtx s w.ctx).map (fun c => c.heldBlocks.any (fun x => x.wait == .page page))).getD true
  let s1 := modCtx s w.ctx (fun c => { c with heldBlocks := c.heldBlocks ++ [b] })
  if told then s1 else post s1 (.pageFault w.ctx page)

/-- The hardware's write of a block field, outside any version: a write of its own in the memory order (R294). On an absent page it
is kept until the page is there (R296). -/
def setBlockField (s : State) (w : Who) (addr off size v : Nat) : State :=
  let va := addr + off
  let bytes := bytesOf size v
  match blockHome s w.ctx va with
  | .here p => if keepsBlocks s w then ownBlockBytes s w va p bytes else writeDirect s p bytes
  | .far node a =>
    let s1 := writeLine s w va bytes
    if keepsBlocks s w then ownBlockBytes s1 w va (farPlace va) bytes else sendFar s1 w 0x01 0 node a va bytes
  | .absent => holdForPage s w addr 0 va (.write off size v)

/-- The hardware of a launch's run, for accesses of its own (R294). -/
def hwWho (n h : Nat) (run : Bool) : Who := ⟨n, h, run, mergedSlot⟩

/-- The block's STATE field (Table 13.1): 0 WAITING, 1 READY, 2 RUNNING, 3 DONE, 4 FAULTED, 5 KILLED. SLOT is 0xFFFF_FFFF
unless the block is RUNNING. -/
def setBlockState (s : State) (w : Who) (addr v : Nat) : State :=
  let s1 := setBlockField s w addr 0x34 1 v
  if v = 2 then s1 else setBlockField s1 w addr 0x3C 4 0xFFFFFFFF

/-! ## Queues of ready work -/

/-- The die of a context's call board: that of its lowest core (R288, R300). -/
def boardDie (c : Ctx) : Nat := dieOf (physCore c.part 0)

/-- The entries that the stage manager reserves for a running context (R302; log entry 9). -/
def boardReserved : Nat := 512

/-- The entries of a die's board beyond the reserves of the eight contexts that its clusters can hold (R302; log entry 9). -/
def boardPool : Nat := 12288

/-- The entries of a context's board that lie in the board itself. -/
def boardUsed (c : Ctx) : Nat := (c.board.filter (fun e => !e.overflow)).length

/-- The entries that the contexts on a die take beyond their reserves, but one context (R302). -/
def boardTaken (s : State) (die n : Nat) : Nat :=
  s.ctxs.foldl (fun a e =>
    if e.1 ≠ n ∧ !e.2.part.isEmpty ∧ boardDie e.2 = die then a + (boardUsed e.2 - boardReserved) else a) 0

/-- The board has room for one more entry of a context: within its reserve, or beyond all reserves in what no other context takes. -/
def boardRoom (s : State) (n : Nat) (c : Ctx) : Bool :=
  decide (boardUsed c < boardReserved) ||
    (!c.part.isEmpty && decide (boardTaken s (boardDie c) n + (boardUsed c - boardReserved) < boardPool))

/-- The entries that a context may have in the board of a die that it comes to (R302). -/
def boardShare (s : State) (n die : Nat) : Nat := boardReserved + (boardPool - boardTaken s die n)

/-- Entries placed in the board as far as a share goes, the rest in the overflow area (R302). -/
def placeEntries (share : Nat) (es : List Entry) : List Entry :=
  (es.take share).map (fun e => { e with overflow := false }) ++ (es.drop share).map (fun e => { e with overflow := true })

/-- Entries of the board that lie in the overflow area (R302). -/
def overflowUsed (c : Ctx) : Nat := (c.board.filter (fun e => e.overflow)).length

/-- The insertion sequence number of an entry (R301): by the clock, frontier changes (phase 0) before releases (phase 1), and
releases by the logical index of the queuing core; among equal numbers the earlier insertion comes first. -/
def insertionSeq (s : State) (phase rank : Nat) : Nat := (2 * s.clock + phase) * 1024 + rank

/-- An entry inserted into the call board, in the board or the overflow area; false when neither has room (R302). -/
def boardInsert (s : State) (n : Nat) (e : Entry) : State × Bool :=
  match getCtx s n with
  | none => (s, true)
  | some c =>
    let full := !boardRoom s n c
    if full ∧ c.overflowCap ≤ overflowUsed c then (s, false)
    else
      (setCtx s n { c with board := c.board ++ [{ e with overflow := full }] }, true)

/-- The class of a launch. -/
def classOf (s : State) (n h : Nat) : Nat := ((getLaunch s n h).map (fun l => l.desc.cls)).getD 0

/-- A ready block queued by its KEY: the deque of the queuing core for key 0, else the call board (R298, R299). False, with
nothing moved, when the overflow area is full. -/
def queueBlock (s : State) (n h : Nat) (run : Bool) (addr logical : Nat) : State × Bool :=
  let key := blockField s (hwWho n h run) addr 0x28 8
  let e : Entry := { launch := h, run := run, work := .block addr, cls := classOf s n h, key := key, seq := insertionSeq s 1 logical
                     lo := 0, hi := 256, overflow := false }
  if key ≠ 0 then boardInsert s n e
  else
    match getCtx s n with
    | none => (s, true)
    | some c =>
      let q := spGet [] c.deques logical
      let pushed := fun (st : State) => modCtx st n (fun x => { x with deques := spSet [] x.deques logical (e :: q.take 255) })
      match q.drop 255 with
      | bottom :: _ =>
        let (s1, ok) := boardInsert s n { bottom with cls := classOf s n bottom.launch, key := 0, seq := e.seq }
        if ok then (pushed s1, true) else (s, false)
      | [] => (pushed s, true)

/-- A grid point put on the call board under (CLASS, T) with its instance (R277, R281, R300). -/
def boardPoint (s : State) (n h : Nat) (run : Bool) (idx t : Nat) : State × Bool :=
  match getCtx s n, getLaunch s n h with
  | some c, some l =>
    let inst := l.desc.instancePoint idx (partCores c.part)
    boardInsert s n { launch := h, run := run, work := .point idx, cls := l.desc.cls, key := t, seq := insertionSeq s 0 0
                      lo := inst.1, hi := inst.2, overflow := false }
  | _, _ => (s, true)

/-! ## Starting a core (R16) -/

/-- The device registers at task start (Table 1.5): DCYC runs on. -/
def startDev (d : Dev) (task est ident : Nat) : Dev :=
  { task := BitVec.ofNat 64 task, est := BitVec.ofNat 64 est, dcyc := d.dcyc
    rngc := BitVec.ofNat 64 (ident % 2 ^ 32 * 2 ^ 32), rngh := BitVec.ofNat 64 (ident / 2 ^ 32) }

/-- The registers at task start (Tables 1.1, 1.2). -/
def startRegs (x10 x11 x12 : Nat) : Regs :=
  let g : Regs := {}
  ((g.writeX 10 (BitVec.ofNat 64 x10)).writeX 11 (BitVec.ofNat 64 x11)).writeX 12 (BitVec.ofNat 64 x12)

/-- A word of a rank-owned memory or of the instruction scratchpad, which a task finds as it was left (Table 1.1). -/
def CoreWord.rankOwned : CoreWord → Bool
  | .file (.spillV _) | .file (.spillX _) | .slice _ | .instr _ => true
  | _ => false

/-- A core at the start of a task (Table 1.1): the task-owned registers at their start values, the rank-owned memories as
left; the first bundle waits for the base regions (R426). -/
def startCore (c : Core) (t : Task) (x10 x11 x12 est : Nat) : Core :=
  let dtask := if t.mode = 0 then x10 else if t.mode = 1 then x12 else 0
  { c with
    status := .running, task := some { t with phase := .loading }, regs := startRegs x10 x11 x12, mx := {}
    dev := startDev c.dev dtask est t.ident, ctl := { pc := t.entry, eligible := c.now, age := c.ctl.age }
    pend := [], lwb := [], sync := [], jobs := [], heldOn := none, bad := c.bad.filter CoreWord.rankOwned }

/-! ## Rows of the matrix unit (R160, R167, R181) -/

/-- The width class of a matrix operand format (Table 7.1): 1 for 16-bit, 2 for 8-bit, 3 for 4- and 6-bit, 0 for none. -/
def mxClass (c : Nat) : Nat :=
  if c = 0x09 ∨ c = 0x0A then 1
  else if c = 0x00 ∨ c = 0x01 ∨ c = 0x0B ∨ c = 0x0C ∨ c = 0x23 ∨ c = 0x24 then 2
  else if (0x0D ≤ c ∧ c ≤ 0x11) ∨ (0x20 ≤ c ∧ c ≤ 0x22) then 3
  else 0

/-- K per pass (Table 7.1). -/
def mxK (c : Nat) : Nat :=
  match mxClass c with
  | 1 => 64
  | 2 => 128
  | _ => 256

/-- Bytes of a row of a format (Table 7.1). -/
def mxRowBytes (c : Nat) : Nat := if isBlockFmt c then mxK c / 32 * blockBytes c else mxK c * fmtBits c / 8

/-- The queue of a core with one operation replaced. -/
def setMxOp (c : Core) (o : MxOp) : Core := { c with mx := { c.mx with queue := c.mx.queue.map (fun q => if q.id = o.id then o else q) } }

/-- A row read for a core's operation: appended to the first operation of the kind that still lacks rows. -/
def giveRow (s : State) (n row : Nat) (kind : MxKind) : State :=
  modCore s n (fun c =>
    match c.mx.queue.find? (fun o => o.kind == kind && decide (o.rows.length < o.count)) with
    | some o => setMxOp c { o with rows := o.rows ++ [row] }
    | none => c)

/-- The multiply-accumulates of one activation row: in 16-bit units 4,096 for every width class (R160, R305). -/
def countMacs (s : State) (n : Nat) : State := modCtx s (slotOfCore s n) (fun c => { c with macs := c.macs + 4096 })

/-- An issued matrix instruction as the stage manager leaves it when it takes a trap or the task is given up (R181): it runs to its
end, but an MTL, which stops between steps. -/
def MxOp.draining (o : MxOp) : Option MxOp :=
  match o.kind with
  | .mtl => if o.stepping then some { o with steps := o.step + 1, reload := o.reload && decide (o.step + 1 < o.steps) } else none
  | _ => some o

/-! ## Frontier stores (R288) -/

/-- The frontier store in use on a die. -/
def frontierUsed (s : State) (die : Nat) : Nat := if die = 0 then s.hw.frontier0 else s.hw.frontier1

/-- Frontier store taken or given back on a die. -/
def setFrontier (s : State) (die v : Nat) : State :=
  { s with hw := if die = 0 then { s.hw with frontier0 := v } else { s.hw with frontier1 := v } }

/-- A launch gives back its frontier store (R288). -/
def freeFrontier (s : State) (k : Nat) (l : Launch) : State :=
  match getCtx s k with
  | none => s
  | some c => setFrontier s (boardDie c) (frontierUsed s (boardDie c) - l.frontier)

/-! ## Stopping tasks -/

/-- A core's task is abandoned: its results, waits and jobs other than collectives go with it (R213, R225, R266, R313). Its issued
matrix instructions are drained, and nothing starts on the core before (R181). -/
def clearTask (c : Core) : Core :=
  { c with
    status := .idle, task := none, pend := [], lwb := [], sync := [], jobs := [], heldOn := none
    mx := { c.mx with queue := c.mx.queue.filterMap MxOp.draining, joined := false, gangDone := false }
    regs := { c.regs with loop := [] }
    outcome := .nothing, drainBy := none
    ctl := { c.ctl with wait := none } }

/-- A logical core of a context: its physical core, or its image while the context has no clusters. -/
def logicalCore (s : State) (k i : Nat) : Core :=
  match getCtx s k with
  | none => {}
  | some c => if c.part.isEmpty then spGet {} c.images i else getCore s (physCore c.part i)

/-- A function applied to a logical core of a context. -/
def modLogical (s : State) (k i : Nat) (f : Core → Core) : State :=
  match getCtx s k with
  | none => s
  | some c =>
    if c.part.isEmpty then setCtx s k { c with images := spSet {} c.images i (f (spGet {} c.images i)) }
    else modCore s (physCore c.part i) f

/-- Every task slot listed is free again (R253). -/
def freeSlots (s : State) (ks : List Nat) : State :=
  { s with hw := { s.hw with slots := s.hw.slots.filter (fun k => !ks.contains k) } }

/-- A write of the hardware that a block still awaits outlasts the launch (R296). -/
def HeldKind.isWrite : HeldKind → Bool
  | .write _ _ _ | .kill _ => true
  | _ => false

/-- Board and deque entries of a launch are dropped (R266). -/
def dropEntries (c : Ctx) (h : Nat) : Ctx :=
  { c with
    board := c.board.filter (fun e => e.launch != h)
    deques := (c.deques.map (fun q => (q.1, q.2.filter (fun e => e.launch != h)))).filter (fun q => !q.2.isEmpty)
    heldBlocks := c.heldBlocks.filter (fun b => b.launch != h || b.kind.isWrite)
    farLines := c.farLines.filter (fun q => q.launch != h)
    residents := c.residents.filter (fun w => w.launch != h) }

/-- The launches nested in a launch, or in one slot of one of its runs, at any depth (R203). -/
def descendantsFuel (c : Ctx) (isRoot : Launch → Bool) : Nat → List Nat → List Nat
  | 0, acc => acc
  | k + 1, acc =>
    let more := (c.launches.filter (fun l =>
      !l.ended && !acc.contains l.handle &&
        (isRoot l || (match l.origin with
          | .child p _ _ => acc.contains p
          | .host _ => false)))).map (fun l => l.handle)
    descendantsFuel c isRoot k (acc ++ more)

/-- The live launches nested in a launch at any depth. -/
def descendants (c : Ctx) (h : Nat) : List Nat :=
  descendantsFuel c (fun l => match l.origin with
    | .child p _ _ => p == h
    | .host _ => false) (c.launches.length + 1) []

/-- The live launches nested in a set of slots at any depth. -/
def slotDescendants (c : Ctx) (ks : List Nat) : List Nat :=
  descendantsFuel c (fun l => match l.origin with
    | .child _ _ k => ks.contains k
    | .host _ => false) (c.launches.length + 1) []

/-- A block that is WAITING, READY or RUNNING becomes KILLED with a cause, once its page is there (Table 13.2). -/
def killBlock (s : State) (w : Who) (code a : Nat) : State :=
  match blockHome s w.ctx a with
  | .absent => holdForPage s w a 0 a (.kill code)
  | _ => if blockField s w a 0x34 1 ≤ 2 then setBlockField (setBlockState s w a 5) w a 0x35 1 code else s

/-- The blocks of a run that are WAITING, READY or RUNNING become KILLED with a cause (Table 13.2). -/
def killBlocks (s : State) (w : Who) (code : Nat) (bs : List Nat) : State := bs.foldl (fun st a => killBlock st w code a) s

/-- The cores of a context that run a task of a launch are stopped (R266). -/
def stopLaunchCores (s : State) (n h : Nat) : State :=
  match getCtx s n with
  | none => s
  | some c => (upTo (16 * c.clusters)).foldl (fun st i =>
      if ((logicalCore st n i).task.map (fun t => t.launch)) = some h then modLogical st n i clearTask else st) s

/-- Commit-control packets of a rank about a run of a launch to its peers, as the model writes them (R264; log entry 8): code 1
prepare, 2 mark, 3 abort, 4 the sub-version `stamp` is discarded, 5 the run becomes part of the sub-version `stamp` of the run `into`,
9 abort with writes still on their way. -/
def tellPeers (s : State) (job rank key : Nat) (peers : List Nat) (code stamp into : Nat) : State :=
  peers.foldl (fun st q => sendPacket st
    { kind := 0x20, vc := 0, src := st.link.node, dst := q % 131072, job := job, rank := q / 131072, srank := rank, addr := 0, tag := code
      launch := key, stamp := stamp, payload := bytesOf 8 into }) s

/-- Commit-control packets about a run of a launch of a context to its peers. -/
def controlPeers (s : State) (n : Nat) (l : Launch) (run : Bool) (code stamp into : Nat) : State :=
  let c := (getCtx s n).getD blankCtx
  tellPeers s c.job c.rank (launchKey l.handle run) l.peers code stamp into

/-- The requests of a launch for which another package's memory changes, and which have not been answered. -/
def writesAway (s : State) (n h : Nat) : List Nat :=
  (s.link.requests.filter (fun r => r.ctx == n && r.launch == h && (r.kind == 0x01 || r.kind == 0x06 || r.kind == 0x07))).map (fun r => r.tag)

/-- The peers drop what they have of an aborted run; while its writes are on their way they keep it in mind (R266; log entry 39). -/
def abortPeers (s : State) (n : Nat) (l : Launch) (run : Bool) : State :=
  let tags := writesAway s n l.handle
  if tags.isEmpty || l.peers.isEmpty then controlPeers s n l run 3 0 0
  else
    let c := (getCtx s n).getD blankCtx
    let f : Farewell := { job := c.job, rank := c.rank, launch := launchKey l.handle run, peers := l.peers, tags := tags }
    controlPeers { s with link := { s.link with farewells := s.link.farewells ++ [f] } } n l run 9 0 0

/-- A byte put before an older one of the same place and run. -/
def putOwnByte (bs : List ShadowByte) (b : ShadowByte) : List ShadowByte :=
  let same := fun (q : ShadowByte) => q.place == b.place && q.run == b.run
  if bs.any (fun q => same q && decide (b.seq < q.seq)) then bs else b :: bs.filter (fun q => !same q)

/-- What the hardware wrote into task control blocks for the runs of a rehearsal outlasts the launch (R294): run A's bytes go to
the run that a child belongs to, or to memory; run B's are dropped (log entry 37). -/
def endBlockBytes (s : State) (n : Nat) (l : Launch) : State :=
  let mine := (l.blockBytes.filter (fun b => !b.run)).reverse
  let s1 := modLaunch s n l.handle (fun q => { q with blockBytes := [] })
  let write := fun (_ : Unit) => mine.foldl (fun st b =>
    match blockHome st n b.va with
    | .far node a => sendFar st (hwWho n l.handle false) 0x01 0 node a b.va [b.byte]
    | _ => writeDirect st b.place [b.byte]) s1
  match l.origin, getCtx s n with
  | .child p run _, some c =>
    if inRehearsal c (viewDepth c) p then
      modLaunch s1 n p (fun q => { q with blockBytes := mine.foldl (fun bs b => putOwnByte bs { b with run := run }) q.blockBytes })
    else write ()
  | _, _ => write ()

/-- One launch aborts (R266): slots and shadow dropped, frontier and board entries dropped, cores stopped, blocks KILLED,
held contributions withdrawn, versions left to be freed (R252), peers told, status reported, waiters served. -/
def abortOne (s : State) (n h : Nat) (cause : Cause) : State :=
  match getLaunch s n h with
  | none => s
  | some l =>
    if l.ended then s
    else
      let s1 := stopLaunchCores s n h
      let s2 := freeSlots s1 ((l.a.slots ++ l.b.slots).map (fun t => t.num))
      let s3 := killBlocks s2 (hwWho n h false) cause.code l.a.blocks
      let s4 := killBlocks s3 (hwWho n h true) cause.code l.b.blocks
      let s5 := abortPeers s4 n l false
      let s6 := if l.desc.flag 1 then abortPeers s5 n l true else s5
      let s7 := endBlockBytes s6 n ((getLaunch s6 n h).getD l)
      let status := 0x02 + 256 * cause.code
      let s8 := modLaunch (freeFrontier s7 n l) n h (fun q =>
        { q with phase := .ended, status := status, shadow := [], holders := [], frontier := 0
                 a := { q.a with slots := [], points := [] }, b := { q.b with slots := [], points := [] } })
      let s9 := modCtx s8 n (fun c => dropEntries c h)
      let s10 := { s9 with hw := { s9.hw with
        seqs := s9.hw.seqs.map (fun q =>
          { q with held := q.held.filter (fun k => !(k.reply.isNone && k.ctx == n && k.launch == h)) }) } }
      settle (reportLaunch (l2Sweep s10) n { l with status := status })

/-- A launch aborts with every launch nested in it (R266), for the same cause (log entry 64). -/
def abortLaunch (s : State) (n h : Nat) (cause : Cause) : State :=
  match getCtx s n with
  | none => s
  | some c => (descendants c h).foldl (fun st k => abortOne st n k cause) (abortOne s n h cause)

/-- Every live launch of a context aborts (R265, R327). -/
def abortAll (s : State) (n : Nat) (cause : Cause) : State :=
  match getCtx s n with
  | none => s
  | some c => c.launches.foldl (fun st l => abortOne st n l.handle cause) s

/-! ## Releasing and firing points (R282, R285, R286) -/

/-- No point fires or is released between a pre-emption decision and the end of the restore (R282, R286). -/
def ctxFrozen (c : Ctx) : Bool := c.decided.isSome || c.saving || c.restoring || c.state != .running

/-- One point is released from the cursor (R282). -/
def releaseOne (s : State) (n h : Nat) (run : Bool) : State :=
  match getLaunch s n h with
  | none => s
  | some l =>
    let u := l.runOf run
    if l.ended || decide (l.desc.points ≤ u.cursor) || decide (4096 ≤ u.points.length) then s
    else
      let idx := l.desc.pointAt u.cursor
      let pt : Point := { idx := idx, t := u.cursor, st := .ready, runs := spGet 0 u.runs idx, page := 0 }
      let s1 := modRun s n h run (fun r => { r with cursor := r.cursor + 1, points := r.points ++ [pt] })
      let (s2, ok) := boardPoint s1 n h run idx u.cursor
      if ok then s2 else abortLaunch s2 n h .bounds

/-- Points are released while fewer than 4,096 are outstanding (R282). -/
def releaseFuel : Nat → State → Nat → Nat → Bool → State
  | 0, s, _, _, _ => s
  | k + 1, s, n, h, run => releaseFuel k (releaseOne s n h run) n h run

/-- The point of a row fires if Fires holds (R285). -/
def fireRow (s : State) (n h : Nat) (run : Bool) (row : Nat) : State :=
  match getLaunch s n h with
  | none => s
  | some l =>
    let u := l.runOf run
    if l.ended || !firesRow l.desc u row then s
    else
      let idx := row * l.desc.eLast + spGet 0 u.heights row
      let pt : Point := { idx := idx, t := l.desc.traversal idx, st := .ready, runs := spGet 0 u.runs idx, page := 0 }
      let s1 := modRun s n h run (fun r => { r with points := r.points ++ [pt] })
      let (s2, ok) := boardPoint s1 n h run idx pt.t
      if ok then s2 else abortLaunch s2 n h .bounds

/-- Every point for which Fires holds fires, in ascending row order (R286). -/
def fireAll (s : State) (n h : Nat) (run : Bool) : State :=
  match getLaunch s n h with
  | none => s
  | some l => (upTo l.desc.rows).foldl (fun st row => fireRow st n h run row) s

/-- A grid launch's next points go to the board: released, or fired along the wet edge (R282, R285). -/
def advanceGrid (s : State) (n h : Nat) (run : Bool) : State :=
  match getCtx s n, getLaunch s n h with
  | some c, some l =>
    if ctxFrozen c || l.ended || l.desc.mode != 0 || !(l.runOf run).started then s
    else if l.desc.ndep = 0 then
      let u := l.runOf run
      releaseFuel (min (l.desc.points - u.cursor) (4096 - u.points.length)) s n h run
    else fireAll s n h run
  | _, _ => s

/-! ## Discarding sub-versions (R255, R265) -/

/-- Why a task's work is given up; it decides the cause when the run count reaches 255 (Table 11.4). -/
inductive Discard where
  | kill | dependence | translate (page : Nat) | tabort
deriving DecidableEq, Repr

/-- The abort cause when a run count reaches 255 (Table 11.4). -/
def Discard.cause : Discard → Cause
  | .tabort => .swtrap
  | .translate _ => .translate
  | _ => .none

/-- The open slots of a context with their launch and run. -/
def openSlots (c : Ctx) : List (Nat × Bool × Slot) :=
  c.launches.flatMap (fun l => l.a.slots.map (fun t => (l.handle, false, t)) ++ l.b.slots.map (fun t => (l.handle, true, t)))

/-- A set of slots with every slot dependent on one of it (R244). -/
def dependentSlots (c : Ctx) : Nat → List Nat → List Nat
  | 0, acc => acc
  | k + 1, acc =>
    let more := ((openSlots c).filter (fun e =>
      !acc.contains e.2.2.num && e.2.2.deps.any (fun d => acc.contains d))).map (fun e => e.2.2.num)
    dependentSlots c k (acc ++ more)

/-- A point is offered again under its key as a re-run; a run count of 255 aborts the launch (R282, R286). -/
def offerAgain (s : State) (n h : Nat) (run : Bool) (idx t : Nat) (cause : Cause) : State :=
  let runs := (((getLaunch s n h).map (fun (l : Launch) => spGet 0 (l.runOf run).runs idx)).getD 0) + 1
  let s1 := modRun s n h run (fun r => { r with runs := spSet 0 r.runs idx runs })
  if 255 ≤ runs then abortLaunch s1 n h cause
  else
    let s2 := modRun s1 n h run (fun r => { r with points := r.points.map (fun p =>
      if p.idx = idx then { p with st := .ready, runs := runs } else p) })
    let (s3, ok) := boardPoint s2 n h run idx t
    if ok then s3 else abortLaunch s3 n h .bounds

/-- Work on a block waits for the answer of its home in another package to the next request (R294). -/
def holdForAnswer (s : State) (n h : Nat) (run : Bool) (addr logical : Nat) (k : HeldKind) : State :=
  modCtx s n (fun c => { c with heldBlocks := c.heldBlocks ++
    [{ launch := h, run := run, addr := addr, logical := logical, wait := .answer s.link.nextTag, kind := k }] })

/-- Work on a block is held for what it needs at `va`: the answer of its home in another package, or its page, of which system software
is told (R294, R295). -/
def holdBlock (s : State) (n h : Nat) (run : Bool) (addr logical va : Nat) (k : HeldKind) : State :=
  let w := hwWho n h run
  match blockHome s n va with
  | .far node a =>
    sendFar (holdForAnswer s n h run addr logical k) w 0x02 (if va = addr then 5 else 0) node (a - va % 64) (va / 64 * 64) (List.replicate 64 0)
  | _ => holdForPage s w addr logical va k

/-- The count of a block in another package falls in one atomic at its home, whose answer the release waits for (R294, R297). -/
def holdCount (s : State) (n h : Nat) (run : Bool) (addr logical node a : Nat) : State :=
  sendFar (holdForAnswer s n h run addr logical (.counted 0)) (hwWho n h run) 0x06 0 node a (addr + 0x18)
    (atomicPayload 0 4 (2 ^ 32 - 1) 0 0)

/-- The operation code of a spawn at the home of a block in another package (R202; log entry 11). -/
def spawnOp : Nat := 32

/-- A block in another package is spawned in one operation at its home, whose answer, the block as it was, the spawn waits for (R202). -/
def holdSpawn (s : State) (n h : Nat) (run : Bool) (addr logical node a key : Nat) : State :=
  sendFar (holdForAnswer s n h run addr logical (.spawn key)) (hwWho n h run) 0x06 0 node a addr (atomicPayload spawnOp 64 key 0 0)

/-- The last 12 bytes of a block as it is queued by a launch, a spawn or a release: its state, CAUSE and RUNS 0, no owner and no slot
(R293, Table 13.2). -/
def joinedWord (state : Nat) : Nat := state + 2 ^ 32 * (2 ^ 64 - 1)

/-- A block is READY again with RUNS + 1; a run count of 255 makes it FAULTED and aborts the launch (R296, Table 13.2). -/
def readyAgain (s : State) (n h : Nat) (run : Bool) (addr logical : Nat) (cause : Cause) : State :=
  let w := hwWho n h run
  let runs := blockField s w addr 0x36 1 + 1
  let s1 := setBlockField s w addr 0x36 1 (min runs 255)
  if !blockAt s w addr then holdBlock s n h run addr logical addr (.rerun cause)
  else if 255 ≤ runs then abortLaunch (setBlockField (setBlockState s1 w addr 4) w addr 0x35 1 cause.code) n h cause
  else
    let (s2, ok) := queueBlock (setBlockState s1 w addr 1) n h run addr logical
    if ok then s2 else abortLaunch s2 n h .bounds

/-- The task of a discarded slot goes back: a released point under its key, a fired one by firing again, a block READY with RUNS +
1; for TRANSLATE the point waits for its page and the block is FAULTED until then (R282, R286, R296, R298, R329). -/
def requeueTask (s : State) (n h : Nat) (run : Bool) (t : Slot) (why : Discard) : State :=
  match t.kind with
  | .point =>
    match getLaunch s n h with
    | none => s
    | some l =>
      match why with
      | .translate page =>
        modRun s n h run (fun r => { r with points := r.points.map (fun p =>
          if p.idx = t.item then { p with st := .pending, page := page } else p) })
      | _ =>
        if l.desc.ndep = 0 then offerAgain s n h run t.item (l.desc.traversal t.item) why.cause
        else
          let runs := spGet 0 (l.runOf run).runs t.item + 1
          let s1 := modRun s n h run (fun r =>
            { r with runs := spSet 0 r.runs t.item runs, points := r.points.filter (fun p => decide (p.idx ≠ t.item)) })
          if 255 ≤ runs then abortLaunch s1 n h why.cause else advanceGrid s1 n h run
  | .block =>
    match why with
    | .translate page =>
      let w := hwWho n h run
      let s1 := setBlockField (setBlockState s w t.item 4) w t.item 0x35 1 Cause.translate.code
      modCtx s1 n (fun c => { c with heldBlocks := c.heldBlocks ++
        [{ launch := h, run := run, addr := t.item, logical := t.core, wait := .page page, kind := .rerun .translate }] })
    | _ => readyAgain s n h run t.item t.core why.cause
  | .resident => s

/-- What a discarded sub-version holds at ordered words is withdrawn where its bytes would have been transactional: those
contributions are part of the discarded sub-version (R255, R266; log entry 24). -/
def withdrawHeld (s : State) (n h : Nat) (run : Bool) (k : Nat) : State :=
  let gone := fun (e : Contribution) =>
    e.reply.isNone && e.ctx == n && e.launch == h && e.run == run && e.slot == k &&
      byteKind s ⟨n, h, run, k⟩ e.va == 2
  { s with hw := { s.hw with seqs := s.hw.seqs.map (fun q => { q with held := q.held.filter (fun e => !gone e) }) } }

/-- What a merged task holds at ordered words goes on in the launch version (R157, R255; log entry 24). -/
def mergeHeld (s : State) (n h : Nat) (run : Bool) (k : Nat) : State :=
  let move := fun (e : Contribution) =>
    if e.reply.isNone ∧ e.ctx = n ∧ e.launch = h ∧ e.run = run ∧ e.slot = k then { e with slot := mergedSlot } else e
  { s with hw := { s.hw with seqs := s.hw.seqs.map (fun q => { q with held := q.held.map move }) } }

/-- A block that a TGET holds goes back as though it had never been taken (R253). -/
def putBackTget (s : State) (n : Nat) : State :=
  let c := getCore s n
  match c.ctx, c.task with
  | some k, some t =>
    c.sync.foldl (fun st o =>
      match o.kind with
      | .tget b w (some a) =>
        let (s1, ok) := queueBlock (putSync st n { o with kind := .tget b w none }) k t.launch t.run a c.logical
        if ok then s1 else abortLaunch s1 k t.launch .bounds
      | _ => st) s
  | _, _ => s

/-- One open slot is discarded (R255): its shadow goes, its core gives the task up, its work goes back. A resident program given up
with its block starts again at ENTRY (R304, R321). -/
def discardOne (s : State) (n : Nat) (e : Nat × Bool × Slot) (why : Discard) : State :=
  let (h, run, t) := e
  match getLaunch s n h with
  | none => s
  | some l =>
    let s1 := modLaunch (withdrawHeld (controlPeers s n l run 4 t.stamp 0) n h run t.num) n h (fun q =>
      { q with shadow := q.shadow.filter (fun b => !(b.run == run && b.slot == t.num)), dropped := t.stamp :: q.dropped })
    let s2 := modRun s1 n h run (fun r => { r with slots := r.slots.filter (fun q => decide (q.num ≠ t.num)) })
    let s3 := l2Sweep (freeSlots s2 [t.num])
    let mine := (logicalCore s3 n t.core).task.any (fun k => k.slot == some t.num)
    let held := fun (st : State) =>
      match getCtx st n with
      | some c => if c.part.isEmpty then st else putBackTget st (physCore c.part t.core)
      | none => st
    requeueTask (if t.completed || !mine then s3 else modLogical (held s3) n t.core clearTask) n h run t why

/-- A slot is discarded with every slot dependent on it and every launch nested in them (R244, R255). The first slot's work
is given up for `why`, the others' for the dependence; the launches abort for the cause of `why` (log entry 64). -/
def discardSlot (s : State) (n k : Nat) (why : Discard) : State :=
  match getCtx s n with
  | none => s
  | some c =>
    let ks := dependentSlots c ((openSlots c).length + 1) [k]
    let s1 := (slotDescendants c ks).foldl (fun st h => abortOne st n h why.cause) s
    let es := (openSlots c).filter (fun e => ks.contains e.2.2.num)
    es.foldl (fun st e => discardOne st n e (if e.2.2.num = k then why else .dependence)) s1

/-! ## Queuing blocks (R295 to R297) -/

/-- The code object of a launch. -/
def codeOf (c : Ctx) (id : Nat) : Option CodeObj := c.code.find? (fun o => o.id == id)

/-- Bytes `off` to `off + n − 1` of a code object as a number. -/
def CodeObj.nat (o : CodeObj) (off n : Nat) : Nat := field o.bytes (8 * off) (8 * n)

/-- The number of kernels of an object (Table 3.10). -/
def CodeObj.kernels (o : CodeObj) : Nat := o.nat 0x10 4

/-- Byte offset of kernel entry i (Table 3.10). -/
def CodeObj.kernelAt (o : CodeObj) (i : Nat) : Nat := o.nat 0x18 8 + 32 * i

/-- The kernel whose entry bundle is given, if the object has one (R89). -/
def CodeObj.kernelOf (o : CodeObj) (entry : Nat) : Option Nat :=
  (upTo o.kernels).find? (fun i => o.nat (o.kernelAt i + 8) 4 == entry)

/-- A bundle is an entry bundle of the launch's code object (R295). -/
def isKernelEntry (s : State) (n h entry : Nat) : Bool :=
  match getCtx s n, getLaunch s n h with
  | some c, some l =>
    match codeOf c l.desc.code with
    | some o => (o.kernelOf entry).isSome
    | none => false
  | _, _ => false

/-- How the check of a block ends: well formed, a cause of the launch's abort, or an entry of its successor array cannot be read now. -/
inductive BlockCheck where
  | good
  | bad (c : Cause)
  | away (entry : Nat)
deriving DecidableEq, Repr

/-- The successor addresses of an array from entry i on (R295). -/
def successorCheck (s : State) (w : Who) (succ : Nat) : Nat → Nat → BlockCheck
  | 0, _ => .good
  | k + 1, i =>
    if !blockAt s w (succ + 8 * i) then .away i
    else if blockField s w succ (8 * i) 8 % 64 ≠ 0 then .bad .align
    else successorCheck s w succ k (i + 1)

/-- A block is checked when first queued, its successors from entry `next` on (R295). -/
def blockCheck (s : State) (n h : Nat) (run : Bool) (addr next : Nat) : BlockCheck :=
  let w := hwWho n h run
  let succ := blockField s w addr 0x20 8
  if blockField s w addr 0x04 4 / 2 ≠ 0 ∨ !isKernelEntry s n h (blockField s w addr 0x00 4) then .bad .illegal
  else if succ % 8 ≠ 0 then .bad .align
  else successorCheck s w succ (blockField s w addr 0x1C 4 - next) next

/-- The check of a block when it is first queued, with the launch's abort where it fails; its queuing, `initial` or not, waits for an
entry of its successor array that cannot be read now (R294, R295). True where the block is well formed. -/
def checkBlock (s : State) (n h : Nat) (run : Bool) (addr logical : Nat) (initial : Bool) (next : Nat) : State × Bool :=
  if ((getLaunch s n h).map (fun (l : Launch) => (l.runOf run).checked.contains addr)).getD false then (s, true)
  else
    let w := hwWho n h run
    match blockCheck s n h run addr next with
    | .good => (modRun s n h run (fun r => { r with checked := r.checked ++ [addr] }), true)
    | .away i => (holdBlock s n h run addr logical (blockField s w addr 0x20 8 + 8 * i) (.queue initial i), false)
    | .bad .illegal => (abortLaunch (setBlockField (setBlockState s w addr 4) w addr 0x35 1 0x01) n h .illegal, false)
    | .bad c => (abortLaunch s n h c, false)

/-- A block whose hardware fields are set is checked, and queued when its count is 0 (R295, R298). A spawned or released block
is checked whatever its count; `initial` marks a block of the array at launch start, which goes to the board whatever its key. -/
def enterBlock (s : State) (n h : Nat) (run : Bool) (addr logical : Nat) (initial : Bool) (next : Nat) : State :=
  let w := hwWho n h run
  let ready := blockField s w addr 0x18 4 == 0
  if initial && !ready then s
  else
    let (s1, good) := checkBlock s n h run addr logical initial next
    if !good || !ready then s1
    else
      let (s2, ok) :=
        if initial then
          boardInsert s1 n { launch := h, run := run, work := .block addr, cls := classOf s n h,
                             key := blockField s1 w addr 0x28 8, seq := insertionSeq s1 1 logical
                             lo := 0, hi := 256, overflow := false }
        else queueBlock s1 n h run addr logical
      if ok then s2 else abortLaunch s2 n h .bounds

/-- A block joins the launch with its hardware fields set (R293, Table 13.2). -/
def joinBlock (s : State) (n h : Nat) (run : Bool) (addr logical : Nat) (initial : Bool) : State :=
  let w := hwWho n h run
  if !blockAt s w addr then holdBlock s n h run addr logical addr (.join initial)
  else
    let s1 := modRun s n h run (fun r => { r with blocks := if r.blocks.contains addr then r.blocks else r.blocks ++ [addr] })
    let ready := blockField s1 w addr 0x18 4 == 0
    enterBlock (setBlockField s1 w addr 0x34 12 (joinedWord (ofBool ready))) n h run addr logical initial 0

/-- A successor is not WAITING, or its count is already 0: it is FAULTED and the launch aborts with BOUNDS (R297). -/
def failSuccessor (s : State) (n h : Nat) (run : Bool) (addr : Nat) : State :=
  let w := hwWho n h run
  abortLaunch (setBlockField (setBlockState s w addr 4) w addr 0x35 1 0x04) n h .bounds

/-- A successor's count has fallen from `before`: at 0 it is READY, and a block outside the launch joins it by its release (R297). -/
def countedDown (s : State) (n h : Nat) (run : Bool) (logical addr before : Nat) : State :=
  match getLaunch s n h with
  | none => s
  | some l =>
    if l.ended then s
    else if before = 0 then failSuccessor s n h run addr
    else if (l.runOf run).blocks.contains addr && before != 1 then s
    else joinBlock s n h run addr logical false

/-- One successor of a merged block is released (R297): its count falls by 1, in one atomic at its home. -/
def releaseSuccessor (s : State) (n h : Nat) (run : Bool) (logical addr : Nat) : State :=
  let w := hwWho n h run
  let deps := blockField s w addr 0x18 4
  if ((getLaunch s n h).map (fun l => l.ended)).getD true then s
  else if addr % 64 ≠ 0 then abortLaunch s n h .align
  else if !blockAt s w addr then holdBlock s n h run addr logical addr .release
  else if deps = 0 ∨ blockField s w addr 0x34 1 ≠ 0 then failSuccessor s n h run addr
  else
    match blockHome s n (addr + 0x18), ((getCtx s n).map (fun c => inRehearsal c (viewDepth c) h)).getD false with
    | .far node a, false => holdCount s n h run addr logical node a
    | _, _ => countedDown (setBlockField s w addr 0x18 4 (deps - 1)) n h run logical addr deps

/-- The successors of a block from index i on; an entry of the array that cannot be read now holds the rest (R295, R297). -/
def releaseFrom (n h : Nat) (run : Bool) (logical addr : Nat) : Nat → Nat → State → State
  | 0, _, s => s
  | k + 1, i, s =>
    let w := hwWho n h run
    let a := blockField s w addr 0x20 8 + 8 * i
    if ((getLaunch s n h).map (fun l => l.ended)).getD true then s
    else if !blockAt s w a then holdBlock s n h run addr logical a (.successors i)
    else releaseFrom n h run logical addr k (i + 1) (releaseSuccessor s n h run logical (blockField s w a 0 8))

/-- The successors of a block are visited in array order when its sub-version merges (R297). -/
def releaseSuccessors (s : State) (n h : Nat) (run : Bool) (logical addr : Nat) : State :=
  let w := hwWho n h run
  if !blockAt s w addr then holdBlock s n h run addr logical addr (.successors 0)
  else releaseFrom n h run logical addr (blockField s w addr 0x1C 4) 0 s

/-! ## Merging (R255, R256) -/

/-- A completed slot whose dependences have ended merges into the launch version: its tags read as merged, no slot depends
on it any longer, and its number is free (R255). -/
def mergeSlot (s : State) (n h : Nat) (run : Bool) (k : Nat) : State :=
  let s1 := modLaunch (mergeHeld s n h run k) n h (fun l => { l with shadow := l.shadow.map (fun b =>
    if b.run = run ∧ b.slot = k then { b with slot := mergedSlot } else b) })
  let origin := fun (o : Origin) =>
    match o with
    | .child p r q => if p = h ∧ r = run ∧ q = k then .child p r mergedSlot else o
    | .host _ => o
  let drop := fun (r : RunState) =>
    { r with slots := (r.slots.filter (fun t => decide (t.num ≠ k))).map (fun t =>
        { t with deps := t.deps.filter (fun d => decide (d ≠ k)) }) }
  let s2 := modCtx s1 n (fun c => { c with launches := c.launches.map (fun l => { l with a := drop l.a, b := drop l.b, origin := origin l.origin }) })
  freeSlots s2 [k]

/-- The slot of a run with a number. -/
def findSlot (s : State) (n h : Nat) (run : Bool) (k : Nat) : Option Slot :=
  match getLaunch s n h with
  | none => none
  | some l => (l.runOf run).slots.find? (fun t => t.num == k)

/-- What follows the merge of a task: a point completes and the edge advances, a block is DONE and releases its successors
(R282, R286, R297). -/
def afterMerge (s : State) (n h : Nat) (run : Bool) (t : Slot) : State :=
  match t.kind with
  | .point =>
    let s1 := modRun s n h run (fun r => { r with points := r.points.filter (fun p => decide (p.idx ≠ t.item)) })
    let s2 := match getLaunch s1 n h with
      | none => s1
      | some l =>
        if l.desc.ndep = 0 then s1
        else
          let (row, j) := l.desc.rowOf t.item
          modRun s1 n h run (fun r => { r with heights := spSet 0 r.heights row (j + 1) })
    advanceGrid s2 n h run
  | .block =>
    releaseSuccessors (setBlockState s (hwWho n h run) t.item 3) n h run t.core t.item
  | .resident => s

end Sys2Proof.Machine
end

