-- ==== Sys2Proof/Machine/Ops.lean ====
section
/-!
DEFINITION. The shared operations of the slots: results in flight and their landing (R80, R81), stops and the late-write
buffer (R315, R316), taking a trap (R76, R103, R312) and the return from one (R104), held issue (R75), and checked accesses to
memory (R110, R145, R183).
-/
namespace Sys2Proof.Machine

/-! ## Results in flight -/

/-- A result appended to those in flight of the issuing core. -/
def postPending (s : State) (dest : Option Dest) (due : Option Nat) (waits : Nat) (flags : FpFlags) (what : Payload) : State :=
  modCur s (fun c =>
    { c with
      pend := c.pend ++ [{ id := c.nextId, dest := dest, what := what, due := due, waits := waits, age := c.ctl.age,
                           flags := flags, replay := false }]
      nextId := c.nextId + 1 })

/-- A fixed-latency result of latency L: it lands at the end of cycle t + L − 1 (R80). -/
def postFixed (s : State) (dest : Option Dest) (latency : Nat) (flags : FpFlags) (what : Payload) : State :=
  postPending s dest (some ((curCore s).now + latency - 1)) 0 flags what

/-- The destination of a write to x[r] (R74). -/
def destX (r : Nat) : Option Dest := if r = 0 then none else some (.x r)

/-- A scalar result of fixed latency; one to x0 is discarded when it lands (R17). -/
def postX (s : State) (r latency : Nat) (v : Word) : State := postFixed s (destX r) latency 0 (.x r v)

/-- A vector result of fixed latency under byte enables, with its flags (R118, R48). -/
def postV (s : State) (b : Bool) (r latency : Nat) (flags : FpFlags) (v : Vec) (bytes : Pred) : State :=
  postFixed s (some (.v b r)) latency flags (.vec b r v bytes)

/-- The destination of a write to a predicate (R74). -/
def destP (b : Bool) (r : Nat) : Option Dest := if r = 0 then none else some (.p b r)

/-- A predicate result of fixed latency. -/
def postP (s : State) (b : Bool) (r latency : Nat) (v : Pred) : State := postFixed s (destP b r) latency 0 (.pred b r v)

/-- An interlocked result (R81); `waits` remote answers are still to come. -/
def postInterlocked (s : State) (dest : Option Dest) (waits : Nat) (what : Payload) : State :=
  postPending s dest none waits 0 what

/-- The identifier that the next pending result of the issuing core will have. -/
def freshId (s : State) : Nat := (curCore s).nextId

/-- A device register written by a landing SETD (R33, Table 1.5): reserved bits are dropped, DFLAGS clears the bits
written 1. -/
def Dev.set (d : Dev) (i : Nat) (v : Word) : Dev :=
  match i with
  | 0x001 => { d with ctl := v &&& 1 }
  | 0x008 => { d with est := v }
  | 0x009 => { d with wto := v }
  | 0x00A => { d with flags := flagsAfterClear d.flags 0 v.toNat }
  | 0x012 => { d with rngc := v }
  | 0x020 => { d with tvec := v &&& 0x1FFF }
  | 0x025 => { d with tsave := v }
  | _ => d

/-- The effect of a landing on its core. -/
def Core.applyPayload (c : Core) : Payload → Core
  | .x r v => { c with regs := c.regs.writeX r v }
  | .vec b r v bytes => { c with regs := c.regs.writeV b r (mergeBytes bytes v (c.regs.readV b r)) }
  | .pred b r v => { c with regs := c.regs.writeP b r v }
  | .accRow k row v bytes => { c with mx := c.mx.writeRow k row (mergeBytes bytes v (c.mx.readRow k row)) }
  | .side cl k v bytes => { c with mx := c.mx.writeSide cl k (mergeBytes bytes v (c.mx.readSide cl k)) }
  | .dev i v => { c with dev := c.dev.set i v }
  | .shape e r f v => { c with regs := c.regs.writeShadow e r f v }
  | .spillV k v => { c with loc := { c.loc with spillV := spSet 0 c.loc.spillV k v } }
  | .spillX k v => { c with loc := { c.loc with spillX := spSet 0 c.loc.spillX k v } }
  | .record k v a =>
    { c with regs := { c.regs with recs := spSet 0 c.regs.recs k v, recAddr := spSet 0 c.regs.recAddr k a } }
  | .ringFilled q => let g := c.regs.ring q
    { c with regs := c.regs.setRing q { g with filled := g.filled + 1 } }
  | .ringFreed q => let g := c.regs.ring q
    { c with regs := c.regs.setRing q { g with free := g.free + 1 } }
  | .ringSet q v =>
    let w := v.toNat
    let cap := field w 40 16
    let r : Ring :=
      { base := field w 0 20, slot := field w 20 20, cap := cap, fmt := field w 56 6, filled := 0, free := cap }
    { c with regs := c.regs.setRing q r }
  | .regionsClear first count => { c with imem := { c.imem with tags := spClear c.imem.tags first (first + count) } }
  | .nothing => c

/-- A payload writes its whole destination. -/
def Payload.whole : Payload → Bool
  | .vec _ _ _ bytes => bytes == allBytes
  | .accRow _ _ _ _ | .side _ _ _ _ => false
  | _ => true

/-- A word written anew holds no error any longer (R338). -/
def Core.mend (c : Core) (d : Option Dest) : Core :=
  match d with
  | some x => { c with bad := c.bad.filter (fun w => decide (w ≠ .file x)) }
  | none => c

/-- A result lands: its payload takes effect, and the flags it raises are set in that cycle (R37). -/
def Core.land (c : Core) (e : Pending) : Core :=
  let c1 := (c.applyPayload e.what).mend (if e.what.whole then e.dest else none)
  { c1 with dev := { c1.dev with flags := c1.dev.flags ||| e.flags } }

/-- A result is due by the end of a core's current cycle. -/
def Pending.isDue (e : Pending) (now : Nat) : Bool :=
  match e.due with
  | some d => decide (d ≤ now)
  | none => false

/-- Those results due at the end of the current cycle that a test picks land, older bundles first, and a flag that one of
them raises stays set against a clear of the same cycle (R80, R81, R33, R37). -/
def Core.landWhere (c : Core) (f : Pending → Bool) : Core :=
  let now := fun (e : Pending) => e.isDue c.now && f e
  let due := c.pend.filter now
  let c1 := due.foldl (fun k e => k.land e) { c with pend := c.pend.filter (fun e => !now e) }
  { c1 with dev := { c1.dev with flags := due.foldl (fun f e => f ||| e.flags) c1.dev.flags } }

/-- Every result due at the end of the current cycle lands. -/
def Core.landDue (c : Core) : Core := c.landWhere (fun _ => true)

/-- An interlocked result of a core lands (R81). -/
def Core.landId (c : Core) (id : Nat) : Core :=
  match c.pend.find? (fun e => e.id == id && e.due.isNone && e.waits == 0) with
  | some e => { c with pend := c.pend.filter (fun q => decide (q.id ≠ id)) }.land e
  | none => c

/-! ## Stops and replay (R315, R316) -/

/-- The fixed-latency results in flight enter the late-write buffer; `now` is the first cycle that does not count. -/
def Core.toBuffer (c : Core) : Core :=
  let fixed := c.pend.filterMap (fun e =>
    match e.due with
    | some d => some ({ dest := e.dest, what := e.what, remaining := d + 1 - c.now, age := e.age, flags := e.flags } : LwbEntry)
    | none => none)
  { c with lwb := c.lwb ++ fixed, pend := c.pend.filter (fun e => e.due.isNone)
           ctl := { c.ctl with eligible := c.ctl.eligible - c.now, wait := c.ctl.wait.map (fun w => w - c.now) } }

/-- The late-write buffer replays from the first resumed cycle `now` (R316), and the saved stall and wait cycles run on. -/
def Core.fromBuffer (c : Core) : Core :=
  let entries := (upTo c.lwb.length).zip c.lwb |>.map (fun p =>
    ({ id := c.nextId + p.1, dest := p.2.dest, what := p.2.what, due := some (c.now + p.2.remaining - 1), waits := 0,
       age := p.2.age, flags := p.2.flags, replay := true } : Pending))
  { c with pend := entries ++ c.pend, lwb := [], nextId := c.nextId + c.lwb.length
           ctl := { c.ctl with eligible := c.now + c.ctl.eligible, wait := c.ctl.wait.map (fun w => c.now + w) } }

/-! ## Traps -/

/-- The trap registers (R76): DTCAUSE, DTMASK, DTBUNDLE and DTADDR. -/
def Dev.trapped (d : Dev) (cause : Cause) (mask bundle addr : Nat) : Dev :=
  { d with tcause := BitVec.ofNat 64 cause.code, tmask := BitVec.ofNat 64 mask, tbundle := BitVec.ofNat 64 (bundle % 4096)
           taddr := BitVec.ofNat 64 addr }

/-- DTVEC.EN. -/
def Dev.vecEnabled (d : Dev) : Bool := bitAt d.tvec.toNat 12

/-- The causes that a context's handler may take (R103). -/
def Cause.toHandler : Cause → Bool
  | .scoreboard | .brk | .swtrap => true
  | _ => false

/-- The translations that a test keeps, in every translation cache. -/
def keepTlbs (s : State) (keep : Nat → TlbEntry → Bool) : State :=
  { s with
    cores := s.cores.map (fun c => (c.1, { c.2 with tlb := c.2.tlb.filter (fun e => (c.2.ctx.map (fun k => keep k e)).getD true) }))
    hw := { s.hw with tlb0 := s.hw.tlb0.filter (fun e => keep e.ctx e.entry)
                      tlb1 := s.hw.tlb1.filter (fun e => keep e.ctx e.entry) } }

/-- A frame is retired: unusable until reset, its translations removed, and an event posted that names the contexts whose page
tables map it (R343). -/
def retireFrame (s : State) (place : Nat) : State :=
  let f := place / 65536
  if s.hw.retired.contains f then s
  else
    let maps := fun (e : TlbEntry) => e.tgt == 0 && decide (e.addr < 65536 * f + 65536) && decide (65536 * f < e.addr + 2 ^ e.bits)
    let users := (s.ctxs.filter (fun e => mapsPlace s e.2 place)).map (fun e => e.1)
    let d := placeDie place
    let cnt : DieCounters := spGet {} s.hw.counters d
    let s1 := keepTlbs s (fun _ e => !maps e)
    post { s1 with
      hw := { s1.hw with retired := insertNat f s.hw.retired
                         counters := spSet {} s.hw.counters d { cnt with retired := min (cnt.retired + 1) (2 ^ 32 - 1) } } }
      (.retired f users)

/-- What an uncorrectable error found by a read leaves (R338, R343): one of the memory retires its frame, one of the L2's own
copy does not. -/
def retireRead (s : State) (place : Nat) : State :=
  if s.hw.damaged.any (fun d => d / 65536 == place / 65536) && !s.hw.cached.any (fun d => lineOf d == lineOf place) then
    retireFrame s place
  else s

/-- The frames of the memory are retired in which a read of n bytes finds an uncorrectable error (R343). -/
def retireRange (s : State) (p n : Nat) : State := (s.hw.damaged.filter (damageMet p n)).foldl retireRead s

/-- The frames of a context's spill area are retired that hold the bad lines met by n bytes (R343): a free choice of frames, since the
area has no address (log entry 87). The abort drops the lines. -/
def retireSpill (s : State) (k p n : Nat) : State :=
  let met := s.hw.badSpill.filter (fun e => e.1 == k && (linesOf p n).contains e.2)
  met.foldl (fun st _ => retireFrame { st with fresh := st.fresh + 1 } (65536 * Config.spillFrame st.fresh))
    { s with hw := { s.hw with badSpill := s.hw.badSpill.filter (fun e => !met.contains e) } }

/-- The page of an address maps a place of the package whose read of up to a unit's bytes, 256, finds an error (R343). -/
def retirePage (s : State) (k va : Nat) : State :=
  match xlatCtx s ((getCtx s k).getD blankCtx) va with
  | .pkg p _ _ => let n := min 256 (65536 - p % 65536)
    retireSpill (retireRange s p n) k p n
  | _ => s

/-- The frames that hold the bad bytes of a unit at an address are retired: in its first page, or else in the next (R343, R427). -/
def retireUnit (s : State) (k va : Nat) : State :=
  let s1 := retirePage s k va
  if s1 = s then retirePage s k (65536 * (va / 65536 + 1)) else s1

/-- A resident program without a slot that met an unmapped page is given up, and starts again at ENTRY once system software reports
the page present (R321, R329; log entry 10). -/
def parkResident (s : State) (n k page : Nat) (t : Task) : State :=
  let c := getCore s n
  modCtx (modCore (putBackTget s n) n clearTask) k (fun x =>
    { x with residents := x.residents ++ [{ launch := t.launch, run := t.run, logical := c.logical, page := page }] })

/-- A malformed walk, found by a job, an engine, a hint or the stage manager, posts a page-table event (R348). -/
def reportPage (s : State) (k va : Nat) : State :=
  match classify va, getCtx s k with
  | some (.global, a), some c =>
    match walkTable s c.root a with
    | .malformed => post s (.pageTable k (a / 65536))
    | _ => s
  | _, _ => s

/-- The walks of n bytes, in one page or two (R348, R427). -/
def reportWalk (s : State) (k va n : Nat) : State :=
  let s1 := reportPage s k va
  if (va + n - 1) / 65536 = va / 65536 then s1 else reportPage s1 k (65536 * ((va + n - 1) / 65536))

/-- The page that an access at an address misses: the address's own, or the next one where that is mapped (R427). -/
def missingPage (s : State) (k addr : Nat) : Nat :=
  match xlatCtx s ((getCtx s k).getD blankCtx) addr with
  | .bad .translate => addr / 65536
  | _ => addr / 65536 + 1

/-- The work of a trapped task is given up for an unmapped page (R265, R329). -/
def giveUpForPage (s : State) (n addr : Nat) : State :=
  let c := getCore s n
  let page := missingPage s (c.ctx.getD 0) addr
  match c.ctx, c.task with
  | some k, some t =>
    let s1 := match t.slot with
      | some sl => discardSlot s k sl (.translate page)
      | none => parkResident s n k page t
    post s1 (.pageFault k page)
  | _, _ => s

/-- A trap that goes to the stage manager (R312): the trap registers are written, the core stops, a fault event is posted,
and the cause has its outcome of Table 14.1. -/
def stageTrap (s : State) (n : Nat) (cause : Cause) (mask bundle addr : Nat) : State :=
  let s1 := modCore s n (fun c => { c with status := .trapped, dev := c.dev.trapped cause mask bundle addr })
  let c := getCore s1 n
  match c.ctx, c.task with
  | some k, some t =>
    let s2 := post s1 (.fault k t.launch c.logical cause.code mask bundle addr)
    let dbg : Bool := match getCtx s2 k with
      | some x => x.debugger
      | none => false
    if cause.toHandler ∧ dbg then
      modCtx (modCore s2 n (fun q => { q with status := .held })) k (fun x => { x with dog := .off })
    else
      match cause with
      | .translate => giveUpForPage s2 n addr
      | .eccUncorr =>
        let s3 := match classify addr with
          | some (.global, va) => retireUnit s2 k va
          | _ => s2
        abortLaunch s3 k t.launch .eccUncorr
      | _ => abortLaunch s2 k t.launch cause
  | _, _ => s1

/-- Delivery to the context's handler (R103): the trap registers are set, INH becomes 1, the resume point is recorded and
bundle DTVEC.VEC is next, two cycles after the trapping one. -/
def handlerTrap (s : State) (n : Nat) (cause : Cause) (mask bundle addr resume : Nat) : State :=
  modCore s n (fun c =>
    { c with
      dev := { c.dev.trapped cause mask bundle addr with inh := true }
      ctl := { c.ctl with pc := field c.dev.tvec.toNat 0 12, eligible := c.now + 2, resume := resume } })

/-- TAKING A TRAP: to the handler when its cause may go there, DTVEC.EN is 1 and DSTAT.INH is 0, else to the stage manager
(R103, R312). `resume` is the bundle at which the handler's ERET resumes. -/
def takeTrap (s : State) (n : Nat) (cause : Cause) (mask bundle addr resume : Nat) : State :=
  let d := (getCore s n).dev
  if cause.toHandler ∧ d.vecEnabled ∧ !d.inh then handlerTrap s n cause mask bundle addr resume
  else stageTrap s n cause mask bundle addr

/-- THE RETURN FROM A TRAP (R104): INH becomes 0 and control goes to the resume point, 1 idle cycle later. -/
def returnFromTrap (s : State) (n stall : Nat) : State :=
  modCore s n (fun c =>
    { c with dev := { c.dev with inh := false }
             ctl := { c.ctl with pc := c.ctl.resume, eligible := c.now + 2 + stall } })

/-! ## The issuing slot -/

/-- The issuing slot fails a check (R76). While the checks of a bundle are gathered the failure is recorded for the merge;
a slot on its own takes the trap. -/
def slotFail (s : State) (cause : Cause) (addr : Nat) : State :=
  if s.issue.probe then
    { s with issue := { s.issue with raised := s.issue.raised ++ [⟨s.issue.slot, cause, addr⟩] } }
  else takeTrap s s.issue.core cause (2 ^ s.issue.slot) (curCore s).ctl.pc addr (curCore s).ctl.pc

/-- The issuing slot is held before issue (R75): nothing of it takes effect in this cycle. -/
def slotHold (s : State) : State := { s with issue := { s.issue with held := true } }

/-- A release at a scope is held before issue (R198, R238). A bundle past its readiness tests is not: its own accesses are
no earlier ones. -/
def releaseHeld (s : State) (scope : Nat) : Bool := !s.issue.commit && !releaseReady s s.issue.core scope

/-- A walk for a page of a context, merged with one already running (R328). -/
def requestWalk (s : State) (k va : Nat) : State :=
  let w : Walk := { ctx := k, page := va / 65536, die := dieOf s.issue.core }
  if s.hw.walks.contains w then s else { s with hw := { s.hw with walks := s.hw.walks ++ [w] } }

/-- The issuing slot waits for the translation of an address (R75, R328). -/
def holdForWalk (s : State) (va : Nat) : State := slotHold (requestWalk s (slotOfCore s s.issue.core) va)

/-- The issuing slot waits for a prepared line (R263). -/
def holdForPrepared (s : State) (place : Nat) : State :=
  slotHold (modCur s (fun c => { c with heldOn := some (lineOf place) }))

/-! ## Checked accesses -/

/-- What the checks of an access answer. -/
inductive Access where
  /-- package memory at a place -/
  | here (place : Nat)
  /-- memory of a peer (target 1) or of the host (target 2) -/
  | away (tgt node addr : Nat)
  /-- the first failing check -/
  | fails (c : Cause)
  /-- the translation is not in the core's cache -/
  | untranslated
  /-- the line is held by a prepared version -/
  | prepared (place : Nat)
  /-- an earlier access of the core to the same remote bytes is not performed yet -/
  | ordered
deriving DecidableEq, Repr

/-- The chip scratchpad allocation of a context covers n bytes (R39). -/
def chipAllowed (c : Ctx) (off n : Nat) : Bool := decide (c.chipBase ≤ off) && decide (off + n ≤ c.chipBase + c.chipSize)

/-- The footprint step of a write of a launch (R251): `cls` is the writer class, `region` the record's REGION or 0. -/
def footCause (s : State) (w : Who) (va cls region n : Nat) : Cause :=
  match recOf s w with
  | some r => checkWriteBytes r va cls region n
  | none => .none

/-- An access of a core to remote bytes waits for its earlier ones to the same bytes (R239). A bundle past its readiness tests does
not: the accesses of one bundle are sent in their order. -/
def awayBusy (s : State) (n home size : Nat) : Bool :=
  !s.issue.commit && s.link.requests.any (fun r => r.core == n && some r.ctx == (getCore s n).ctx && r.job.isNone &&
    (match r.home with
     | some h => decide (h < home + size) && decide (home < h + r.size)
     | none => false))

/-- The checks of one access of n bytes after its alignment (R110, R145, R183), with the translation of its address: range,
translation, permission, footprint for a write, and uncorrectable errors for a read. A rehearsal launch sends no store and no
reduction to a remote page (R268). -/
def checkXlat (s : State) (core : Nat) (w : Who) (va n : Nat) (read write : Bool) (cls region : Nat) (x : Xlat) : Access :=
  match classify va with
  | none => .fails .protect
  | some (.global, _) =>
    match x with
    | .miss => .untranslated
    | .bad c => .fails c
    | .pkg p rd wr =>
      if (write && !wr) || !rd then .fails .protect
      else
        let f := if write then footCause s w va cls region n else .none
        if f ≠ .none then .fails f
        else if heldByPrepared s w p n then .prepared p
        else if read && (isDamaged s p n || spillDamaged s w p n) then .fails .eccUncorr
        else .here p
    | .remote tgt node addr rd wr =>
      if (write && !wr) || !rd || (write && !read && rehearsing s w) then .fails .protect
      else
        let f := if write then footCause s w va cls region n else .none
        if f ≠ .none then .fails f else .away tgt node addr
  | some (sp, off) =>
    let p := localPlace core sp off
    if spaceSize sp < off + n then .fails .protect
    else if sp = .chip ∧ !chipAllowed (ctxOfCore s core) off n then .fails .protect
    else if read && isDamaged s p n then .fails .eccUncorr
    else .here p

/-- The checks of an access of a core, translated by its cache (R328), in the order of its accesses to remote bytes (R239). -/
def checkRange (s : State) (core : Nat) (w : Who) (va n : Nat) (read write : Bool) (cls region : Nat) : Access :=
  match checkXlat s core w va n read write cls region (xlatCore s core va) with
  | .away tgt node addr => if awayBusy s core (homeName (remoteNode tgt node) addr) n then .ordered else .away tgt node addr
  | a => a

/-- The checks of an access of an engine of a core, whose walk is waited for (R328). -/
def checkEngine (s : State) (core : Nat) (w : Who) (va n : Nat) (read write : Bool) (cls region : Nat) : Access :=
  checkXlat s core w va n read write cls region (xlatCtx s (ctxOfCore s core) va)

/-- An address whose translation names host memory (R348). -/
def onHost (s : State) (core va : Nat) : Bool :=
  match classify va with
  | some (.global, a) =>
    match xlatCore s core a with
    | .remote tgt _ _ _ _ => tgt == 2
    | _ => false
  | _ => false

/-- The checks of an access that host pages do not take (R373): PROTECT there in the place of the permission check. -/
def checkNotHost (s : State) (core : Nat) (w : Who) (va n : Nat) (read write : Bool) (cls region : Nat) : Access :=
  if onHost s core va then .fails .protect else checkRange s core w va n read write cls region

/-- The checks of an access of a scalar slot: alignment first (R110, R183). -/
def checkAccess (s : State) (core va size : Nat) (read write : Bool) (cls : Nat) : Access :=
  if va % size ≠ 0 then .fails .align else checkRange s core (whoIs s core) va size read write cls 0

/-- The space code and offset by which footprints of jobs name an address: its virtual address for global memory. -/
def rangeOf (va n : Nat) : Range :=
  match classify va with
  | some (.global, a) => ⟨0, a, a + n⟩
  | some (.cluster, o) => ⟨1, o, o + n⟩
  | some (.chip, o) => ⟨2, o, o + n⟩
  | some (.core, o) => ⟨3, o, o + n⟩
  | none => ⟨4, va, va⟩

/-- Two ranges share a byte. -/
def Range.meets (a b : Range) : Bool := a.space == b.space && decide (a.lo < b.hi) && decide (b.lo < a.hi)

/-- An access of the core meets a footprint of one of its in-flight jobs: the write footprint, or for a store also the read
footprint (R111, R147). -/
def meetsJobs (s : State) (n : Nat) (r : Range) (store : Bool) : Bool :=
  (getCore s n).jobs.any (fun j =>
    j.writes.any (fun q => q.meets r) || (store && j.reads.any (fun q => q.meets r)))

/-- A checked access of a scalar slot: it is held for the jobs whose footprints it meets, for its translation and for a prepared line
before it issues, and its checks come at issue (R75, R110, R111, R263, R328). -/
def onceFree (s : State) (va size : Nat) (read write : Bool) (cls : Nat) (act : Access → State) : State :=
  if meetsJobs s s.issue.core (rangeOf va size) write then slotHold s
  else
    match checkAccess s s.issue.core va size read write cls with
    | .fails c => slotFail s c va
    | .untranslated => holdForWalk s va
    | .prepared p => holdForPrepared s p
    | .ordered => slotHold s
    | a => act a

/-- The core that runs the task of a slot of a launch. -/
def coreOfWho (s : State) (w : Who) : Option Nat :=
  (s.cores.find? (fun e => e.2.ctx == some w.ctx &&
    (match e.2.task with
     | some t => t.launch == w.launch && t.run == w.run && t.slot.getD mergedSlot == w.slot
     | none => false))).map (fun e => e.1)

/-- The spill area ran out under a write on behalf of `w`: SHADOW_FULL, raised by the L2 (R258, R259, Table 14.1). -/
def shadowFull (s : State) (w : Who) (addr : Nat) : State :=
  match coreOfWho s w with
  | some n => stageTrap s n .shadowFull 0 (getCore s n).ctl.pc addr
  | none => abortLaunch s w.ctx w.launch .shadowFull

/-- The state of a write, with its abort where the spill area ran out. -/
def orShadowFull (r : State × Bool) (w : Who) (addr : Nat) : State := if r.2 then shadowFull r.1 w addr else r.1

/-- Bytes stored by the issuing core to package memory (R245, R254). -/
def storeHere (s : State) (va place : Nat) (bytes : List Byte) : State :=
  let w := whoIs s s.issue.core
  orShadowFull (storeAt s (.core s.issue.core) w va place bytes) w va

/-! ## Ordered reductions (R157, R197, R242) -/

/-- The sequence named by (name, count) at a word, opened where none is. -/
def openSequence (s : State) (name count place : Nat) : Sequence :=
  (s.hw.seqs.find? (fun q => q.name == name && q.count == count && q.place == place)).getD
    { name := name, count := count, place := place, next := 0, held := [] }

/-- A sequence put back, or closed once its last contribution has been applied. -/
def putSequence (s : State) (q : Sequence) : State :=
  let rest := s.hw.seqs.filter (fun x => !(x.name == q.name && x.count == q.count && x.place == q.place))
  { s with hw := { s.hw with seqs := if q.count ≤ q.next then rest else rest ++ [q] } }

/-- A contribution from another package applied to its word, and its packet acknowledged (R242, R260). `mask` tells which
bytes go to the shadow. -/
def applyPeerContribution (s : State) (place : Nat) (k : Contribution) (p : Packet) : State :=
  let mask := ofBytes (p.payload.drop 26)
  let s1 := mergePartials s place 4
  let v := (addFp32 (ofBytes (peerRead s1 p place 4)) k.value).1
  ackPacket (peerWrite s1 k.ctx p place mask false (bytesOf 4 v)) p

/-- One contribution applied to its word: an FP32 addition written at the home, never merged (R242). -/
def applyContribution (s : State) (place : Nat) (k : Contribution) : State :=
  match k.reply with
  | some p => applyPeerContribution s place k p
  | none =>
    let w : Who := ⟨k.ctx, k.launch, k.run, k.slot⟩
    let s1 := mergePartials s place 4
    let v := (addFp32 (ofBytes (viewBytes s1 w place 4)) k.value).1
    orShadowFull (storeAt s1 .manager w k.va place (bytesOf 4 v)) w k.va

/-- The held contributions whose turn has come, in ordinal order. -/
def drainSequence : Nat → State → Sequence → State
  | 0, s, q => putSequence s q
  | fuel + 1, s, q =>
    match q.held.find? (fun k => decide (k.ordinal ≤ q.next)) with
    | none => putSequence s q
    | some k =>
      drainSequence fuel (applyContribution s q.place k)
        { q with next := if k.ordinal = q.next then q.next + 1 else q.next
                 held := q.held.eraseP (fun h => decide (h.ordinal ≤ q.next)) }

/-- A contribution arrives at its word: applied in its turn, held before it, and applied on arrival when its ordinal has
been applied already (R157). -/
def contribute (s : State) (name count place : Nat) (k : Contribution) : State :=
  let q := openSequence s name count place
  if k.ordinal < q.next then putSequence (applyContribution s place k) q
  else if k.ordinal = q.next then
    drainSequence q.held.length (applyContribution s place k) { q with next := q.next + 1 }
  else putSequence s { q with held := q.held ++ [k] }

/-- A contribution of a core's instruction takes its place among what the core does (R232). -/
def contributeFrom (s : State) (n name count place : Nat) (k : Contribution) : State :=
  follows (contribute (follows s .manager (.core n)) name count place k) (.core n) .manager

/-- The name of a sequence: the home of its address, or the address itself where it has none (R157, R197). -/
def sequenceName (s : State) (n va : Nat) : Nat :=
  match classify va with
  | some (.global, a) =>
    match xlatCtx s (ctxOfCore s n) a with
    | .pkg p _ _ => homeName s.link.node p
    | .remote tgt node addr _ _ => homeName (remoteNode tgt node) addr
    | _ => 2 ^ 80 + a
  | some (sp, off) => homeName s.link.node (localPlace n sp off)
  | none => 2 ^ 80 + va

/-- Bytes stored by the issuing core to a remote page, in runs of one entry kind (R239, R251). -/
def storeAway (s : State) (tgt node addr va : Nat) (bytes : List Byte) : State :=
  let n := s.issue.core
  let w := whoIs s n
  (cutKinds (fun i => byteKind s w (va + i)) 0 bytes).foldl (fun st c =>
    sendStore st n w (remoteNode tgt node) (addr + c.1) (va + c.1) c.2.1 none s.issue.slot (curCore s).ctl.pc c.2.2) s

/-- A reduction sent to a remote word (R239, R196): operation code as in Table 6.3, 0x18 for the ordered one, whose home always
learns its launch, which may have to withdraw it (R266). -/
def reduceAway (s : State) (tgt node addr va size op v ordinal count name : Nat) : State :=
  let n := s.issue.core
  let w := whoIs s n
  let mask := shadowMask s w va size
  sendWrite s n w 0x07 (remoteNode tgt node) addr va (if mask = 0 ∧ op ≠ 0x18 then 3 else 2) none s.issue.slot (curCore s).ctl.pc
    (reductionPayload op size v ordinal count name mask)

/-- A load request to the home of a remote page (R239): `id` is the pending result, `off` the place of its bytes there. -/
def requestLoad (s : State) (tgt node addr va size id off : Nat) (signed : Bool) (job : Option Nat) : State :=
  let n := s.issue.core
  let w := whoIs s n
  let tag := s.link.nextTag
  let s1 := sendPacket s (inView s w (memPacket s w.ctx 0x02 4 (remoteNode tgt node) addr tag 0 (List.replicate size 0)))
  openRequest s1 { tag := tag, kind := 0x02, ctx := w.ctx, core := n, id := id, off := off, size := size, signed := signed,
                   launch := w.launch, job := job, va := va, slot := s.issue.slot, bundle := (curCore s).ctl.pc, stamp := stampOf s w
                   home := some (homeName (remoteNode tgt node) addr) }

/-- A request to the remote home of a waiting doubleword, for the wait `id` of core n (R189): `what` the home does with `v`, the value
compared or the tag of an earlier request; a home that has performed the wait answers the requests that end it with no bytes (R186,
log entry 13). `off` is 0 for the wait itself, 1 for the
read that ends it at its deadline, and 2 for a save that gives it up (R186). -/
def requestMonitor (s : State) (n tgt node addr va id off what v slot bundle : Nat) : State :=
  let w := whoIs s n
  let tag := s.link.nextTag
  let s1 := sendPacket s { inView s w (memPacket s w.ctx 0x02 4 (remoteNode tgt node) addr tag 0 (bytesOf 8 v)) with wait := what }
  openRequest s1 { tag := tag, kind := 0x02, ctx := w.ctx, core := n, id := id, off := off, size := if off = 0 then 8 else 0, signed := false,
                   launch := w.launch, job := none, va := va, slot := slot, bundle := bundle, stamp := stampOf s w }

/-- Whether a place is core scratchpad or cluster memory, whose loads have a fixed latency (Table 3.5). -/
def placeLatency (p : Nat) : Option Nat :=
  if 2 ^ 42 ≤ p then some 4 else if 2 ^ 41 ≤ p then some 16 else none

end Sys2Proof.Machine
end

