-- ==== Sys2Proof/Machine/Control.lean ====
section
/-!
DEFINITION. The CTL slot (R93 to R107): the next bundle, branches, loops, waits, software traps and the end of work.
-/
namespace Sys2Proof.Machine

/-! ## Sequencing (R93) -/

/-- A word with an error goes with its copy when the copies of its engine are exchanged (R24, R338). -/
def CoreWord.exchanged (swaps : Nat → Bool) : CoreWord → CoreWord
  | .file (.shape e r f) => if swaps e then .active e r f else .file (.shape e r f)
  | .active e r f => if swaps e then .file (.shape e r f) else .active e r f
  | x => x

/-- The exchange of shape copies that the swap bits ask for: bit 2 VM, bit 1 MX, bit 0 ST (R24, R66). A step makes it
before any slot of the bundle reads its operands. -/
def swapShapes (s : State) (w : BitVec 3) : State :=
  if s.issue.swapped then s
  else
    let swaps := fun (e : Nat) => bitAt w.toNat (2 - e)
    modCur (modRegs s (fun g =>
      let g1 := if bitAt w.toNat 2 then g.swapShape 0 else g
      let g2 := if bitAt w.toNat 1 then g1.swapShape 1 else g1
      if bitAt w.toNat 0 then g2.swapShape 2 else g2)) (fun c => { c with bad := c.bad.map (CoreWord.exchanged swaps) })

/-- The end tests of NextBundle (R93): the bundle that a back-edge goes to, if one is taken, and the stack left. -/
def loopEnd (pc : Nat) : List LoopEntry → Option Nat × List LoopEntry
  | [] => (none, [])
  | e :: es =>
    if e.last ≠ pc then (none, e :: es)
    else if 1 < e.count then (some e.first, { e with count := e.count - 1 } :: es)
    else loopEnd pc es

/-- PopOutside (R93): entries whose body does not hold the target are popped. -/
def popOutside (target : Nat) : List LoopEntry → List LoopEntry
  | [] => []
  | e :: es => if e.first ≤ target ∧ target ≤ e.last then e :: es else popOutside target es

/-- The next bundle, the cycle in which it becomes eligible and the loop stack, set on the issuing core. -/
def setNext (s : State) (pc eligible : Nat) (stack : List LoopEntry) : State :=
  modCur s (fun c => { c with regs := { c.regs with loop := stack }, ctl := { c.ctl with pc := pc, eligible := eligible } })

/-- NextBundle for a bundle that transfers no control: the end tests, the stall count and the cycles of WAITC (R93). -/
def fallThrough (s : State) (stall wait : Nat) : State :=
  let c := curCore s
  let ends := if c.dev.inh then (none, c.regs.loop) else loopEnd c.ctl.pc c.regs.loop
  match ends.1 with
  | some first => setNext s first (c.now + 1 + stall) ends.2
  | none => setNext s (c.ctl.pc + 1) (c.now + 1 + stall + wait) ends.2

/-- A transfer of control with its idle cycle (R79, R93); BR, BRP and JMP pop the entries that the target leaves. -/
def transferTo (s : State) (target stall : Nat) (pop : Bool) : State :=
  let c := curCore s
  setNext s target (c.now + 2 + stall) (if pop then popOutside target c.regs.loop else c.regs.loop)

/-- pc + SignExtend(OFF) (R94). -/
def targetOf (pc n : Nat) (off : BitVec n) : Int := (pc : Int) + off.toInt

/-- A target inside the scratchpad (R94). -/
def targetOk (t : Int) : Bool := decide (0 ≤ t) && decide (t ≤ 4095)

/-- What LOOP and LOOPI need of the stack and the status (R98). -/
def loopOk (c : Core) (len : Nat) : Bool :=
  decide (c.ctl.pc + len ≤ 4095) && decide (c.regs.loop.length < 4) && !c.dev.inh &&
    (match c.regs.loop with
     | e :: _ => decide (e.last ≠ c.ctl.pc)
     | [] => true)

/-- The launch mode of a core's task: 0 grid, 1 graph, 2 persistent. -/
def Core.mode (c : Core) : Nat := (c.task.map (fun t => t.mode)).getD 0

/-- The ILLEGAL conditions of a CTL word that depend on pc, the stack or the status, decided at fetch (R94, R98, R102, R104,
R106, R107). -/
def ctlIllegal (c : Core) : Instr → Bool
  | .br _ _ _ _ f => !targetOk (targetOf c.ctl.pc 13 f)
  | .brp _ _ _ _ _ f => !targetOk (targetOf c.ctl.pc 15 f)
  | .jmp _ _ f => !targetOk (targetOf c.ctl.pc 21 f)
  | .call _ _ f => !targetOk (targetOf c.ctl.pc 21 f)
  | .loop _ _ _ l => !loopOk c l.toNat
  | .loopi _ _ _ l => !loopOk c l.toNat
  | .trap _ _ _ => c.ctl.pc == 4095
  | .brk _ _ _ => c.ctl.pc == 4095
  | .eret _ _ => !c.dev.inh
  | .done _ _ => c.dev.inh
  | .halt _ _ => c.dev.inh || c.mode != 2
  | _ => false

/-- A CTL meaning guarded by its fetch-time conditions. -/
def ctlGuard (s : State) (i : Instr) (w : BitVec 3) (f : State → State) : Out :=
  if ctlIllegal (curCore s) i then .next (slotFail s .illegal 0) else .next (f (swapShapes s w))

/-! ## Meanings -/

/-- NEXT (R105). -/
def execNext (st : BitVec 4) (w : BitVec 3) (s : State) : Out :=
  .next (fallThrough (swapShapes s w) st.toNat 0)

/-- BR's condition (R95). -/
def brTaken (cond : Nat) (x : Word) : Bool :=
  match cond with
  | 0 => x == 0
  | 1 => x != 0
  | 2 => decide (x.toInt < 0)
  | 3 => decide (0 ≤ x.toInt)
  | 4 => decide (0 < x.toInt)
  | _ => decide (x.toInt ≤ 0)

/-- BR (R95). -/
def execBr (st : BitVec 4) (w : BitVec 3) (c : BitVec 3) (x : BitVec 5) (f : BitVec 13) (s : State) : Out :=
  ctlGuard s (.br st w c x f) w (fun s1 =>
    if brTaken c.toNat (rx s1 x.toNat) then transferTo s1 (targetOf (curCore s1).ctl.pc 13 f).toNat st.toNat true
    else fallThrough s1 st.toNat 0)

/-- BRP's condition (R96). -/
def brpTaken (mode : Nat) (p : Pred) : Bool :=
  match mode with
  | 0 => p != 0
  | 1 => p == allBytes
  | 2 => p == 0
  | _ => p != allBytes

/-- BRP (R96). -/
def execBrp (st : BitVec 4) (w : BitVec 3) (k : BitVec 1) (p : BitVec 3) (m : BitVec 2) (f : BitVec 15) (s : State) : Out :=
  ctlGuard s (.brp st w k p m f) w (fun s1 =>
    if brpTaken m.toNat ((curCore s1).regs.readP (k == 1) p.toNat) then
      transferTo s1 (targetOf (curCore s1).ctl.pc 15 f).toNat st.toNat true
    else fallThrough s1 st.toNat 0)

/-- JMP (R97). -/
def execJmp (st : BitVec 4) (w : BitVec 3) (f : BitVec 21) (s : State) : Out :=
  ctlGuard s (.jmp st w f) w (fun s1 => transferTo s1 (targetOf (curCore s1).ctl.pc 21 f).toNat st.toNat true)

/-- CALL (R97): x1 := pc + 1, latency 1; the stack is unchanged (R93). -/
def execCall (st : BitVec 4) (w : BitVec 3) (f : BitVec 21) (s : State) : Out :=
  ctlGuard s (.call st w f) w (fun s1 =>
    let pc := (curCore s1).ctl.pc
    transferTo (postX s1 1 1 (BitVec.ofNat 64 (pc + 1))) (targetOf pc 21 f).toNat st.toNat false)

/-- JMPX (R97): ALIGN when bits 63:12 are not zero. -/
def execJmpx (st : BitVec 4) (w : BitVec 3) (x : BitVec 5) (s : State) : Out :=
  if 4096 ≤ (rx s x.toNat).toNat then .next (slotFail s .align 0)
  else .next (transferTo (swapShapes s w) (rx s x.toNat).toNat st.toNat false)

/-- LOOP (R98): a count of 0 skips the body. -/
def execLoop (st : BitVec 4) (w : BitVec 3) (x : BitVec 5) (l : BitVec 12) (s : State) : Out :=
  ctlGuard s (.loop st w x l) w (fun s1 =>
    let c := curCore s1
    let n := (rx s1 x.toNat).toNat
    if n = 0 then transferTo s1 (c.ctl.pc + l.toNat + 1) st.toNat false
    else fallThrough (modRegs s1 (fun g => { g with loop := ⟨c.ctl.pc + 1, c.ctl.pc + l.toNat, n⟩ :: g.loop })) st.toNat 0)

/-- LOOPI (R98). -/
def execLoopi (st : BitVec 4) (w : BitVec 3) (n : BitVec 12) (l : BitVec 9) (s : State) : Out :=
  ctlGuard s (.loopi st w n l) w (fun s1 =>
    let c := curCore s1
    fallThrough (modRegs s1 (fun g =>
      { g with loop := ⟨c.ctl.pc + 1, c.ctl.pc + l.toNat, n.toNat⟩ :: g.loop })) st.toNat 0)

/-- WAITC (R100): the next bundle is held n cycles beyond the stall count, but for a back-edge (R93). -/
def execWaitc (st : BitVec 4) (w : BitVec 3) (n : BitVec 21) (s : State) : Out :=
  let s1 := fallThrough (swapShapes s w) st.toNat n.toNat
  .next (modCur s1 (fun c => { c with ctl := { c.ctl with wait := some c.ctl.eligible } }))

/-- A software trap after its bundle has committed (R102): the resume point is the bundle that R93 chose next. -/
def softwareTrap (s : State) (cause : Cause) (stall code : Nat) : State :=
  let pc := (curCore s).ctl.pc
  let s1 := fallThrough s stall 0
  takeTrap s1 s1.issue.core cause 1 pc code (curCore s1).ctl.pc

/-- TRAP (R102): cause SWTRAP. -/
def execTrap (st : BitVec 4) (w : BitVec 3) (c : BitVec 16) (s : State) : Out :=
  ctlGuard s (.trap st w c) w (fun s1 => softwareTrap s1 .swtrap st.toNat c.toNat)

/-- ERET (R104). -/
def execEret (st : BitVec 4) (w : BitVec 3) (s : State) : Out :=
  ctlGuard s (.eret st w) w (fun s1 => returnFromTrap s1 s1.issue.core st.toNat)

/-- The task issues nothing more and drains; the loop stack is emptied (R99, R106). -/
def endTask (s : State) (halt : Bool) : State :=
  modCur s (fun c =>
    { c with regs := { c.regs with loop := [] }, task := c.task.map (fun t => { t with phase := .ending halt })
             ctl := { c.ctl with pc := c.ctl.pc + 1, eligible := c.now + 1 } })

/-- DONE (R106); in a persistent launch it ends the resident program as HALT does. -/
def execDone (st : BitVec 4) (w : BitVec 3) (s : State) : Out :=
  ctlGuard s (.done st w) w (fun s1 => endTask s1 ((curCore s1).mode == 2))

/-- HALT (R107). -/
def execHalt (st : BitVec 4) (w : BitVec 3) (s : State) : Out :=
  ctlGuard s (.halt st w) w (fun s1 => endTask s1 true)

/-- BRK (R102): cause BREAK. -/
def execBrk (st : BitVec 4) (w : BitVec 3) (c : BitVec 16) (s : State) : Out :=
  ctlGuard s (.brk st w c) w (fun s1 => softwareTrap s1 .brk st.toNat c.toNat)

/-- An instruction region is valid with the running kernel's tag (R42, R101). -/
def regionReady (c : Core) (region : Nat) : Bool :=
  match spFind c.imem.tags region, c.task with
  | some tag, some t => tag == t.codeTag
  | _, _ => false

/-- IWAIT (R101): held until the region is valid. -/
def execIwait (st : BitVec 4) (w : BitVec 3) (g : BitVec 12) (s : State) : Out :=
  if regionReady (curCore s) g.toNat then .next (fallThrough (swapShapes s w) st.toNat 0)
  else .next (slotHold s)

/-- WAITC_EXPIRE (R100): the wait has run out. -/
def execWaitcExpire (core : Nat) (s : State) : Out :=
  .next (modCtl s core (fun k =>
    match k.wait with
    | some d => if d ≤ (getCore s core).now then { k with wait := none } else k
    | none => k))

end Sys2Proof.Machine
end

