-- ==== Sys2Proof/Machine/Scalar.lean ====
section
/-!
DEFINITION. The accepted base instructions of the scalar slots (R108 to R111): RV64IM on x0 to x31 with the latencies of
Table 4.3. Operands are read at issue, before any result of the bundle lands (R80).
-/
namespace Sys2Proof.Machine

/-! ## Operand forms -/

/-- A 32-bit result of a W form, sign-extended (R108). -/
def wordResult (v : BitVec 32) : Word := v.signExtend 64

/-- The low word of a register (R108). -/
def low32 (v : Word) : BitVec 32 := v.setWidth 32

/-- The shift amount in a register: its low 6 bits (R108). -/
def shamt6 (v : Word) : Nat := v.toNat % 64

/-- The shift amount of a W form: the low 5 bits (R108). -/
def shamt5 (v : Word) : Nat := v.toNat % 32

/-- 1 or 0 as a register value. -/
def boolWord (b : Bool) : Word := if b then 1 else 0

/-- Signed division: by zero all ones; the overflow gives the dividend (R109). -/
def divS {n : Nat} (x y : BitVec n) : BitVec n := if y = 0 then BitVec.allOnes n else x.sdiv y

/-- Unsigned division (R109). -/
def divU {n : Nat} (x y : BitVec n) : BitVec n := if y = 0 then BitVec.allOnes n else x / y

/-- Signed remainder: by zero the dividend; the overflow gives 0 (R109). -/
def remS {n : Nat} (x y : BitVec n) : BitVec n := if y = 0 then x else x.srem y

/-- Unsigned remainder (R109). -/
def remU {n : Nat} (x y : BitVec n) : BitVec n := if y = 0 then x else x % y

/-- Bits 127:64 of a product. -/
def highProduct (p : Int) : Word := BitVec.ofInt 64 (p / ((2 ^ 64 : Nat) : Int))

/-- A register-immediate result (R108). -/
def regImm (s : State) (f : Word → Word → Word) (i : BitVec 12) (rs rd : BitVec 5) (latency : Nat) : Out :=
  .next (postX s rd.toNat latency (f (rx s rs.toNat) (i.signExtend 64)))

/-- A register-register result (R108, R109). -/
def regReg (s : State) (f : Word → Word → Word) (rt rs rd : BitVec 5) (latency : Nat) : Out :=
  .next (postX s rd.toNat latency (f (rx s rs.toNat) (rx s rt.toNat)))

/-- A shift by an immediate (R108). -/
def shiftImm (s : State) (f : Word → Nat → Word) (h : Nat) (rs rd : BitVec 5) : Out :=
  .next (postX s rd.toNat 1 (f (rx s rs.toNat) h))

/-! ## Loads and stores (R110, R111) -/

/-- x[rs1] + SignExtend(imm) modulo 2^64 (R110). -/
def scalarAddr (s : State) (rs : BitVec 5) (imm : BitVec 12) : Nat := (rx s rs.toNat + imm.signExtend 64).toNat

/-- A loaded value as LB to LWU leave it in a register. -/
def extendLoad (size : Nat) (signed : Bool) (v : Nat) : Word :=
  if signed then sext64 (8 * size) v else BitVec.ofNat 64 v

/-- A scalar load performed on package memory (R110, R231, Table 3.5). -/
def loadHere (s : State) (place size : Nat) (signed : Bool) (rd : Nat) : State :=
  let n := s.issue.core
  let (s1, bytes) := coreRead s n (whoIs s n) place size
  let v := extendLoad size signed (ofBytes bytes)
  match placeLatency place with
  | some l => postX s1 rd l v
  | none => postInterlocked s1 (destX rd) 0 (.x rd v)

/-- A scalar load of a remote page: interlocked on its answer (R239). -/
def loadAway (s : State) (tgt node addr va size : Nat) (signed : Bool) (rd : Nat) : State :=
  let id := freshId s
  requestLoad (postInterlocked s (destX rd) 1 (.x rd 0)) tgt node addr va size id 0 signed none

/-- A scalar load with its checks (R110) and the wait of R111. -/
def scalarLoad (s : State) (va size : Nat) (signed : Bool) (rd : Nat) : State :=
  onceFree s va size true false 0 (fun a =>
    match a with
    | .here p => loadHere s p size signed rd
    | .away tgt node addr => loadAway s tgt node addr va size signed rd
    | _ => s)

/-- A scalar store with its checks (R110) and the wait of R111. -/
def scalarStore (s : State) (va size : Nat) (v : Word) : State :=
  onceFree s va size false true 0 (fun a =>
    match a with
    | .here p => storeHere s va p (bytesOf size v.toNat)
    | .away tgt node addr => storeAway s tgt node addr va (bytesOf size v.toNat)
    | _ => s)

/-! ## Meanings -/

/-- SCALAR_NOP (R65): the all-zero word of SA and SB. -/
def execScalarNop (s : State) : Out := .next s

/-- LUI (R108). -/
def execLui (i : BitVec 20) (d : BitVec 5) (s : State) : Out :=
  .next (postX s d.toNat 1 (wordResult (i ++ (0 : BitVec 12))))

/-- ADDI (R108). -/
def execAddi (i : BitVec 12) (rs rd : BitVec 5) (s : State) : Out := regImm s (fun a b => a + b) i rs rd 1

/-- SLTI (R108). -/
def execSlti (i : BitVec 12) (rs rd : BitVec 5) (s : State) : Out := regImm s (fun a b => boolWord (decide (a.toInt < b.toInt))) i rs rd 1

/-- SLTIU (R108). -/
def execSltiu (i : BitVec 12) (rs rd : BitVec 5) (s : State) : Out := regImm s (fun a b => boolWord (decide (a.toNat < b.toNat))) i rs rd 1

/-- XORI (R108). -/
def execXori (i : BitVec 12) (rs rd : BitVec 5) (s : State) : Out := regImm s (fun a b => a ^^^ b) i rs rd 1

/-- ORI (R108). -/
def execOri (i : BitVec 12) (rs rd : BitVec 5) (s : State) : Out := regImm s (fun a b => a ||| b) i rs rd 1

/-- ANDI (R108). -/
def execAndi (i : BitVec 12) (rs rd : BitVec 5) (s : State) : Out := regImm s (fun a b => a &&& b) i rs rd 1

/-- ADDIW (R108). -/
def execAddiw (i : BitVec 12) (rs rd : BitVec 5) (s : State) : Out := regImm s (fun a b => wordResult (low32 a + low32 b)) i rs rd 1

/-- SLLI (R108). -/
def execSlli (h : BitVec 6) (rs rd : BitVec 5) (s : State) : Out := shiftImm s (fun a h => a <<< h) h.toNat rs rd

/-- SRLI (R108). -/
def execSrli (h : BitVec 6) (rs rd : BitVec 5) (s : State) : Out := shiftImm s (fun a h => a >>> h) h.toNat rs rd

/-- SRAI (R108). -/
def execSrai (h : BitVec 6) (rs rd : BitVec 5) (s : State) : Out := shiftImm s (fun a h => a.sshiftRight h) h.toNat rs rd

/-- SLLIW (R108). -/
def execSlliw (h : BitVec 5) (rs rd : BitVec 5) (s : State) : Out := shiftImm s (fun a h => wordResult (low32 a <<< h)) h.toNat rs rd

/-- SRLIW (R108). -/
def execSrliw (h : BitVec 5) (rs rd : BitVec 5) (s : State) : Out := shiftImm s (fun a h => wordResult (low32 a >>> h)) h.toNat rs rd

/-- SRAIW (R108). -/
def execSraiw (h : BitVec 5) (rs rd : BitVec 5) (s : State) : Out := shiftImm s (fun a h => wordResult ((low32 a).sshiftRight h)) h.toNat rs rd

/-- ADD (R108). -/
def execAdd (rt rs rd : BitVec 5) (s : State) : Out := regReg s (fun a b => a + b) rt rs rd 1

/-- SUB (R108). -/
def execSub (rt rs rd : BitVec 5) (s : State) : Out := regReg s (fun a b => a - b) rt rs rd 1

/-- SLL (R108). -/
def execSll (rt rs rd : BitVec 5) (s : State) : Out := regReg s (fun a b => a <<< shamt6 b) rt rs rd 1

/-- SLT (R108). -/
def execSlt (rt rs rd : BitVec 5) (s : State) : Out := regReg s (fun a b => boolWord (decide (a.toInt < b.toInt))) rt rs rd 1

/-- SLTU (R108). -/
def execSltu (rt rs rd : BitVec 5) (s : State) : Out := regReg s (fun a b => boolWord (decide (a.toNat < b.toNat))) rt rs rd 1

/-- XOR (R108). -/
def execXor (rt rs rd : BitVec 5) (s : State) : Out := regReg s (fun a b => a ^^^ b) rt rs rd 1

/-- SRL (R108). -/
def execSrl (rt rs rd : BitVec 5) (s : State) : Out := regReg s (fun a b => a >>> shamt6 b) rt rs rd 1

/-- SRA (R108). -/
def execSra (rt rs rd : BitVec 5) (s : State) : Out := regReg s (fun a b => a.sshiftRight (shamt6 b)) rt rs rd 1

/-- OR (R108). -/
def execOr (rt rs rd : BitVec 5) (s : State) : Out := regReg s (fun a b => a ||| b) rt rs rd 1

/-- AND (R108). -/
def execAnd (rt rs rd : BitVec 5) (s : State) : Out := regReg s (fun a b => a &&& b) rt rs rd 1

/-- MUL (R108). -/
def execMul (rt rs rd : BitVec 5) (s : State) : Out := regReg s (fun a b => a * b) rt rs rd 3

/-- MULH (R108). -/
def execMulh (rt rs rd : BitVec 5) (s : State) : Out := regReg s (fun a b => highProduct (a.toInt * b.toInt)) rt rs rd 3

/-- MULHSU (R108). -/
def execMulhsu (rt rs rd : BitVec 5) (s : State) : Out := regReg s (fun a b => highProduct (a.toInt * (b.toNat : Int))) rt rs rd 3

/-- MULHU (R108). -/
def execMulhu (rt rs rd : BitVec 5) (s : State) : Out := regReg s (fun a b => highProduct ((a.toNat : Int) * (b.toNat : Int))) rt rs rd 3

/-- DIV (R109). -/
def execDiv (rt rs rd : BitVec 5) (s : State) : Out := regReg s (divS) rt rs rd 20

/-- DIVU (R109). -/
def execDivu (rt rs rd : BitVec 5) (s : State) : Out := regReg s (divU) rt rs rd 20

/-- REM (R109). -/
def execRem (rt rs rd : BitVec 5) (s : State) : Out := regReg s (remS) rt rs rd 20

/-- REMU (R109). -/
def execRemu (rt rs rd : BitVec 5) (s : State) : Out := regReg s (remU) rt rs rd 20

/-- ADDW (R108). -/
def execAddw (rt rs rd : BitVec 5) (s : State) : Out := regReg s (fun a b => wordResult (low32 a + low32 b)) rt rs rd 1

/-- SUBW (R108). -/
def execSubw (rt rs rd : BitVec 5) (s : State) : Out := regReg s (fun a b => wordResult (low32 a - low32 b)) rt rs rd 1

/-- SLLW (R108). -/
def execSllw (rt rs rd : BitVec 5) (s : State) : Out := regReg s (fun a b => wordResult (low32 a <<< shamt5 b)) rt rs rd 1

/-- SRLW (R108). -/
def execSrlw (rt rs rd : BitVec 5) (s : State) : Out := regReg s (fun a b => wordResult (low32 a >>> shamt5 b)) rt rs rd 1

/-- SRAW (R108). -/
def execSraw (rt rs rd : BitVec 5) (s : State) : Out := regReg s (fun a b => wordResult ((low32 a).sshiftRight (shamt5 b))) rt rs rd 1

/-- MULW (R108). -/
def execMulw (rt rs rd : BitVec 5) (s : State) : Out := regReg s (fun a b => wordResult (low32 a * low32 b)) rt rs rd 3

/-- DIVW (R109). -/
def execDivw (rt rs rd : BitVec 5) (s : State) : Out := regReg s (fun a b => wordResult (divS (low32 a) (low32 b))) rt rs rd 20

/-- DIVUW (R109). -/
def execDivuw (rt rs rd : BitVec 5) (s : State) : Out := regReg s (fun a b => wordResult (divU (low32 a) (low32 b))) rt rs rd 20

/-- REMW (R109). -/
def execRemw (rt rs rd : BitVec 5) (s : State) : Out := regReg s (fun a b => wordResult (remS (low32 a) (low32 b))) rt rs rd 20

/-- REMUW (R109). -/
def execRemuw (rt rs rd : BitVec 5) (s : State) : Out := regReg s (fun a b => wordResult (remU (low32 a) (low32 b))) rt rs rd 20

/-- LB (R110). -/
def execLb (i : BitVec 12) (rs rd : BitVec 5) (s : State) : Out :=
  .next (scalarLoad s (scalarAddr s rs i) 1 true rd.toNat)

/-- LH (R110). -/
def execLh (i : BitVec 12) (rs rd : BitVec 5) (s : State) : Out :=
  .next (scalarLoad s (scalarAddr s rs i) 2 true rd.toNat)

/-- LW (R110). -/
def execLw (i : BitVec 12) (rs rd : BitVec 5) (s : State) : Out :=
  .next (scalarLoad s (scalarAddr s rs i) 4 true rd.toNat)

/-- LD (R110). -/
def execLd (i : BitVec 12) (rs rd : BitVec 5) (s : State) : Out :=
  .next (scalarLoad s (scalarAddr s rs i) 8 true rd.toNat)

/-- LBU (R110). -/
def execLbu (i : BitVec 12) (rs rd : BitVec 5) (s : State) : Out :=
  .next (scalarLoad s (scalarAddr s rs i) 1 false rd.toNat)

/-- LHU (R110). -/
def execLhu (i : BitVec 12) (rs rd : BitVec 5) (s : State) : Out :=
  .next (scalarLoad s (scalarAddr s rs i) 2 false rd.toNat)

/-- LWU (R110). -/
def execLwu (i : BitVec 12) (rs rd : BitVec 5) (s : State) : Out :=
  .next (scalarLoad s (scalarAddr s rs i) 4 false rd.toNat)

/-- SB (R110): `i` holds imm[11:5] and `j` imm[4:0]. -/
def execSb (i : BitVec 7) (rt rs : BitVec 5) (j : BitVec 5) (s : State) : Out :=
  .next (scalarStore s (scalarAddr s rs (i ++ j)) 1 (rx s rt.toNat))

/-- SH (R110): `i` holds imm[11:5] and `j` imm[4:0]. -/
def execSh (i : BitVec 7) (rt rs : BitVec 5) (j : BitVec 5) (s : State) : Out :=
  .next (scalarStore s (scalarAddr s rs (i ++ j)) 2 (rx s rt.toNat))

/-- SW (R110): `i` holds imm[11:5] and `j` imm[4:0]. -/
def execSw (i : BitVec 7) (rt rs : BitVec 5) (j : BitVec 5) (s : State) : Out :=
  .next (scalarStore s (scalarAddr s rs (i ++ j)) 4 (rx s rt.toNat))

/-- SD (R110): `i` holds imm[11:5] and `j` imm[4:0]. -/
def execSd (i : BitVec 7) (rt rs : BitVec 5) (j : BitVec 5) (s : State) : Out :=
  .next (scalarStore s (scalarAddr s rs (i ++ j)) 8 (rx s rt.toNat))

end Sys2Proof.Machine
end

