-- ==== Sys2Proof/Machine/DevScalar.lean ====
section
/-!
DEFINITION. The device scalar instructions of custom-0 (R112 to R116): shape registers, buffer records, device registers, bit
counts and scalar spills.
-/
namespace Sys2Proof.Machine

/-! ## Shape registers (R112) -/

/-- SHW: the shadow copy of a field takes x[xs][31:0] at issue + 1 (R112, R24). -/
def execShw (e r f : BitVec 2) (rs : BitVec 5) (s : State) : Out :=
  .next (postFixed s (some (.shape e.toNat r.toNat f.toNat)) 1 0
    (.shape e.toNat r.toNat f.toNat ((rx s rs.toNat).setWidth 32)))

/-- SHR: the active copy of a field, zero-extended, latency 2 (R112). -/
def execShr (e r f : BitVec 2) (rd : BitVec 5) (s : State) : Out :=
  .next (postX s rd.toNat 2 (((curCore s).regs.readShape e.toNat r.toNat f.toNat).setWidth 64))

/-! ## Buffer records (R113) -/

/-- BRLD's load once checked: record and address land interlocked (R113, R26). -/
def recordLoad (s : State) (n va : Nat) (a : Access) : State :=
  match a with
  | .here p =>
    let (s1, bytes) := coreRead s s.issue.core (whoIs s s.issue.core) p 32
    postInterlocked s1 (some (.record n)) 0 (.record n (BitVec.ofNat 256 (ofBytes bytes)) va)
  | .away tgt node addr =>
    let id := freshId s
    requestLoad (postInterlocked s (some (.record n)) 1 (.record n 0 va)) tgt node addr va 32 id 0 false none
  | _ => s

/-- BRLD (R113). -/
def execBrld (b : BitVec 6) (rs : BitVec 5) (s : State) : Out :=
  let va := (rx s rs.toNat).toNat
  .next (onceFree s va 32 true false 0 (recordLoad s b.toNat va))

/-- BRST (R113). -/
def execBrst (b : BitVec 6) (rs : BitVec 5) (s : State) : Out :=
  let va := (rx s rs.toNat).toNat
  let bytes := bytesOf 32 ((curCore s).regs.readRec b.toNat).toNat
  .next (onceFree s va 32 false true 0 (fun a =>
    match a with
    | .here p => storeHere s va p bytes
    | .away tgt node addr => storeAway s tgt node addr va bytes
    | _ => s))

/-! ## Device registers (R33 to R36, R114) -/

/-- DSTAT (Table 1.6). -/
def dstat (c : Core) : Nat :=
  256 * ofBool ((c.task.map (fun t => t.exact)).getD false) + 4 * c.regs.loop.length + 2 * ofBool c.dev.inh +
    ofBool c.dev.wtoBit

/-- DQn (Table 1.4). -/
def ringStatus (r : Ring) : Nat := r.filled % 2 ^ 16 + 2 ^ 16 * (r.free % 2 ^ 16) + 2 ^ 32 * (r.cap % 2 ^ 16)

/-- The value of a device register at issue (Table 1.5). -/
def deviceRead (s : State) (n i : Nat) : Word :=
  let c := getCore s n
  let x := ctxOfCore s n
  match i with
  | 0x000 => BitVec.ofNat 64 (dstat c)
  | 0x001 => c.dev.ctl
  | 0x002 => c.dev.dcyc
  | 0x003 => BitVec.ofNat 64 x.rank
  | 0x004 => BitVec.ofNat 64 x.nranks
  | 0x006 => BitVec.ofNat 64 ((c.task.map (fun t => t.launch)).getD 0)
  | 0x007 => c.dev.task
  | 0x008 => c.dev.est
  | 0x009 => c.dev.wto
  | 0x00A => c.dev.flags.setWidth 64
  | 0x010 => BitVec.ofNat 64 (x.key0 % 2 ^ 32)
  | 0x011 => BitVec.ofNat 64 (x.key1 % 2 ^ 32)
  | 0x012 => c.dev.rngc
  | 0x013 => c.dev.rngh
  | 0x020 => c.dev.tvec
  | 0x021 => c.dev.tcause
  | 0x022 => c.dev.tmask
  | 0x023 => c.dev.tbundle
  | 0x024 => c.dev.taddr
  | 0x025 => c.dev.tsave
  | 0x026 => BitVec.ofNat 64 c.lwb.length
  | 0x040 => BitVec.ofNat 64 n
  | _ => if 0x030 ≤ i ∧ i ≤ 0x03F then BitVec.ofNat 64 (ringStatus (c.regs.ring (i - 0x030))) else 0

/-- GETD, latency 2 (R114): the index is funct7 above xt. -/
def execGetd (i : BitVec 7) (j rd : BitVec 5) (s : State) : Out :=
  .next (postX s rd.toNat 2 (deviceRead s s.issue.core (32 * i.toNat + j.toNat)))

/-- SETD: takes effect at issue + 1 (R33, R114). -/
def execSetd (i : BitVec 7) (j rs : BitVec 5) (s : State) : Out :=
  let k := 32 * i.toNat + j.toNat
  .next (postFixed s (some (.dev k)) 1 0 (.dev k (rx s rs.toNat)))

/-! ## Bit counts (R115) -/

/-- CLZ (R115). -/
def execClz (rs rd : BitVec 5) (s : State) : Out := .next (postX s rd.toNat 1 (BitVec.ofNat 64 (clzFrom 64 (rx s rs.toNat).toNat)))

/-- CTZ (R115). -/
def execCtz (rs rd : BitVec 5) (s : State) : Out := .next (postX s rd.toNat 1 (BitVec.ofNat 64 (ctzFrom 64 (rx s rs.toNat).toNat)))

/-- POPC (R115). -/
def execPopc (rs rd : BitVec 5) (s : State) : Out := .next (postX s rd.toNat 1 (BitVec.ofNat 64 (popcount 64 (rx s rs.toNat).toNat)))

/-! ## Scalar spills (R116, R29) -/

/-- SPILLX: the slot's value lands at the end of the issue cycle. -/
def execSpillx (h : BitVec 5) (l : BitVec 3) (rs : BitVec 5) (s : State) : Out :=
  let k := 8 * h.toNat + l.toNat
  .next (postFixed s (some (.spillX k)) 1 0 (.spillX k (rx s rs.toNat)))

/-- FILLX: the slot's value as it stands at issue, latency 1. -/
def execFillx (h : BitVec 5) (l : BitVec 3) (rd : BitVec 5) (s : State) : Out :=
  .next (postX s rd.toNat 1 (spGet 0 (curCore s).loc.spillX (8 * h.toNat + l.toNat)))

end Sys2Proof.Machine
end

