-- ==== Sys2Proof/Machine/Special.lean ====
section
/-!
DEFINITION. Special functions (R57, Table 2.6) and the Philox generator (R58 to R60).
The functions are computed in fixed point with 640 fraction bits and a sticky bit, which decides every FP32 rounding
(DEDUCED; log entry 12).
-/
namespace Sys2Proof.Machine

/-- The fraction bits of the fixed-point computations. -/
def fixP : Nat := 640

/-- ln 2 with `fixP` fraction bits. -/
def fixLn2 : Nat :=
  0xb17217f7d1cf79abc9e3b39803f2f6af40f343267298b62d8a0d175b8baafa2be7b876206debac98559552fb4afa1b10ed2eae35c138214427573b291169b8253e96ca16224ae8c51acbda11317c387e

/-- 1 / ln 2 with `fixP` fraction bits. -/
def fixInvLn2 : Nat :=
  0x171547652b82fe1777d0ffda0d23a7d11d6aef551bad2b4b1164a2cd9a342648fbc3887eeaa2ed9ac49b25eeb82d7c167d52173cc1895213f897f5e06a7be73665fc529264c2fb3ab643687aaf3ab440c

/-- 2 / sqrt π with `fixP` fraction bits. -/
def fixTwoOverSqrtPi : Nat :=
  0x120dd750429b6d11ae3a914fed7fd8688281341d7587cea2e7342b06199cc416180eb39f0b24e1e2281806c12d98f35d77a3e9ddc91c394f0e9eedf0efffd84a2a4ac3b98489b8cbd3845e8fef6ff6af9

/-- Taylor terms of the exponential: `expLoop fuel k term t acc`. -/
def expLoop : Nat → Nat → Nat → Nat → Nat → Nat
  | 0, _, _, _, acc => acc
  | n + 1, k, term, t, acc =>
    let next := term * t / 2 ^ fixP / k
    if next = 0 then acc else expLoop n (k + 1) next t (acc + next)

/-- 2^f for a fraction f below 1, both with `fixP` fraction bits. -/
def pow2Frac (f : Nat) : Nat := expLoop 160 1 (2 ^ fixP) (f * fixLn2 / 2 ^ fixP) (2 ^ fixP)

/-- Terms of the inverse hyperbolic tangent: `atanhLoop fuel j power square acc`. -/
def atanhLoop : Nat → Nat → Nat → Nat → Nat → Nat
  | 0, _, _, _, acc => acc
  | n + 1, j, p, z2, acc =>
    if p = 0 then acc else atanhLoop n (j + 2) (p * z2 / 2 ^ fixP) z2 (acc + p / j)

/-- Terms of erf: sum of 2^n x^(2n+1) / (2n+1)!!. -/
def erfLoop : Nat → Nat → Nat → Nat → Nat → Nat
  | 0, _, _, _, acc => acc
  | n + 1, j, term, x2, acc =>
    if term = 0 then acc else erfLoop n (j + 2) (term * x2 * 2 / 2 ^ fixP / (j + 2)) x2 (acc + term)

/-- A fixed-point magnitude with a sticky bit as a value. -/
def fixVal (neg : Bool) (x : Nat) : Val := .fin neg (2 * x + 1) (-(fixP : Int) - 1)

/-- A magnitude m × 2^e with `fixP` fraction bits, exact for the operands of FP32. -/
def toFix (m : Nat) (e : Int) : Nat := (roundUnits 1 false m e (-(fixP : Int)) 0).1

/-- 2^x for a finite x = ±m × 2^e with m ≠ 0. -/
def exp2Finite (neg : Bool) (m : Nat) (e : Int) : Val :=
  if 12 ≤ (log2 m : Int) + e then .fin false 1 (if neg then -4096 else 4096)
  else
    let y : Int := if neg then -(toFix m e : Int) else toFix m e
    let fl := y / ((2 ^ fixP : Nat) : Int)
    let fr := (y % ((2 ^ fixP : Nat) : Int)).toNat
    if fr = 0 then .fin false 1 fl else .fin false (2 * pow2Frac fr + 1) (fl - fixP - 1)

/-- log2 of m × 2^e with m ≠ 0. -/
def log2Finite (m : Nat) (e : Int) : Val :=
  let k := log2 m
  if m = 2 ^ k then valOfInt (e + k)
  else
    let z := (m - 2 ^ k) * 2 ^ fixP / (m + 2 ^ k)
    let l := 2 * atanhLoop 220 1 z (z * z / 2 ^ fixP) 0 * fixInvLn2 / 2 ^ fixP
    let s : Int := (e + k) * ((2 ^ fixP : Nat) : Int) + l
    fixVal (decide (s < 0)) s.natAbs

/-- 1 / (m × 2^e) with m ≠ 0. -/
def rcpFinite (neg : Bool) (m : Nat) (e : Int) : Val :=
  let k := log2 m + 80
  .fin neg (2 * (2 ^ k / m) + ofBool (decide (2 ^ k % m ≠ 0))) (-(k : Int) - e - 1)

/-- The mantissa and exponent with the exponent made even. -/
def evenExponent (m : Nat) (e : Int) : Nat × Int := if e % 2 = 0 then (m, e) else (2 * m, e - 1)

/-- The square root of m × 2^e. -/
def sqrtFinite (m : Nat) (e : Int) : Val :=
  let (m', e') := evenExponent m e
  let n := m' * 2 ^ 160
  let r := isqrt n
  .fin false (2 * r + ofBool (decide (r * r ≠ n))) (e' / 2 - 81)

/-- 1 / sqrt (m × 2^e) with m ≠ 0. -/
def rsqrtFinite (m : Nat) (e : Int) : Val :=
  let (m', e') := evenExponent m e
  let r := isqrt (2 ^ 240 / m')
  .fin false (2 * r + ofBool (decide (r * r * m' ≠ 2 ^ 240))) (-(e' / 2) - 121)

/-- A magnitude just below one, for arguments whose result is nearer to one than any FP32 value but one. -/
def belowOne (neg : Bool) : Val := .fin neg (2 ^ 81 - 1) (-81)

/-- tanh of ±m × 2^e with m ≠ 0. -/
def tanhFinite (neg : Bool) (m : Nat) (e : Int) : Val :=
  if 6 ≤ (log2 m : Int) + e then belowOne neg
  else
    let y := 2 * toFix m e * fixInvLn2 / 2 ^ fixP
    let big := pow2Frac (y % 2 ^ fixP) * 2 ^ (y / 2 ^ fixP)
    fixVal neg ((big - 2 ^ fixP) * 2 ^ fixP / (big + 2 ^ fixP))

/-- erf of ±m × 2^e with m ≠ 0. -/
def erfFinite (neg : Bool) (m : Nat) (e : Int) : Val :=
  if 3 ≤ (log2 m : Int) + e then belowOne neg
  else
    let x := toFix m e
    let x2 := x * x / 2 ^ fixP
    let s := erfLoop 640 1 x x2 0
    let y := x2 * fixInvLn2 / 2 ^ fixP
    let big := pow2Frac (y % 2 ^ fixP) * 2 ^ (y / 2 ^ fixP)
    fixVal neg (s * fixTwoOverSqrtPi / big)

/-- The seven functions of R57. -/
inductive SpecialFn where
  | exp2 | log2 | rcp | rsqrt | sqrt | tanh | erf
deriving DecidableEq, Repr

/-- The outcome of a function on an operand: a special operand of Table 2.6 with its flag, or a value to round. -/
inductive FnResult where
  | special (v : Val) (f : FpFlags)
  | value (v : Val)
deriving DecidableEq, Repr

/-- Table 2.6 and the finite values of R57. -/
def specialValue : SpecialFn → Val → FnResult
  | _, .nan => .special .nan 0
  | .exp2, .inf n => .special (if n then .fin false 0 0 else .inf false) 0
  | .exp2, .fin n m e => if m = 0 then .special (.fin false 1 0) 0 else .value (exp2Finite n m e)
  | .log2, .inf n => if n then .special .nan flagNV else .special (.inf false) 0
  | .log2, .fin n m e =>
    if m = 0 then .special (.inf true) flagDZ
    else if n then .special .nan flagNV
    else .value (log2Finite m e)
  | .rcp, .inf n => .special (.fin n 0 0) 0
  | .rcp, .fin n m e => if m = 0 then .special (.inf n) flagDZ else .value (rcpFinite n m e)
  | .rsqrt, .inf n => if n then .special .nan flagNV else .special (.fin false 0 0) 0
  | .rsqrt, .fin n m e =>
    if m = 0 then .special (.inf n) flagDZ
    else if n then .special .nan flagNV
    else .value (rsqrtFinite m e)
  | .sqrt, .inf n => if n then .special .nan flagNV else .special (.inf false) 0
  | .sqrt, .fin n m e =>
    if m = 0 then .special (.fin n 0 0) 0
    else if n then .special .nan flagNV
    else .value (sqrtFinite m e)
  | .tanh, .inf n => .special (.fin n 1 0) 0
  | .tanh, .fin n m e => if m = 0 then .special (.fin n 0 0) 0 else .value (tanhFinite n m e)
  | .erf, .inf n => .special (.fin n 1 0) 0
  | .erf, .fin n m e => if m = 0 then .special (.fin n 0 0) 0 else .value (erfFinite n m e)

/-- R57: correctly rounded to FP32; for BF16 and FP16 rounded once more, with the union of the flags. -/
def specialElem (fn : SpecialFn) (f : FloatFmt) (w : Nat) : WithFlags Nat :=
  match specialValue fn (decodeFloat f w) with
  | .special v g => ((encodeFloat f 0 false 0 v).1, g)
  | .value v =>
    let (b, g) := encodeFloat fp32 0 false 0 v
    if f = fp32 then (b, g)
    else
      let (c, h) := encodeFloat f 0 false 0 (decodeFloat fp32 b)
      (c, g ||| h)

/-! ## Philox (R58 to R60) -/

/-- The four words of a Philox block. -/
structure Quad where
  w0 : Nat
  w1 : Nat
  w2 : Nat
  w3 : Nat
deriving DecidableEq, Repr

/-- Word i mod 4 of a block. -/
def Quad.word (q : Quad) (i : Nat) : Nat :=
  match i % 4 with
  | 0 => q.w0
  | 1 => q.w1
  | 2 => q.w2
  | _ => q.w3

/-- `k` rounds of Philox4x32 (R58). -/
def philoxRounds : Nat → Nat → Nat → Quad → Quad
  | 0, _, _, c => c
  | k + 1, k0, k1, c =>
    let p0 := 0xD2511F53 * c.w0
    let p1 := 0xCD9E8D57 * c.w2
    philoxRounds k ((k0 + 0x9E3779B9) % 2 ^ 32) ((k1 + 0xBB67AE85) % 2 ^ 32)
      ⟨(p1 / 2 ^ 32) ^^^ c.w1 ^^^ k0, p1 % 2 ^ 32, (p0 / 2 ^ 32) ^^^ c.w3 ^^^ k1, p0 % 2 ^ 32⟩

/-- Philox(k0, k1, c0, c1, c2, c3) (R58). -/
def philox (k0 k1 c0 c1 c2 c3 : Nat) : Quad := philoxRounds 10 k0 k1 ⟨c0, c1, c2, c3⟩

/-- The scalar word at counter n under the task key (R59). -/
def scalarRandom (k0 k1 n : Nat) : Nat :=
  let b := n / 4
  (philox k0 k1 (b % 2 ^ 32) (b / 2 ^ 32) 0 0).word n

/-- The word of lane l of the vector stream at counter v (R60). -/
def vectorRandom (k0 k1 v l : Nat) : Nat :=
  (philox k0 k1 (v % 2 ^ 32) (v / 2 ^ 32) (l / 4) 1).word l

end Sys2Proof.Machine
end

