-- ==== Sys2Proof/Machine/Operands.lean ====
section
/-!
DEFINITION. Operand forms of the vector slots: registers of the slot's own cluster (R117), elements (R118), results under byte
enables, and accumulator readiness (R138).
-/
namespace Sys2Proof.Machine

/-- The issuing slot is VB (S5), whose registers are those of the B cluster (R117). -/
def onB (s : State) : Bool := s.issue.slot == 5

/-- A vector register of the slot's own cluster at issue (R117, R119). -/
def rv (s : State) (r : BitVec 4) : Vec := (curCore s).regs.readV (onB s) r.toNat

/-- A predicate of the slot's own cluster at issue. -/
def rp (s : State) (p : BitVec 3) : Pred := (curCore s).regs.readP (onB s) p.toNat

/-- A list of w-bit elements as one number, the first lowest (R18). -/
def packList (w : Nat) : List Nat → Nat
  | [] => 0
  | x :: xs => x % 2 ^ w + 2 ^ w * packList w xs

/-- A register from its elements of size s bytes (R18). -/
def vecOf (size : Nat) (xs : List Nat) : Vec := BitVec.ofNat 2048 (packList (8 * size) xs)

/-- The flags of a list of element results (R48). -/
def flagsOf (xs : List (WithFlags Nat)) : FpFlags := xs.foldl (fun f x => f ||| x.2) 0

/-- The byte enables of the enabled elements of size s bytes (R118). -/
def enableMask (p : Pred) (size : Nat) : Pred := byteMask size (elemCount size) (enabled p size)

/-- The results of the enabled elements; a disabled one computes nothing (R118). -/
def enabledResults (p : Pred) (size : Nat) (f : Nat → WithFlags Nat) : List (WithFlags Nat) :=
  (upTo (elemCount size)).map (fun i => if enabled p size i then f i else (0, 0))

/-- A merging element-wise result in a register of the slot's own cluster (R118). -/
def elementwise (s : State) (size : Nat) (d : BitVec 4) (p : BitVec 3) (latency : Nat) (f : Nat → WithFlags Nat) : Out :=
  let rs := enabledResults (rp s p) size f
  .next (postV s (onB s) d.toNat latency (flagsOf rs) (vecOf size (rs.map (fun x => x.1))) (enableMask (rp s p) size))

/-- A result that writes every byte of a register of the slot's own cluster. -/
def wholeResult (s : State) (size : Nat) (d : BitVec 4) (latency : Nat) (rs : List (WithFlags Nat)) : Out :=
  .next (postV s (onB s) d.toNat latency (flagsOf rs) (vecOf size (rs.map (fun x => x.1))) allBytes)

/-- The latency of a move: 2 for integer types, 4 for floating types (Table 5.1). -/
def moveLatency (t : Nat) : Nat := if typeIsFloat t then 4 else 2

/-- The integer value of an element: signed, or unsigned when U (R122). -/
def intElem (size : Nat) (unsigned : Bool) (x : Nat) : Int := if unsigned then (x : Int) else toSigned (8 * size) x

/-- The standing format of an element type (R69). -/
def typeFmt (t : Nat) : Fmt := (fmtOfCode (typeCode t)).getD (.int 8 true)

/-- The exact value of an element of a type. -/
def typeVal (t x : Nat) : Val := decodeFmt (typeFmt t) x

/-- Rotation of a 32-bit word right by r bits. -/
def rotr32 (w r : Nat) : Nat := (w / 2 ^ r + w * 2 ^ (32 - r)) % 2 ^ 32

/-- The random word of the element at byte b (R54). -/
def randomWord (v : Vec) (b : Nat) : Nat := rotr32 (elem v 4 (b / 4)) (8 * (b % 4))

/-- The matrix operation reads or writes accumulator ck, cmk or clk (R138). -/
def MxOp.usesAcc (o : MxOp) (k : Nat) : Bool := !(o.kind == .mwl) && (o.acc == k || (o.kind == .msm && o.out == k))

/-- An interlocked result to a destination is pending. -/
def Core.interlocked (c : Core) (d : Dest) : Bool := c.pend.any (fun e => e.due.isNone && e.dest == some d)

/-- The issuing slot meets an interlocked result of an earlier bundle (R81). Past the readiness tests of its bundle it does not: a
result of the bundle itself lands after the reads of its slots (R80). -/
def slotInterlocked (s : State) (d : Dest) : Bool := !s.issue.commit && (curCore s).interlocked d

/-- Accumulator ck with its side registers is ready (R138). -/
def accReady (s : State) (k : Nat) : Bool := !(curCore s).mx.queue.any (fun o => o.usesAcc k) && !slotInterlocked s (.acc k)

/-! ## Buffer records (R25, R26, R143, R144) -/

/-- The fields of a buffer record (Table 1.3). -/
structure Record where
  base : Nat
  extent : Nat
  stride1 : Int
  stride2 : Int
  rowlen : Nat
  fmt : Nat
  bmode : Nat
  region : Nat
  space : Nat
  cache : Nat
  order : Nat
  scope : Nat
  high : Nat
deriving DecidableEq, Repr

/-- A record's fields from its 256 bits (Table 1.3). -/
def recordOf (r : BitVec 256) : Record :=
  let w := r.toNat
  { base := field w 0 64, extent := field w 64 40, stride1 := toSigned 32 (field w 104 32),
    stride2 := toSigned 32 (field w 136 32), rowlen := field w 168 16, fmt := field w 184 6, bmode := field w 190 2,
    region := field w 192 8, space := field w 200 2, cache := field w 202 2, order := field w 204 2,
    scope := field w 206 2, high := field w 208 48 }

/-- A malformed record (R26). -/
def Record.malformed (b : Record) : Bool :=
  b.high != 0 || fmtReserved b.fmt || b.order == 3 || b.scope == 3 || (b.space == 0 && decide (2 ^ 48 ≤ b.base))

/-- An element format (Table 6.2). -/
def isElementFmt (c : Nat) : Bool := decide (c ≤ 0x05) || (decide (0x08 ≤ c) && decide (c ≤ 0x0C))

/-- A packed 4-bit format. -/
def isPacked4 (c : Nat) : Bool := decide (0x0F ≤ c) && decide (c ≤ 0x11)

/-- A packed format of R45. -/
def isPackedFmt (c : Nat) : Bool := decide (0x0D ≤ c) && decide (c ≤ 0x11)

/-- The bytes of one element of an element format. -/
def fmtSize (c : Nat) : Nat := fmtBits c / 8

/-- The unit of a format in elements (R50, Table 6.2). -/
def fmtUnit (c : Nat) : Nat :=
  if isBlockFmt c then 32 else if c = 0x0D ∨ c = 0x0E then 4 else if isPacked4 c then 2 else 1

/-- The bytes that an image access moves (Table 6.2). -/
def imageBytes (c : Nat) : Nat :=
  match c with
  | 0x0D | 0x0E => 252
  | 0x20 | 0x21 => 255
  | 0x22 => 250
  | 0x23 | 0x24 => 231
  | _ => 256

/-- The elements of one access (Table 6.2). -/
def accessCount (c : Nat) : Nat :=
  if isElementFmt c then 256 / fmtSize c
  else
    match c with
    | 0x0D | 0x0E => 336
    | 0x20 | 0x21 => 480
    | 0x22 => 320
    | 0x23 | 0x24 => 224
    | _ => 512

/-- SpaceBase + BASE + o, modulo 2^64 (R144). -/
def Record.address (b : Record) (o : Int) : Nat :=
  ofSigned 64 ((spaceBase (spaceOfCode b.space) + b.base : Nat) + o)

/-- Offset(b, e, t) (R144): exact, for an element index that may be negative. -/
def Record.offset (b : Record) (e t : Int) : Int :=
  let i := if b.rowlen = 0 then 0 else e / (b.rowlen : Int)
  let j := if b.rowlen = 0 then e else e % (b.rowlen : Int)
  let col := if isBlockFmt b.fmt then j / 32 * (blockBytes b.fmt : Int) else j * (fmtBits b.fmt : Int) / 8
  i * b.stride1 + col + t * b.stride2

/-- What Resolve answers (R144). -/
inductive Resolved where
  | none
  | bounds
  | at (o : Int)
deriving DecidableEq, Repr

/-- Resolve(b, o, size) (R144), the offset that is accessed. -/
def Record.resolve (b : Record) (o : Int) (size : Nat) : Resolved :=
  let out := decide (o < 0) || decide ((b.extent : Int) < o + size)
  match b.bmode with
  | 0 => if out then .bounds else .at o
  | 1 => if out then .none else .at o
  | 2 =>
    if b.extent = 0 then .bounds
    else
      let r := o % (b.extent : Int)
      if (b.extent : Int) < r + size then .bounds else .at r
  | _ => .at o

/-! ## Checked units of a record access (R145, R427) -/

/-- One part of a unit that lies in one page: its offset in the unit, its bytes, its address and the checks' answer. -/
structure UnitPart where
  off : Nat
  len : Nat
  va : Nat
  acc : Access
deriving DecidableEq, Repr

/-- The outcome of the checks of one element or image. -/
inductive UnitCheck where
  | skip
  | fails (c : Cause) (addr size : Nat)
  | go (parts : List UnitPart)
deriving DecidableEq, Repr

/-- The bits of the offset in the page of an address: 16, 27 or 38 in global memory (R347); a local memory is cut nowhere. -/
def pageBits (s : State) (c : Ctx) (va : Nat) : Nat :=
  match classify va with
  | some (.global, a) =>
    match walkTable s c.root a with
    | .leaf bits _ _ _ _ _ => bits
    | _ => 16
  | _ => 64

/-- A unit cut where its page ends (R427): offset, length and address of each part. -/
def pageParts (bits va size : Nat) : List (Nat × Nat × Nat) :=
  let first := 2 ^ bits - va % 2 ^ bits
  if size ≤ first then [(0, size, va)] else [(0, first, va), (first, size - first, va + first)]

/-- The failing cause of a part, if any. -/
def Access.cause : Access → Cause
  | .fails c => c
  | _ => .none

/-- The smaller of two causes, none counting as no cause. -/
def minCause (a b : Cause) : Cause := if a = .none then b else if b = .none then a else if b.code < a.code then b else a

/-- The space of a record contains an address (R145, R146): an element of a record lies in the record's space or faults. -/
def inSpace (space a size : Nat) : Bool :=
  match classify a with
  | some (sp, off) => decide (sp = spaceOfCode space) && decide (off + size ≤ spaceSize sp)
  | none => false

/-- The checks of one unit of `size` bytes at offset `o`, in the order of R145, with the checks `chk` of each part at an
address and the page bits of one; `align` is 1 where byte alignment suffices. No part fails before each has its translation (R427). -/
def checkUnitBy (bits : Nat → Nat) (chk : Nat → Nat → Access) (b : Record) (o : Int) (size align : Nat) (tagged : Bool) : UnitCheck :=
  let r := b.resolve o size
  let early := b.bmode == 2 && r == .bounds
  let judged := match r with
    | .at x => b.address x
    | _ => b.address o
  if early then .fails .bounds (b.address o) size
  else if judged % align ≠ 0 then .fails .align judged size
  else
    match r with
    | .bounds => .fails .bounds (b.address o) size
    | .none => .skip
    | .at x =>
      let a := b.address x
      if !inSpace b.space a size then .fails .protect a size
      else if tagged && b.space == 0 then .fails .tag a size
      else
        let parts := (pageParts (bits a) a size).map (fun q =>
          ({ off := q.1, len := q.2.1, va := q.2.2, acc := chk q.2.2 q.2.1 } : UnitPart))
        if parts.any (fun q => q.acc == .untranslated) then .go parts
        else
        match parts.foldl (fun c q => minCause c q.acc.cause) .none with
        | .none => .go parts
        | c => .fails c a size

/-- The checks of one unit of a VM access (R145). -/
def checkUnit (s : State) (n : Nat) (w : Who) (b : Record) (o : Int) (size align : Nat) (read write tagged : Bool) (cls : Nat) :
    UnitCheck :=
  checkUnitBy (pageBits s (ctxOfCore s n)) (fun va len => checkRange s n w va len read write cls b.region) b o size align tagged

/-- The first address of a unit list that still lacks its translation. -/
def unitWalks (us : List (Nat × UnitCheck)) : List Nat :=
  us.flatMap (fun u =>
    match u.2 with
    | .go parts => (parts.filter (fun q => q.acc == .untranslated)).map (fun q => q.va)
    | _ => [])

/-- The first prepared line that a unit list meets. -/
def unitPrepared (us : List (Nat × UnitCheck)) : Option Nat :=
  us.findSome? (fun u =>
    match u.2 with
    | .go parts => parts.findSome? (fun q =>
        match q.acc with
        | .prepared p => some p
        | _ => none)
    | _ => none)

/-- A unit list meets an earlier access of the core to the same remote bytes (R239). -/
def unitOrdered (us : List (Nat × UnitCheck)) : Bool :=
  us.any (fun u =>
    match u.2 with
    | .go parts => parts.any (fun q => q.acc == .ordered)
    | _ => false)

/-- The smallest cause among the units, with the address of the lowest-indexed unit that has it (R145). -/
def unitFault (us : List (Nat × UnitCheck)) : Option (Cause × Nat) :=
  us.foldl (fun best u =>
    match u.2, best with
    | .fails c a _, none => some (c, a)
    | .fails c a _, some (k, x) => if c.code < k.code then some (c, a) else some (k, x)
    | _, q => q) none

/-- A unit list meets a job of the core (R147). -/
def unitMeets (s : State) (n : Nat) (us : List (Nat × UnitCheck)) (store : Bool) : Bool :=
  us.any (fun u =>
    match u.2 with
    | .go parts => parts.any (fun q => meetsJobs s n (rangeOf q.va q.len) store)
    | .fails _ a size => meetsJobs s n (rangeOf a size) store
    | .skip => false)

/-- A record access of the issuing slot once its units are checked: it waits for translations (R75, R328), prepared lines (R263),
earlier accesses to the same remote bytes (R239) and jobs (R147), and then fails (R145) or goes on. -/
def recordAccess (s : State) (us : List (Nat × UnitCheck)) (store : Bool) (act : State → State) : State :=
  let n := s.issue.core
  match unitWalks us with
  | va :: vas => slotHold ((va :: vas).foldl (fun st a => requestWalk st (slotOfCore st n) a) s)
  | [] =>
    match unitPrepared us with
    | some p => holdForPrepared s p
    | none =>
      if unitOrdered us || unitMeets s n us store then slotHold s
      else
        match unitFault us with
        | some (c, a) => slotFail s c a
        | none => act s

/-- The record that a slot names, if it may be used: else ILLEGAL at the address that BRLD loaded it from (R26, R142). -/
def withRecord (s : State) (n : BitVec 6) (ok : Record → Bool) (act : Record → State) : State :=
  let g := (curCore s).regs
  let b := recordOf (g.readRec n.toNat)
  if b.malformed || !ok b then slotFail s .illegal (g.readRecAddr n.toNat) else act b

end Sys2Proof.Machine
end

