-- ==== Sys2Proof/Machine/VectorMem.lean ====
section
/-!
DEFINITION. The vector memory instructions (R142 to R159): row, strided and gathered access through buffer records, lane
slices, tagged access, rings, masked sub-byte stores, reductions and prefetch. VM reads the A cluster.
-/
namespace Sys2Proof.Machine

/-- VM_NOP (R65). -/
def execVmNop (s : State) : Out := .next s

/-! ## Operands -/

/-- A vector register of the A cluster at issue (R142). -/
def rva (s : State) (r : BitVec 4) : Vec := (curCore s).regs.readV false r.toNat

/-- A predicate of the A cluster at issue. -/
def rpa (s : State) (p : BitVec 3) : Pred := (curCore s).regs.readP false p.toNat

/-- The cluster and number that V names: 16 to 31 are vb0 to vb15 (R142). -/
def vmReg (v : BitVec 5) : Bool × Nat := (decide (16 ≤ v.toNat), v.toNat % 16)

/-- k = (x[XO] + I) mod 2^64 (R148). -/
def rowStart (s : State) (x : BitVec 5) (i : BitVec 8) : Nat := ((rx s x.toNat).toNat + i.toNat) % 2 ^ 64

/-- Lane t of an index register as a signed element index plus I (R150). -/
def laneIndex (s : State) (x : BitVec 4) (i : BitVec 8) (t : Nat) : Int := toSigned 32 (elem (rva s x) 4 t) + (i.toNat : Int)

/-- Enabled element i of size s under pa[P]. -/
def vmEnabled (s : State) (p : BitVec 3) (size i : Nat) : Bool := enabled (rpa s p) size i

/-- A record for VLD, VST and VPREF: an element format, or an image with P = 0 (R143). -/
def rowRecordOk (p : BitVec 3) (b : Record) : Bool := isElementFmt b.fmt || p == 0

/-- The unit rule of an image access at element k (R143): the failing cause. -/
def imageRule (b : Record) (k : Nat) : Cause :=
  if k % fmtUnit b.fmt ≠ 0 ∨ b.rowlen % fmtUnit b.fmt ≠ 0 then (if isBlockFmt b.fmt then .bounds else .align) else .none

/-! ## Units of an access -/

/-- The enabled elements t below `n` at given offsets, each checked: register byte and outcome (R144, R145). -/
def elementUnits (s : State) (b : Record) (n : Nat) (en : Nat → Bool) (off : Nat → Int) (read write tagged : Bool) (cls : Nat) :
    List (Nat × UnitCheck) :=
  let sz := fmtSize b.fmt
  ((upTo n).filter en).map (fun t =>
    (t * sz, checkUnit s s.issue.core (whoIs s s.issue.core) b (off t) sz sz read write tagged cls))

/-- The one unit of an image access (R144). -/
def imageUnits (s : State) (b : Record) (k : Nat) (read write : Bool) : List (Nat × UnitCheck) :=
  [(0, checkUnit s s.issue.core (whoIs s s.issue.core) b (b.offset k 0) (imageBytes b.fmt) 1 read write false 0)]

/-- The units of a row access from element k (R148). -/
def rowUnits (s : State) (b : Record) (k : Nat) (p : BitVec 3) (read write : Bool) : List (Nat × UnitCheck) :=
  if isElementFmt b.fmt then
    elementUnits s b (256 / fmtSize b.fmt) (vmEnabled s p (fmtSize b.fmt)) (fun t => b.offset ((k + t : Nat) : Int) 0)
      read write false 0
  else imageUnits s b k read write

/-- The units of a strided access (R149). -/
def strideUnits (s : State) (b : Record) (k : Nat) (p : BitVec 3) (read write : Bool) : List (Nat × UnitCheck) :=
  elementUnits s b (256 / fmtSize b.fmt) (vmEnabled s p (fmtSize b.fmt)) (fun t => b.offset (k : Int) (t : Int))
    read write false 0

/-- The units of a gather or scatter (R150). -/
def gatherUnits (s : State) (b : Record) (x : BitVec 4) (i : BitVec 8) (p : BitVec 3) (read write : Bool) :
    List (Nat × UnitCheck) :=
  elementUnits s b (min (256 / fmtSize b.fmt) 64) (vmEnabled s p (fmtSize b.fmt)) (fun t => b.offset (laneIndex s x i t) 0)
    read write false 0

/-! ## Loads -/

/-- The parts of one unit are read: the state, the value of the register so far and the answers still to come. -/
def loadParts (id at_ : Nat) : List UnitPart → State × Nat × Nat → State × Nat × Nat
  | [], r => r
  | q :: rest, (s, v, waits) =>
    let n := s.issue.core
    match q.acc with
    | .here p =>
      let (s1, bytes) := coreRead s n (whoIs s n) p q.len
      loadParts id at_ rest (s1, v + ofBytes bytes * 2 ^ (8 * (at_ + q.off)), waits)
    | .away tgt node addr =>
      loadParts id at_ rest (requestLoad s tgt node addr q.va q.len id (at_ + q.off) false none, v, waits + 1)
    | _ => loadParts id at_ rest (s, v, waits)

/-- The units are read in ascending order, consecutively (R147); a clamped one reads as 0 (R146). -/
def loadUnits (id : Nat) : List (Nat × UnitCheck) → State × Nat × Nat → State × Nat × Nat
  | [], r => r
  | (at_, .go parts) :: rest, r => loadUnits id rest (loadParts id at_ parts r)
  | _ :: rest, r => loadUnits id rest r

/-- A vector load performed: its result has the latency of the record's SPACE (R146). -/
def vectorLoad (s : State) (space : Nat) (v : BitVec 5) (mask : Pred) (us : List (Nat × UnitCheck)) : State :=
  let (s1, value, waits) := loadUnits (freshId s) us (s, 0, 0)
  let d := vmReg v
  let what := Payload.vec d.1 d.2 (BitVec.ofNat 2048 value) mask
  match space with
  | 3 => postFixed s1 (some (.v d.1 d.2)) 4 0 what
  | 1 => postFixed s1 (some (.v d.1 d.2)) 16 0 what
  | _ => postInterlocked s1 (some (.v d.1 d.2)) waits what

/-! ## Stores -/

/-- The parts of one unit are written with bytes `data` of the unit; true when the spill area ran out. -/
def storeParts (data : List Byte) : List UnitPart → State → State × Bool
  | [], s => (s, false)
  | q :: rest, s =>
    let n := s.issue.core
    let bytes := (data.drop q.off).take q.len
    match q.acc with
    | .here p =>
      let (s1, f) := storeAt s (.core n) (whoIs s n) q.va p bytes
      if f then (shadowFull s1 (whoIs s1 n) q.va, true) else storeParts data rest s1
    | .away tgt node addr => storeParts data rest (storeAway s tgt node addr q.va bytes)
    | _ => storeParts data rest s

/-- The units are written in ascending order (R147); a clamped one is dropped. -/
def storeUnits (dataAt : Nat → List Byte) : List (Nat × UnitCheck) → State → State
  | [], s => s
  | (at_, .go parts) :: rest, s =>
    let (s1, f) := storeParts (dataAt at_) parts s
    if f then s1 else storeUnits dataAt rest s1
  | _ :: rest, s => storeUnits dataAt rest s

/-- The bytes of a register from byte `at_` on. -/
def regBytes (v : Vec) (size at_ : Nat) : List Byte := bytesOf size (field v.toNat (8 * at_) (8 * size))

/-! ## ORDER and SCOPE (R238) -/

/-- An acquire or fence of the issuing core armed until its condition holds (R184, R199). -/
def armFence (s : State) (kind scope : Nat) : State :=
  let n := s.issue.core
  let id := freshId s
  armSync (modCur s (fun c => { c with nextId := c.nextId + 1 })) n
    { id := id, kind := .fence kind scope, place := 0, rd := none, armed := 0 }

/-- The ORDER of a record around its access (R238): an access that is held, fails or stops its core arms no acquire. -/
def withOrder (s : State) (b : Record) (act : State → State) : State :=
  if b.order = 2 ∧ releaseHeld s b.scope then slotHold s
  else if b.order = 1 then
    let s1 := act s
    if s1.issue.held || s1.issue.raised != s.issue.raised || (curCore s1).status != (curCore s).status then s1
    else armFence s1 1 b.scope
  else act s

/-- A row access with the unit rule of images (R143). -/
def rowAccess (s : State) (b : Record) (k : Nat) (us : List (Nat × UnitCheck)) (store : Bool) (act : State → State) : State :=
  match imageRule b k with
  | .none => recordAccess s us store act
  | c => slotFail s c (b.address (b.offset k 0))

/-! ## Row, strided and gathered access (R148 to R150) -/

/-- The bytes that a row load writes: its enabled elements, or all of them for an image (R146, Table 6.2). -/
def rowMask (s : State) (b : Record) (p : BitVec 3) : Pred :=
  if isElementFmt b.fmt then enableMask (rpa s p) (fmtSize b.fmt) else allBytes

/-- VLD (R148). -/
def execVld (v : BitVec 5) (b : BitVec 6) (x : BitVec 5) (p : BitVec 3) (i : BitVec 8) (s : State) : Out :=
  .next (withRecord s b (rowRecordOk p) (fun r =>
    let k := rowStart s x i
    let us := rowUnits s r k p true false
    withOrder s r (fun s1 => rowAccess s1 r k us false (fun s2 => vectorLoad s2 r.space v (rowMask s r p) us))))

/-- VST (R148). -/
def execVst (v : BitVec 4) (b : BitVec 6) (x : BitVec 5) (p : BitVec 3) (i : BitVec 8) (s : State) : Out :=
  .next (withRecord s b (rowRecordOk p) (fun r =>
    let k := rowStart s x i
    let us := rowUnits s r k p false true
    let size := if isElementFmt r.fmt then fmtSize r.fmt else imageBytes r.fmt
    withOrder s r (fun s1 => rowAccess s1 r k us true (fun s2 => storeUnits (regBytes (rva s v) size) us s2))))

/-- A record of an element format. -/
def elementRecordOk (b : Record) : Bool := isElementFmt b.fmt

/-- VLDS (R149). -/
def execVlds (v : BitVec 5) (b : BitVec 6) (x : BitVec 5) (p : BitVec 3) (i : BitVec 8) (s : State) : Out :=
  .next (withRecord s b elementRecordOk (fun r =>
    let us := strideUnits s r (rowStart s x i) p true false
    withOrder s r (fun s1 => recordAccess s1 us false (fun s2 =>
      vectorLoad s2 r.space v (enableMask (rpa s p) (fmtSize r.fmt)) us))))

/-- VSTS (R149). -/
def execVsts (v : BitVec 4) (b : BitVec 6) (x : BitVec 5) (p : BitVec 3) (i : BitVec 8) (s : State) : Out :=
  .next (withRecord s b elementRecordOk (fun r =>
    let us := strideUnits s r (rowStart s x i) p false true
    withOrder s r (fun s1 => recordAccess s1 us true (fun s2 => storeUnits (regBytes (rva s v) (fmtSize r.fmt)) us s2))))

/-- VGTH (R150): elements at and above 64 are unchanged. -/
def execVgth (v : BitVec 5) (b : BitVec 6) (x : BitVec 4) (p : BitVec 3) (i : BitVec 8) (s : State) : Out :=
  .next (withRecord s b elementRecordOk (fun r =>
    let us := gatherUnits s r x i p true false
    let size := fmtSize r.fmt
    withOrder s r (fun s1 => recordAccess s1 us false (fun s2 =>
      vectorLoad s2 r.space v (byteMask size (min (256 / size) 64) (vmEnabled s p size)) us))))

/-- VSCT (R150): where two elements write one byte, the higher prevails. -/
def execVsct (v : BitVec 4) (b : BitVec 6) (x : BitVec 4) (p : BitVec 3) (i : BitVec 8) (s : State) : Out :=
  .next (withRecord s b elementRecordOk (fun r =>
    let us := gatherUnits s r x i p false true
    withOrder s r (fun s1 => recordAccess s1 us true (fun s2 => storeUnits (regBytes (rva s v) (fmtSize r.fmt)) us s2))))

/-! ## Lane-private slices (R151) -/

/-- The offset of lane l in its slice: lane l of the index register plus 4 × I, exact. -/
def laneOffset (s : State) (x : BitVec 4) (i : BitVec 8) (l : Nat) : Nat := elem (rva s x) 4 l + 4 * i.toNat

/-- The failing lane with the smallest cause, the lowest among those (R151; DEDUCED from R145: R151 names only the lowest faulting lane,
which is another where some lanes are misaligned and others out of bounds; log entry 17). -/
def laneFault (offs : List Nat) : Option (Cause × Nat) :=
  match offs.find? (fun o => decide (o % 4 ≠ 0)) with
  | some o => some (.align, o)
  | none => (offs.find? (fun o => decide (4096 ≤ o))).map (fun o => (.bounds, o))

/-- The enabled lanes under pa[P]: bit 4l. -/
def enabledLanes (s : State) (p : BitVec 3) : List Nat := (upTo 64).filter (fun l => vmEnabled s p 4 l)

/-- VLDL, latency 2 (R151). -/
def execVldl (v : BitVec 5) (x : BitVec 4) (p : BitVec 3) (i : BitVec 8) (s : State) : Out :=
  match laneFault ((enabledLanes s p).map (laneOffset s x i)) with
  | some (c, o) => .next (slotFail s c o)
  | none =>
    let d := vmReg v
    if (enabledLanes s p).any (fun l => (curCore s).bad.contains (.slice (1024 * l + laneOffset s x i l / 4))) then
      .next (slotFail s .eccUncorr 0)
    else
    let words := (upTo 64).map (fun l =>
      if vmEnabled s p 4 l then (spGet 0 (curCore s).loc.slices (1024 * l + laneOffset s x i l / 4)).toNat else 0)
    .next (postV s d.1 d.2 2 0 (vecOf 4 words) (enableMask (rpa s p) 4))

/-- VSTL (R151). -/
def execVstl (v : BitVec 4) (x : BitVec 4) (p : BitVec 3) (i : BitVec 8) (s : State) : Out :=
  match laneFault ((enabledLanes s p).map (laneOffset s x i)) with
  | some (c, o) => .next (slotFail s c o)
  | none =>
    let keys := (enabledLanes s p).map (fun l => (l, 1024 * l + laneOffset s x i l / 4))
    .next (modCur s (fun c => { c with
      bad := c.bad.filter (fun b => !keys.any (fun e => b == .slice e.2))
      loc := { c.loc with slices := keys.foldl (fun m e => spSet 0 m e.2 (BitVec.ofNat 32 (elem (rva s v) 4 e.1))) c.loc.slices } }))

/-! ## Tagged vector access (R152) -/

/-- A record of a 32-bit format (R143). -/
def wordRecordOk (b : Record) : Bool := b.fmt == 0x04 || b.fmt == 0x05 || b.fmt == 0x08

/-- The units of a tagged access: 64 words in a local space. -/
def taggedUnits (s : State) (b : Record) (k : Nat) (p : BitVec 3) (read write : Bool) : List (Nat × UnitCheck) :=
  elementUnits s b 64 (vmEnabled s p 4) (fun t => b.offset ((k + t : Nat) : Int) 0) read write true 0

/-- The words that a tagged access waits for, in lane order. -/
def tagElems (data : Nat → Nat) (us : List (Nat × UnitCheck)) : List TagElem :=
  us.flatMap (fun u =>
    match u.2 with
    | .go [q] =>
      match q.acc with
      | .here p => [⟨u.1 / 4, p, data (u.1 / 4)⟩]
      | _ => []
    | _ => [])

/-- VLDF: the result lands when the last enabled word has been read (R152). -/
def execVldf (v : BitVec 5) (b : BitVec 6) (x : BitVec 5) (p : BitVec 3) (i : BitVec 8) (s : State) : Out :=
  .next (withRecord s b wordRecordOk (fun r =>
    let us := taggedUnits s r (rowStart s x i) p true false
    withOrder s r (fun s1 => recordAccess s1 us false (fun s2 =>
      let d := vmReg v
      let mask := enableMask (rpa s p) 4
      let id := freshId s2
      armSync (postInterlocked s2 (some (.v d.1 d.2)) 1 (.vec d.1 d.2 0 mask)) s2.issue.core
        { id := id, kind := .vldf, place := 0, rd := none, armed := 0, vdest := some d, elems := tagElems (fun _ => 0) us,
          mask := mask }))))

/-- VSTE (R152). -/
def execVste (v : BitVec 4) (b : BitVec 6) (x : BitVec 5) (p : BitVec 3) (i : BitVec 8) (s : State) : Out :=
  .next (withRecord s b wordRecordOk (fun r =>
    let us := taggedUnits s r (rowStart s x i) p false true
    withOrder s r (fun s1 => recordAccess s1 us true (fun s2 =>
      let id := freshId s2
      armSync (modCur s2 (fun c => { c with nextId := c.nextId + 1 })) s2.issue.core
        { id := id, kind := .vste, place := 0, rd := none, armed := 0, elems := tagElems (fun l => elem (rva s v) 4 l) us }))))

/-! ## Rings (R154) -/

/-- A ring that VPUSH and VPOP may use: enabled, with slots of 256 bytes. -/
def Ring.vmOk (r : Ring) : Bool := r.cap != 0 && r.slot == 256

/-- The offset of a slot of a ring in core scratchpad (R218). -/
def Ring.slotOffset (r : Ring) (i : Nat) : Nat := r.base + r.slot * i

/-- A producer claims the next free slot (R27). -/
def Ring.claimFree (r : Ring) : Ring := { r with free := r.free - 1, tail := (r.tail + 1) % r.cap }

/-- A reader claims the oldest filled slot (R27). -/
def Ring.claimFilled (r : Ring) : Ring := { r with filled := r.filled - 1, head := (r.head + 1) % r.cap }

/-- VPUSH (R154): the slot is claimed and written at issue, and FILLED rises at issue + 1. -/
def execVpush (v : BitVec 4) (q : BitVec 4) (s : State) : Out :=
  let n := s.issue.core
  let r := (curCore s).regs.ring q.toNat
  let off := r.slotOffset r.tail
  if !r.vmOk then .next (slotFail s .ring 0)
  else if r.free = 0 ∨ meetsJobs s n ⟨3, off, off + 256⟩ true then .next (slotHold s)
  else
    let s1 := modRegs s (fun g => g.setRing q.toNat r.claimFree)
    let (s2, _) := storeAt s1 (.core n) (whoIs s1 n) (spaceBase .core + off) (corePlace n off) (regBytes (rva s v) 256 0)
    .next (postFixed s2 none 1 0 (.ringFilled q.toNat))

/-- VPOP (R154): the oldest filled slot is claimed and read at issue, FREE rises at issue + 1, latency 4. -/
def execVpop (v : BitVec 5) (q : BitVec 4) (s : State) : Out :=
  let n := s.issue.core
  let r := (curCore s).regs.ring q.toNat
  let off := r.slotOffset r.head
  let d := vmReg v
  if !r.vmOk then .next (slotFail s .ring 0)
  else if r.filled = 0 ∨ meetsJobs s n ⟨3, off, off + 256⟩ false then .next (slotHold s)
  else
    let s1 := modRegs s (fun g => g.setRing q.toNat r.claimFilled)
    let (s2, bytes) := coreRead s1 n (whoIs s1 n) (corePlace n off) 256
    let s3 := postFixed s2 none 1 0 (.ringFreed q.toNat)
    .next (postV s3 d.1 d.2 4 0 (BitVec.ofNat 2048 (ofBytes bytes)) allBytes)

/-! ## Masked sub-byte stores (R155) -/

/-- A byte with its low or high nibble replaced (R155). -/
def setNibble (old : Nat) (high : Bool) (v : Nat) : Nat :=
  if high then old % 16 + 16 * (v % 16) else old / 16 * 16 + v % 16

/-- One nibble written at its home by a masked read-modify-write; at a remote home by a masked reduction (log entry 11). A
nibble of a transactional byte makes the whole byte part of the launch's version, which R254 keeps byte by byte: at the curtain it
replaces a nibble that another agent has stored meanwhile (DESIGN CHOICE: R155 says that none is lost; log entry 92). -/
def storeNibble (s : State) (high : Bool) (v : Nat) (q : UnitPart) : State × Bool :=
  let n := s.issue.core
  let w := whoIs s n
  match q.acc with
  | .here p =>
    let s1 := mergePartials s p 1
    storeAt s1 (.core n) w q.va p [BitVec.ofNat 8 (setNibble (ofBytes (viewBytes s1 w p 1)) high v)]
  | .away tgt node addr => (reduceAway s tgt node addr q.va 1 (if high then 17 else 16) v 0 0 0, false)
  | _ => (s, false)

/-- The nibbles of a VSTB are written in ascending element index; the register byte of each is its code's. -/
def storeNibbles (b : Record) (k : Nat) (codes : Vec) : List (Nat × UnitCheck) → State → State
  | [], s => s
  | (i, .go [q]) :: rest, s =>
    let e := k + i
    let j := if b.rowlen = 0 then e else e % b.rowlen
    let (s1, f) := storeNibble s (j % 2 == 1) (elem codes 1 i) q
    if f then shadowFull s1 (whoIs s1 s1.issue.core) q.va else storeNibbles b k codes rest s1
  | _ :: rest, s => storeNibbles b k codes rest s

/-- The units of a VSTB: a byte address for each enabled code (R155). -/
def nibbleUnits (s : State) (b : Record) (k : Nat) (p : BitVec 3) : List (Nat × UnitCheck) :=
  ((upTo 256).filter (fun i => vmEnabled s p 1 i)).map (fun i =>
    (i, checkUnit s s.issue.core (whoIs s s.issue.core) b (b.offset ((k + i : Nat) : Int) 0) 1 1 false true false 0))

/-- VSTB (R155). -/
def execVstb (v : BitVec 4) (b : BitVec 6) (x : BitVec 5) (p : BitVec 3) (i : BitVec 8) (s : State) : Out :=
  .next (withRecord s b (fun r => isPacked4 r.fmt) (fun r =>
    let k := rowStart s x i
    let us := nibbleUnits s r k p
    withOrder s r (fun s1 => recordAccess s1 us true (fun s2 => storeNibbles r k (rva s v) us s2))))

/-! ## Reductions to memory (R156, R157) -/

/-- The record formats that an operation of VRED accepts (Table 6.3). -/
def reduceFmtOk (op : Nat) (b : Record) : Bool := if op < 8 then b.fmt == 0x04 || b.fmt == 0x05 else b.fmt == 0x08

/-- The units of a VRED: words, checked as writes of class reductions (R147); host pages take none (R373). -/
def reduceUnits (s : State) (b : Record) (k : Nat) (p : BitVec 3) : List (Nat × UnitCheck) :=
  let n := s.issue.core
  ((upTo 64).filter (vmEnabled s p 4)).map (fun t =>
    (4 * t, checkUnitBy (pageBits s (ctxOfCore s n)) (fun va len => checkNotHost s n (whoIs s n) va len false true 3 b.region) b
      (b.offset ((k + t : Nat) : Int) 0) 4 4 false))

/-- The elements of a VRED are sent in ascending index. -/
def reduceWords (op : Nat) (data : Vec) : List (Nat × UnitCheck) → State → State
  | [], s => s
  | (at_, .go [q]) :: rest, s =>
    let n := s.issue.core
    let v := elem data 4 (at_ / 4)
    match q.acc with
    | .here p =>
      let (s1, f) := reduceAt s (.core n) (whoIs s n) q.va p 4 op v
      if f then shadowFull s1 (whoIs s1 n) q.va else reduceWords op data rest s1
    | .away tgt node addr => reduceWords op data rest (reduceAway s tgt node addr q.va 4 op v 0 0 0)
    | _ => reduceWords op data rest s
  | _ :: rest, s => reduceWords op data rest s

/-- The contributions of a VRED.OFADD under ordinal j and count c of the sequence of element 0 (R157). -/
def contributeWords (name j c : Nat) (data : Vec) : List (Nat × UnitCheck) → State → State
  | [], s => s
  | (at_, .go [q]) :: rest, s =>
    let w := whoIs s s.issue.core
    let v := elem data 4 (at_ / 4)
    match q.acc with
    | .here p =>
      contributeWords name j c data rest
        (contributeFrom s s.issue.core name c p ⟨j, v, w.ctx, w.launch, w.run, w.slot, q.va, none⟩)
    | .away tgt node addr => contributeWords name j c data rest (reduceAway s tgt node addr q.va 4 0x18 v j c name)
    | _ => contributeWords name j c data rest s
  | _ :: rest, s => contributeWords name j c data rest s

/-- VRED (R156); operation 0x18 is the ordered form, whose ordinal and count stand in x[XO + 1] (R157). -/
def execVred (v : BitVec 4) (b : BitVec 6) (x : BitVec 5) (p : BitVec 3) (o : BitVec 5) (s : State) : Out :=
  .next (withRecord s b (reduceFmtOk o.toNat) (fun r =>
    let k := (rx s x.toNat).toNat
    let us := reduceUnits s r k p
    withOrder s r (fun s1 => recordAccess s1 us true (fun s2 =>
      if o.toNat = 0x18 then
        let jc := (rx s (x.toNat + 1)).toNat
        let j := field jc 0 32
        let c := field jc 32 32
        let first := match r.resolve (r.offset k 0) 4 with
          | .at y => r.address y
          | _ => r.address (r.offset k 0)
        if c = 0 ∨ c ≤ j then slotFail s2 .bounds first
        else contributeWords (sequenceName s2 s2.issue.core first) j c (rva s v) us s2
      else reduceWords o.toNat (rva s v) us s2))))

/-! ## Prefetch (R159) -/

/-- An address whose page is unmapped or protected against reads. -/
def hintFails (s : State) (a : Nat) : Bool :=
  match classify a with
  | some (.global, va) =>
    match xlatCtx s (ctxOfCore s s.issue.core) va with
    | .pkg _ rd _ => !rd
    | .remote _ _ _ rd _ => !rd
    | _ => true
  | _ => true

/-- The walks that a hint makes for some addresses: a malformed one is reported, once for a page (R328, R348). -/
def reportHints (s : State) (as_ : List Nat) : State :=
  (as_.foldl (fun acc a => insertNat (a / 65536) acc) []).foldl (fun st p => reportPage st (slotOfCore s s.issue.core) (65536 * p)) s

/-- The pages of a unit of a hint in global memory, by an address in each. -/
def hintPages (s : State) (b : Record) (o : Int) (size : Nat) : List Nat :=
  match b.resolve o size with
  | .at x => if b.space = 0 then (pageParts (pageBits s (ctxOfCore s s.issue.core) (b.address x)) (b.address x) size).map (fun q => q.2.2) else []
  | _ => []

/-- A unit of a hint that is dropped and counted: unmapped or protected in either of its pages (R159, R335, R427). -/
def hintDropped (s : State) (b : Record) (o : Int) (size : Nat) : Bool := (hintPages s b o size).any (hintFails s)

/-- Dropped hints added to the context's counter, which saturates (R335). -/
def countDrops (s : State) (n : Nat) : State :=
  modCtx s (slotOfCore s s.issue.core) (fun c =>
    { c with hintDrops := BitVec.ofNat 64 (min (c.hintDrops.toNat + n) (2 ^ 64 - 1)) })

/-- VPREF (R159): a hint; nothing changes but the page-table events of its walks (R348) and the hint-drop counter, to which a dropped element or image adds 1 (DESIGN CHOICE: the
spec counts elements and lines, and an image is one unit here; log entry 67). -/
def execVpref (b : BitVec 6) (x : BitVec 5) (p : BitVec 3) (i : BitVec 8) (s : State) : Out :=
  .next (withRecord s b (rowRecordOk p) (fun r =>
    let k := rowStart s x i
    let units : List (Int × Nat) :=
      if isElementFmt r.fmt then
        ((upTo (256 / fmtSize r.fmt)).filter (vmEnabled s p (fmtSize r.fmt))).map (fun t => (r.offset ((k + t : Nat) : Int) 0, fmtSize r.fmt))
      else [(r.offset k 0, imageBytes r.fmt)]
    let s1 := reportHints s (units.flatMap (fun u => hintPages s r u.1 u.2))
    countDrops s1 (units.filter (fun u => hintDropped s r u.1 u.2)).length))

end Sys2Proof.Machine
end

