-- ==== Sys2Proof/Machine/Matrix.lean ====
section
/-!
DEFINITION. The matrix instructions (R160 to R181). An issued instruction waits in the unit's queue; its rows are read, its
results formed and landed in the order of issue by the events of the matrix unit (R166, R167, R179).
-/
namespace Sys2Proof.Machine

/-- MX_NOP (R65). -/
def execMxNop (s : State) : Out := .next s

/-! ## Operand formats and rows (R160 to R162) -/

/-- The packed elements of a row without its block scales, and the scale byte of each group (R161, R162). -/
def splitRow (c row : Nat) : Nat × List Nat :=
  let groups := mxK c / 32
  if isBlockFmt c then
    let n := blockBytes c
    (packList (8 * (n - 1)) ((upTo groups).map (fun g => field row (8 * (n * g + 1)) (8 * (n - 1)))),
     (upTo groups).map (fun g => field row (8 * n * g) 8))
  else (row % 2 ^ (mxK c * fmtBits c), List.replicate groups 127)

/-- Element k of packed elements of a matrix format, without its block scale (R161, R51). -/
def mxElem (c packed k : Nat) : Val :=
  if c = 0x11 ∨ c = 0x21 then valOfInt (o4Elem packed k)
  else if isBlockFmt c then decodeFmt (blockElemFmt c) (packedElem (fmtBits c) packed k)
  else
    match fmtOfCode c with
    | some f => decodeFmt f (packedElem (fmtBits c) packed k)
    | none => .nan

/-- The groups of 32 elements of a row with their scale bytes (R163). -/
def mxGroups (c packed : Nat) (scales : List Nat) : List (List Val × Nat) :=
  (upTo (mxK c / 32)).map (fun g => ((upTo 32).map (fun i => mxElem c packed (32 * g + i)), scales.getD g 127))

/-- The groups of an activation row. -/
def rowGroups (c row : Nat) : List (List Val × Nat) :=
  let (e, ss) := splitRow c row
  mxGroups c e ss

/-- The groups of a column of a weight plane. -/
def Plane.groups (p : Plane) (n : Nat) : List (List Val × Nat) :=
  mxGroups p.fmt (spGet 0 p.cols n).toNat ((upTo 8).map (fun g => p.scale n g))

/-- One accumulator element: the group sums added in ascending k (R163, R170). -/
def accumulateElem (acc : Nat) (a w : List (List Val × Nat)) : WithFlags Nat :=
  (a.zip w).foldl (fun r g =>
    let x := g.1
    let y := g.2
    accumulateGroup r (groupSum (x.1.zip y.1) ((x.2 : Int) - 127 + ((y.2 : Int) - 127)) (x.2 == 255 || y.2 == 255))) (acc, 0)

/-- One activation row through a plane into an accumulator row (R170). -/
def mmaRow (p : Plane) (fmt row : Nat) (old : Vec) (zero : Bool) : Vec × FpFlags :=
  let a := rowGroups fmt row
  let rs := (upTo 64).map (fun n => accumulateElem (if zero then 0 else elem old 4 n) a (p.groups n))
  (vecOf 4 (rs.map (fun r => r.1)), flagsOf rs)

/-- Rows into an accumulator from row `first` on (R170). -/
def mmaRows (p : Plane) (fmt k : Nat) (zero : Bool) : Nat → List Nat → MatrixUnit → MatrixUnit × FpFlags
  | _, [], m => (m, 0)
  | first, row :: rows, m =>
    let (v, f) := mmaRow p fmt row (m.readRow k first) zero
    let (m1, g) := mmaRows p fmt k zero (first + 1) rows (m.writeRow k first v)
    (m1, f ||| g)

/-- 64 rows latched into a plane: row n becomes column n (R162, R169). -/
def latchPlane (fmt : Nat) (rows : List Nat) : Plane :=
  let cols := ((upTo 64).zip rows).foldl (fun m e => spSet 0 m e.1 (BitVec.ofNat 2048 (splitRow fmt e.2).1)) ([] : Sparse Vec)
  let scales := ((upTo 64).zip rows).foldl (fun m e =>
    ((upTo 8).zip (splitRow fmt e.2).2).foldl (fun q x => spSet 127 q (8 * e.1 + x.1) x.2) m) ([] : Sparse Nat)
  { fmt := fmt, cols := cols, scales := scales }

/-- A plane of the unit replaced. -/
def MatrixUnit.setPlane (m : MatrixUnit) (i : Nat) (p : Plane) : MatrixUnit := { m with planes := spSet {} m.planes i p }

/-! ## The online-softmax step (R175) -/

/-- What one row of MSM makes: the probabilities as BF16, the new cm, cl and output row, and the flags. -/
structure SoftRow where
  p : List Nat
  cm : Nat
  cl : Nat
  co : Vec
  flags : FpFlags
deriving DecidableEq, Repr

/-- exp2 rounded to FP32 (R57). -/
def exp2Fp32 (x : Nat) : WithFlags Nat := specialElem .exp2 fp32 x

/-- An FP32 pattern is a NaN (R46). -/
def isNanFp32 (x : Nat) : Bool := decide (0x7F800000 < x % 2 ^ 31)

/-- One score row of MSM (R175): a NaN in clo makes m' a NaN too, as one in cmo or a score does. -/
def softRow (sigma : Nat) (cs co : Vec) (m l : Nat) : SoftRow :=
  let t := (upTo 64).map (fun j => mulFp32 sigma (elem cs 4 j))
  let m1 := if isNanFp32 l then fp32Nan else (t.map (fun x => x.1)).foldl maxFp32 (maxFp32 m m)
  let low := m1 == fp32NegInf
  let d := if low then [] else t.map (fun x => subFp32 x.1 m1)
  let e := d.map (fun x => exp2Fp32 x.1)
  let b := e.map (fun x => encodeFloat bf16 0 false 0 (decodeFloat fp32 x.1))
  let ps := if low then List.replicate 64 0 else b.map (fun x => x.1)
  let da := if low then (0, 0) else subFp32 m m1
  let alpha := if low then (fp32One, 0) else exp2Fp32 da.1
  let sum := ps.foldl (fun r x => addFlagged r (x * 2 ^ 16, 0)) ((0, 0) : WithFlags Nat)
  let lm := mulFp32 l alpha.1
  let ln := addFp32 lm.1 sum.1
  let os := (upTo 64).map (fun j => mulFp32 (elem co 4 j) alpha.1)
  { p := ps, cm := m1, cl := ln.1, co := vecOf 4 (os.map (fun x => x.1))
    flags := flagsOf t ||| flagsOf d ||| flagsOf e ||| flagsOf b ||| da.2 ||| alpha.2 ||| sum.2 ||| lm.2 ||| ln.2 ||| flagsOf os }

/-- Row r of an MSM on the unit as it stands. -/
def msmRow (m : MatrixUnit) (o : MxOp) (r : Nat) : SoftRow :=
  let i := o.row + r
  softRow o.shape.toNat (m.readRow o.acc i) (m.readRow o.out i) (elem (m.readSide false o.out) 4 i) (elem (m.readSide true o.out) 4 i)

/-- A side register with one row's value replaced. -/
def setLane (v : Vec) (i x : Nat) : Vec :=
  mergeBytes (byteMask 4 64 (fun j => j == i)) (BitVec.ofNat 2048 (x * 2 ^ (32 * i))) v

/-- The rows of an MSM land (R175). -/
def msmLand (o : MxOp) : List Nat → MatrixUnit → MatrixUnit × FpFlags
  | [], m => (m, 0)
  | r :: rs, m =>
    let x := msmRow m o r
    let i := o.row + r
    let m1 := m.writeRow o.out i x.co
    let m2 := m1.writeSide false o.out (setLane (m1.readSide false o.out) i x.cm)
    let m3 := m2.writeSide true o.out (setLane (m2.readSide true o.out) i x.cl)
    let (m4, f) := msmLand o rs m3
    (m4, x.flags ||| f)

/-! ## Narrowed output (R178) -/

/-- The bytes of 64 values in a format (R178). -/
def moutBytes (c : Nat) : Nat := if isBlockFmt c then 2 * blockBytes c else 64 * fmtBits c / 8

/-- Formats that MOUT accepts (R168). -/
def moutFmt (c : Nat) : Bool := isElementFmt c || (decide (0x0D ≤ c) && decide (c ≤ 0x11)) || isBlockFmt c

/-- One row of MOUT in the ring's format (R178). -/
def moutRow (c f1 : Nat) (row : Vec) : WithFlags Nat :=
  let vs := (upTo 64).map (fun j => (decodeFloat fp32 (elem row 4 j), 0))
  let mode := field f1 8 3
  if isBlockFmt c || c == 0x11 then encodeImage c mode vs
  else
    match fmtOfCode c with
    | some f => encodePlainList f (fmtBits c) mode (bitAt f1 11) vs
    | none => (0, 0)

/-! ## Issue conditions (R164 to R168, R172, R180) -/

/-- The format that a plane holds after every earlier MX instruction of its core (R168). -/
def planeFmtAfter (m : MatrixUnit) (pl : Nat) : Nat :=
  m.queue.foldl (fun f o =>
    match o.kind with
    | .mwl => if o.plane = pl then o.fmt else f
    | .mtl => if o.reload && (o.plane != pl || decide (2 < o.steps)) && decide (1 < o.steps) then o.wfmt else f
    | _ => f) (m.plane pl).fmt

/-- The checks of a ring whose rows are read: enabled, capacity, slot size and an accepted format (R168). -/
def readRingOk (r : Ring) (count : Nat) : Bool :=
  r.cap != 0 && decide (count ≤ r.cap) && mxClass r.fmt != 0 && decide (mxRowBytes r.fmt ≤ r.slot)

/-- A ring is as MMA and MTL need it with a plane of their core (R168). -/
def activationOk (m : MatrixUnit) (r : Ring) (count pl : Nat) : Bool :=
  readRingOk r count && mxClass r.fmt == mxClass (planeFmtAfter m pl)

/-- The array accepts the next instruction: its occupancy has passed and no MTL is running (R180, R173). -/
def arrayFree (c : Core) : Bool := decide (c.mx.busy ≤ c.now) && !c.mx.queue.any (fun o => o.kind == .mtl)

/-- An unfinished instruction still reads a plane (R180). -/
def planeRead (m : MatrixUnit) (pl : Nat) : Bool :=
  m.queue.any (fun o => (o.kind == .mma || o.kind == .mmz || o.kind == .mmg) && o.plane == pl)

/-- The places of the next `count` filled slots of a ring of a core. -/
def filledPlaces (n : Nat) (r : Ring) (count : Nat) : List Nat :=
  (upTo count).map (fun i => corePlace n (r.slotOffset ((r.head + i) % r.cap)))

/-- The places of the next `count` free slots. -/
def freePlaces (n : Nat) (r : Ring) (count : Nat) : List Nat :=
  (upTo count).map (fun i => corePlace n (r.slotOffset ((r.tail + i) % r.cap)))

/-- A reader claims the oldest filled slots (R167). -/
def claimRows (s : State) (n q count : Nat) : State :=
  modCore s n (fun c =>
    let r := c.regs.ring q
    { c with regs := c.regs.setRing q { r with filled := r.filled - count, head := (r.head + count) % r.cap } })

/-- A writer claims free slots (R167). -/
def claimFree (s : State) (n q count : Nat) : State :=
  modCore s n (fun c =>
    let r := c.regs.ring q
    { c with regs := c.regs.setRing q { r with free := r.free - count, tail := (r.tail + count) % r.cap } })

/-- An MX instruction enters the queue; the array, or the load path, is occupied for some cycles (R180). -/
def issueMx (s : State) (n cycles : Nat) (load : Bool) (o : MxOp) : State :=
  modCore s n (fun c =>
    { c with
      nextId := c.nextId + 1
      mx := { c.mx with
        queue := c.mx.queue ++ [{ o with id := c.nextId }]
        busy := if load then c.mx.busy else c.now + cycles
        loadBusy := if load then c.now + cycles else c.mx.loadBusy } })

/-! ## Weight load and multiply-accumulate -/

/-- MWL (R169). -/
def execMwl (q : BitVec 4) (l : BitVec 1) (s : State) : Out :=
  let n := s.issue.core
  let c := curCore s
  let r := c.regs.ring q.toNat
  if c.now < c.mx.loadBusy ∨ planeRead c.mx l.toNat ∨ c.mx.queue.any (fun o => o.kind == .mtl) then .next (slotHold s)
  else if !readRingOk r 64 then .next (slotFail s .ring 0)
  else if r.filled < 64 then .next (slotHold s)
  else
    .next (issueMx (claimRows s n q.toNat 64) n 64 true
      { id := 0, kind := .mwl, ring := q.toNat, plane := l.toNat, count := 64, fmt := r.fmt, slots := filledPlaces n r 64 })

/-- MMA or MMZ (R170). -/
def multiply (s : State) (kind : MxKind) (c : BitVec 2) (q : BitVec 4) (k : BitVec 6) (l : BitVec 1) (row : BitVec 6) : Out :=
  let n := s.issue.core
  let u := curCore s
  let r := u.regs.ring q.toNat
  let count := k.toNat + 1
  if !arrayFree u || slotInterlocked s (.acc c.toNat) then .next (slotHold s)
  else if !activationOk u.mx r count l.toNat then .next (slotFail s .ring 0)
  else if r.filled < count then .next (slotHold s)
  else
    .next (issueMx (claimRows s n q.toNat count) n count false
      { id := 0, kind := kind, acc := c.toNat, ring := q.toNat, plane := l.toNat, row := row.toNat, count := count,
        zero := kind == .mmz, fmt := r.fmt, slots := filledPlaces n r count })

/-- MMA (R170). -/
def execMma (c : BitVec 2) (q : BitVec 4) (n : BitVec 6) (l : BitVec 1) (r : BitVec 6) (s : State) : Out :=
  multiply s .mma c q n l r

/-- MMZ (R170). -/
def execMmz (c : BitVec 2) (q : BitVec 4) (n : BitVec 6) (l : BitVec 1) (r : BitVec 6) (s : State) : Out :=
  multiply s .mmz c q n l r

/-- The physical core of member j of a core's cluster (R165). -/
def memberOf (n j : Nat) : Nat := n / 16 * 16 + j

/-- The ILLEGAL conditions of an MX word that depend on the core, decided at fetch (R165). -/
def mxIllegal (c : Core) : Instr → Bool
  | .mmg _ _ _ _ _ _ => c.logical % 16 != 0
  | .mwait g => g == 1 && c.logical % 16 == 0
  | _ => false

/-- The RING checks of MMG: every source ring and every member's plane (R172). -/
def gangRingsOk (s : State) (n q count pl : Nat) : Bool :=
  (upTo 16).all (fun j => activationOk (getCore s (memberOf n j)).mx ((getCore s (memberOf n (j / 4 * 4))).regs.ring q) count pl)

/-- The members are held at an MWAIT GANG, whose own gang is not done yet, their earlier work finished and none is being saved
(R172, R181). -/
def gangJoined (s : State) (n k : Nat) : Bool :=
  (upTo 15).all (fun i =>
    let c := getCore s (memberOf n (i + 1))
    c.mx.joined && !c.mx.gangDone && c.mx.queue.isEmpty && c.status == .running && !c.interlocked (.acc k))

/-- Each source ring holds the rows (R172). -/
def gangRowsReady (s : State) (n q count : Nat) : Bool :=
  (upTo 4).all (fun b => decide (count ≤ ((getCore s (memberOf n (4 * b))).regs.ring q).filled))

/-- MMG starts on member j: the source of its band claims and reads the rows for the band (R171). -/
def gangMember (s : State) (n k q count pl row : Nat) (zero : Bool) (j : Nat) : State :=
  let m := memberOf n j
  let src := memberOf n (j / 4 * 4)
  let r := (getCore s src).regs.ring q
  let lead := j % 4 == 0
  let band := (upTo 4).map (fun i => memberOf n (j / 4 * 4 + i))
  issueMx s m count false
    { id := 0, kind := .mmg, acc := k, ring := q, plane := pl, row := row, count := count, zero := zero, fmt := r.fmt,
      gang := if lead then band else [], slots := if lead then filledPlaces src r count else [] }

/-- MMG (R171, R172). -/
def execMmg (c : BitVec 2) (q : BitVec 4) (k : BitVec 6) (l z : BitVec 1) (row : BitVec 6) (s : State) : Out :=
  let n := s.issue.core
  let count := k.toNat + 1
  if mxIllegal (curCore s) (.mmg c q k l z row) then .next (slotFail s .illegal 0)
  else if !arrayFree (curCore s) || slotInterlocked s (.acc c.toNat) || !gangJoined s n c.toNat then .next (slotHold s)
  else if !gangRingsOk s n q.toNat count l.toNat then .next (slotFail s .ring 0)
  else if !gangRowsReady s n q.toNat count then .next (slotHold s)
  else
    let s1 := (upTo 16).foldl (fun st j => gangMember st n c.toNat q.toNat count l.toNat row.toNat (z == 1) j) s
    .next ((upTo 4).foldl (fun st b => claimRows st (memberOf n (4 * b)) q.toNat count) s1)

/-! ## The macro sequencer (R173) -/

/-- The fields of F2 that MTL reads are well formed (R164). -/
def mtlFieldOk (f2 q : Nat) : Bool := f2 / 2 ^ 18 == 0 && !(bitAt f2 16 && field f2 12 4 == q)

/-- The cycles that one MTL step occupies the array (Table 7.5). -/
def mtlCycles (o : MxOp) : Nat := if o.reload && decide (o.step + 1 < o.steps) then max o.count 64 else o.count

/-- MTL (R173): only step 0's rows are needed for issue. The field it reads is checked once nothing holds it (R75, R164); of two
failing checks the smaller cause counts (R76). -/
def execMtl (c : BitVec 2) (q : BitVec 4) (k : BitVec 6) (l : BitVec 1) (m : BitVec 2) (row : BitVec 6) (s : State) : Out :=
  let n := s.issue.core
  let u := curCore s
  let f2 := (u.regs.readShape 1 m.toNat 2).toNat
  let reload := bitAt f2 16
  let wq := field f2 12 4
  let r := u.regs.ring q.toNat
  let wr := u.regs.ring wq
  let count := k.toNat + 1
  if !arrayFree u || slotInterlocked s (.acc c.toNat) || (reload && decide (u.now < u.mx.loadBusy)) then .next (slotHold s)
  else if !activationOk u.mx r count l.toNat || (reload && !(readRingOk wr 64 && mxClass wr.fmt == mxClass r.fmt)) then
    .next (slotFail s (if mtlFieldOk f2 q.toNat then .ring else .illegal) 0)
  else if r.filled < count then .next (slotHold s)
  else if !mtlFieldOk f2 q.toNat then .next (slotFail s .illegal 0)
  else
    let o : MxOp :=
      { id := 0, kind := .mtl, acc := c.toNat, ring := q.toNat, wring := wq, plane := l.toNat, row := row.toNat,
        count := count, zero := bitAt f2 17, fmt := r.fmt, wfmt := wr.fmt, steps := field f2 0 12 + 1, reload := reload,
        stepping := true, slots := filledPlaces n r count }
    .next (issueMx (claimRows s n q.toNat count) n (mtlCycles o) false o)

/-! ## Softmax, clear, side registers and output (R175 to R178) -/

/-- A ring that rows of `bytes` bytes are pushed to (R168). -/
def writeRingOk (r : Ring) (count bytes : Nat) (fmtOk : Bool) : Bool :=
  r.cap != 0 && decide (count ≤ r.cap) && fmtOk && decide (bytes ≤ r.slot)

/-- MSM (R175). -/
def execMsm (c : BitVec 2) (q : BitVec 4) (k : BitVec 6) (m : BitVec 2) (row : BitVec 6) (o : BitVec 2) (s : State) : Out :=
  let n := s.issue.core
  let u := curCore s
  let r := u.regs.ring q.toNat
  let count := k.toNat + 1
  if !arrayFree u || slotInterlocked s (.acc c.toNat) || slotInterlocked s (.acc o.toNat) then .next (slotHold s)
  else if !writeRingOk r count 128 (r.fmt == 0x09) then .next (slotFail s .ring 0)
  else if r.free < count then .next (slotHold s)
  else
    .next (issueMx (claimFree s n q.toNat count) n (4 * count) false
      { id := 0, kind := .msm, acc := c.toNat, out := o.toNat, ring := q.toNat, row := row.toNat, count := count,
        shape := u.regs.readShape 1 m.toNat 0, fmt := r.fmt, outs := freePlaces n r count })

/-- An MX instruction without rows: MCLR or MSIDE. -/
def plainMx (s : State) (k : BitVec 2) (o : MxOp) : Out :=
  if !arrayFree (curCore s) || slotInterlocked s (.acc k.toNat) then .next (slotHold s)
  else .next (issueMx s s.issue.core 1 false o)

/-- MCLR (R176). -/
def execMclr (c : BitVec 2) (z : BitVec 1) (s : State) : Out :=
  plainMx s c { id := 0, kind := .mclr, acc := c.toNat, zero := z == 1 }

/-- MSIDE (R177): `o` is the operation, 0 RESET, 1 CM, 2 CL, and `m` names the shape register. -/
def execMside (c : BitVec 2) (o m : BitVec 2) (s : State) : Out :=
  plainMx s c { id := 0, kind := .mside, acc := c.toNat, out := o.toNat, shape := (curCore s).regs.readShape 1 m.toNat 3 }

/-- The field F1 that MOUT reads is well formed (R164). -/
def moutFieldOk (f1 : Nat) : Bool := f1 / 2 ^ 12 == 0 && f1 % 256 == 0 && field f1 8 3 != 5 && field f1 8 3 != 7

/-- MOUT (R178); its field is checked as MTL's is (R75, R164). -/
def execMout (c : BitVec 2) (q : BitVec 4) (k : BitVec 6) (m : BitVec 2) (row : BitVec 6) (s : State) : Out :=
  let n := s.issue.core
  let u := curCore s
  let f1 := u.regs.readShape 1 m.toNat 1
  let r := u.regs.ring q.toNat
  let count := k.toNat + 1
  if !arrayFree u || slotInterlocked s (.acc c.toNat) then .next (slotHold s)
  else if !writeRingOk r count (moutBytes r.fmt) (moutFmt r.fmt) then
    .next (slotFail s (if moutFieldOk f1.toNat then .ring else .illegal) 0)
  else if r.free < count then .next (slotHold s)
  else if !moutFieldOk f1.toNat then .next (slotFail s .illegal 0)
  else
    .next (issueMx (claimFree s n q.toNat count) n count false
      { id := 0, kind := .mout, acc := c.toNat, ring := q.toNat, row := row.toNat, count := count, shape := f1, fmt := r.fmt,
        outs := freePlaces n r count })

/-- MWAIT: held until the unit has finished; MWAIT GANG joins and is held until the gang's results have landed (R172,
R179). -/
def execMwait (g : BitVec 1) (s : State) : Out :=
  let c := curCore s
  if mxIllegal c (.mwait g) then .next (slotFail s .illegal 0)
  else if g = 1 then
    if c.mx.gangDone then .next (modCur s (fun k => { k with mx := { k.mx with joined := false, gangDone := false } }))
    else .next (slotHold (modCur s (fun k => { k with mx := { k.mx with joined := true } })))
  else if c.mx.queue.isEmpty then .next s
  else .next (slotHold s)

/-! ## Events of the matrix unit -/

/-- A slot of a ring of a core becomes free. -/
def freeSlot (s : State) (n q : Nat) : State :=
  modCore s n (fun c => { c with regs := c.regs.setRing q { c.regs.ring q with free := (c.regs.ring q).free + 1 } })

/-- The first operation of a core with claimed rows that it has not read. -/
def readerOf (c : Core) : Option MxOp := c.mx.queue.find? (fun o => !o.slots.isEmpty || !o.wslots.isEmpty)

/-- MX_SLOT_RELEASE (R167): the array reads the next claimed row and its slot is released. -/
def execMxSlotRelease (core : Nat) (s : State) : Out :=
  match readerOf (getCore s core) with
  | none => .next s
  | some o =>
    match o.slots, o.wslots with
    | p :: rest, _ =>
      let row := rawNat s p (mxRowBytes o.fmt)
      let s := loads s (.engine core) p (mxRowBytes o.fmt)
      if o.gang.isEmpty then
        let s1 := if o.kind = .mwl then s else countMacs s core
        .next (freeSlot (modCore s1 core (fun c => setMxOp c { o with slots := rest, rows := o.rows ++ [row] })) core o.ring)
      else
        let s1 := freeSlot (modCore s core (fun c => setMxOp c { o with slots := rest })) core o.ring
        .next (o.gang.foldl (fun st m => giveRow (countMacs st m) m row .mmg) s1)
    | [], p :: rest =>
      let row := rawNat s p (mxRowBytes o.wfmt)
      let s := loads s (.engine core) p (mxRowBytes o.wfmt)
      .next (freeSlot (modCore s core (fun c => setMxOp c { o with wslots := rest, wrows := o.wrows ++ [row] })) core o.wring)
    | [], [] => .next s

/-- The row that an operation pushes next, with its bytes (R175, R178). -/
def nextOut (c : Core) (o : MxOp) : Nat :=
  let r := o.count - o.outs.length
  match o.kind with
  | .msm => packList 16 (msmRow c.mx o r).p
  | _ => (moutRow o.fmt o.shape.toNat (c.mx.readRow o.acc (o.row + r))).1

/-- MX_ROW_PUSH (R167): the oldest instruction pushes its next row; the rest of the slot is 0 (R161). -/
def execMxRowPush (core : Nat) (s : State) : Out :=
  let c := getCore s core
  match c.mx.queue with
  | [] => .next s
  | o :: _ =>
    match o.outs with
    | [] => .next s
    | p :: rest =>
      let r := c.regs.ring o.ring
      let s1 := writeAs s (.engine core) p (bytesOf r.slot (nextOut c o))
      .next (modCore s1 core (fun k =>
        { setMxOp k { o with outs := rest } with
          regs := k.regs.setRing o.ring { k.regs.ring o.ring with filled := (k.regs.ring o.ring).filled + 1 } }))

/-- The plane that an MTL step uses (R173). -/
def mtlPlane (o : MxOp) : Nat := if o.reload then (o.plane + o.step) % 2 else o.plane

/-- The current MTL step has read what it needs. -/
def mtlStepRead (o : MxOp) : Bool :=
  o.rows.length == o.count && (!(o.reload && decide (o.step + 1 < o.steps)) || o.wrows.length == 64)

/-- The current MTL step completes with its overlapped MWL: rows accumulated, plane latched (R173). -/
def mtlComplete (c : Core) (o : MxOp) : Core :=
  let pl := mtlPlane o
  let (m1, f) := mmaRows (c.mx.plane pl) o.fmt o.acc (o.zero && o.step == 0) o.row o.rows c.mx
  let m2 := if o.reload && decide (o.step + 1 < o.steps) then m1.setPlane (1 - pl) (latchPlane o.wfmt o.wrows) else m1
  setMxOp { c with mx := m2 }
    { o with step := o.step + 1, stepping := false, wclaimed := false, rows := [], wrows := [], flags := o.flags ||| f }

/-- MTL_STEP (R173, R174): the oldest instruction, an MTL, claims the weight rows of its step, completes its step, or begins
the next one when the rows are there. -/
def execMtlStep (core : Nat) (s : State) : Out :=
  let c := getCore s core
  match c.mx.queue with
  | [] => .next s
  | o :: _ =>
    if o.kind ≠ .mtl then .next s
    else if o.stepping then
      let wr := c.regs.ring o.wring
      if o.reload && decide (o.step + 1 < o.steps) && !o.wclaimed && decide (64 ≤ wr.filled) then
        .next (modCore (claimRows s core o.wring 64) core (fun k =>
          setMxOp k { o with wclaimed := true, wslots := filledPlaces core wr 64 }))
      else if mtlStepRead o then .next (modCore s core (fun k => mtlComplete k o))
      else .next s
    else
      let r := c.regs.ring o.ring
      if o.step < o.steps ∧ o.count ≤ r.filled ∧ c.status = .running then
        .next (modCore (claimRows s core o.ring o.count) core (fun k =>
          { setMxOp k { o with stepping := true, slots := filledPlaces core r o.count } with
            mx := { (setMxOp k { o with stepping := true, slots := filledPlaces core r o.count }).mx with
                    busy := k.now + mtlCycles o } }))
      else .next s

/-- The oldest instruction has read, or pushed, every row, and an MTL has done every step: it can finish. -/
def mxReady (o : MxOp) : Bool :=
  match o.kind with
  | .mwl => o.rows.length == 64
  | .mma | .mmz | .mmg => o.rows.length == o.count
  | .mtl => o.step == o.steps
  | .msm | .mout => o.outs.isEmpty
  | .mclr | .mside => true

/-- The results of an instruction on its unit, with the flags they raise (R163, R169 to R178). -/
def mxResult (m : MatrixUnit) (o : MxOp) : MatrixUnit × FpFlags :=
  match o.kind with
  | .mwl => (m.setPlane o.plane (latchPlane o.fmt o.rows), 0)
  | .mma | .mmz | .mmg => mmaRows (m.plane o.plane) o.fmt o.acc o.zero o.row o.rows m
  | .mtl => (m, o.flags)
  | .msm => msmLand o (upTo o.count) m
  | .mout => (m, flagsOf ((upTo o.count).map (fun r => moutRow o.fmt o.shape.toNat (m.readRow o.acc (o.row + r)))))
  | .mclr =>
    let m1 := { m with acc := spClear m.acc (64 * o.acc) (64 * o.acc + 64) }
    (if o.zero then (m1.writeSide false o.acc cmRest).writeSide true o.acc 0 else m1, 0)
  | .mside =>
    match o.out with
    | 0 => ((m.writeSide false o.acc cmRest).writeSide true o.acc 0, 0)
    | 1 => (m.writeSide false o.acc (vecOf 4 (List.replicate 64 o.shape.toNat)), 0)
    | _ => (m.writeSide true o.acc (vecOf 4 (List.replicate 64 o.shape.toNat)), 0)

/-- MX_FINISH (R166, R179): the oldest instruction's results land, its flags are set, and a joined member's gang operation
is done (R172); a save that awaits it sees progress (R326). -/
def execMxFinish (core : Nat) (s : State) : Out :=
  let c := getCore s core
  match c.mx.queue with
  | [] => .next s
  | o :: rest =>
    if !mxReady o then .next s
    else
      let (m, f) := mxResult c.mx o
      .next (savePulse (modCore s core (fun k =>
        { k with
          mx := { m with queue := rest, gangDone := m.gangDone || (o.kind == .mmg && m.joined) }
          dev := { k.dev with flags := k.dev.flags ||| f } })) (slotOfCore s core))

end Sys2Proof.Machine
end

