-- ==== Sys2Proof/Decode.lean ====
section
/-!
DEFINITION. Decoding (R63 to R73) and encoding of slot words. A slot word is decoded only by its own slot's format (R64).
The decoder answers none for a word that is no instruction of the slot's opcode maps (R73); the operand limits of the
instruction entries are WellFormed's. `encode` follows the same encoding tables.
-/
namespace Sys2Proof

/-- Bits lo to lo + n − 1 of a word (R3). -/
def bf (w lo n : Nat) : BitVec n := BitVec.ofNat n (w / 2 ^ lo)

/-- CTL words (R66, Table 3.2). -/
def decodeCtl (w : Nat) : Option Instr :=
  match w / 2097152 % 16 with
  | 0 =>
    if w % 2097152 = 0 then some (.next (bf w 28 4) (bf w 25 3))
    else none
  | 1 =>
    some (.br (bf w 28 4) (bf w 25 3) (bf w 18 3) (bf w 13 5) (bf w 0 13))
  | 2 =>
    some (.brp (bf w 28 4) (bf w 25 3) (bf w 20 1) (bf w 17 3) (bf w 15 2) (bf w 0 15))
  | 3 =>
    some (.jmp (bf w 28 4) (bf w 25 3) (bf w 0 21))
  | 4 =>
    some (.call (bf w 28 4) (bf w 25 3) (bf w 0 21))
  | 5 =>
    if w % 65536 = 0 then some (.jmpx (bf w 28 4) (bf w 25 3) (bf w 16 5))
    else none
  | 6 =>
    if w % 16 = 0 then some (.loop (bf w 28 4) (bf w 25 3) (bf w 16 5) (bf w 4 12))
    else none
  | 7 =>
    some (.loopi (bf w 28 4) (bf w 25 3) (bf w 9 12) (bf w 0 9))
  | 8 =>
    some (.waitc (bf w 28 4) (bf w 25 3) (bf w 0 21))
  | 9 =>
    if w / 65536 % 32 = 0 then some (.trap (bf w 28 4) (bf w 25 3) (bf w 0 16))
    else none
  | 10 =>
    if w % 2097152 = 0 then some (.eret (bf w 28 4) (bf w 25 3))
    else none
  | 11 =>
    if w % 2097152 = 0 then some (.done (bf w 28 4) (bf w 25 3))
    else none
  | 12 =>
    if w % 2097152 = 0 then some (.halt (bf w 28 4) (bf w 25 3))
    else none
  | 13 =>
    if w / 65536 % 32 = 0 then some (.brk (bf w 28 4) (bf w 25 3) (bf w 0 16))
    else none
  | 14 =>
    if w / 4096 % 512 = 0 then some (.iwait (bf w 28 4) (bf w 25 3) (bf w 0 12))
    else none
  | _ => none

/-- Words of SA and SB (R65, R67, R68, Tables 3.3, 4.3). -/
def decodeScalar (w : Nat) : Option Instr :=
  if w = 0 then some .scalarNop else
  match w % 128 with
  | 3 =>
    match w / 4096 % 8 with
    | 0 =>
      some (.lb (bf w 20 12) (bf w 15 5) (bf w 7 5))
    | 1 =>
      some (.lh (bf w 20 12) (bf w 15 5) (bf w 7 5))
    | 2 =>
      some (.lw (bf w 20 12) (bf w 15 5) (bf w 7 5))
    | 3 =>
      some (.ld (bf w 20 12) (bf w 15 5) (bf w 7 5))
    | 4 =>
      some (.lbu (bf w 20 12) (bf w 15 5) (bf w 7 5))
    | 5 =>
      some (.lhu (bf w 20 12) (bf w 15 5) (bf w 7 5))
    | 6 =>
      some (.lwu (bf w 20 12) (bf w 15 5) (bf w 7 5))
    | _ => none
  | 11 =>
    match w / 4096 % 8 with
    | 0 =>
      if w / 128 % 32 = 0 ∧ w / 1048576 % 64 = 0 then some (.shw (bf w 30 2) (bf w 28 2) (bf w 26 2) (bf w 15 5))
      else none
    | 1 =>
      if w / 32768 % 2048 = 0 then some (.shr (bf w 30 2) (bf w 28 2) (bf w 26 2) (bf w 7 5))
      else none
    | 2 =>
      if w / 128 % 32 = 0 ∧ w / 1048576 % 32 = 0 ∧ w / 2147483648 = 0 then some (.brld (bf w 25 6) (bf w 15 5))
      else none
    | 3 =>
      if w / 128 % 32 = 0 ∧ w / 1048576 % 32 = 0 ∧ w / 2147483648 = 0 then some (.brst (bf w 25 6) (bf w 15 5))
      else none
    | 4 =>
      if w / 32768 % 32 = 0 then some (.getd (bf w 25 7) (bf w 20 5) (bf w 7 5))
      else none
    | 5 =>
      if w / 128 % 32 = 0 then some (.setd (bf w 25 7) (bf w 20 5) (bf w 15 5))
      else none
    | 6 =>
      if w / 1048576 = 0 then some (.clz (bf w 15 5) (bf w 7 5))
      else if w / 1048576 = 32 then some (.ctz (bf w 15 5) (bf w 7 5))
      else if w / 1048576 = 64 then some (.popc (bf w 15 5) (bf w 7 5))
      else none
    | 7 =>
      if w / 128 % 32 = 0 ∧ w / 8388608 % 4 = 0 ∧ w / 1073741824 = 0 then some (.spillx (bf w 25 5) (bf w 20 3) (bf w 15 5))
      else if w / 32768 % 32 = 0 ∧ w / 8388608 % 4 = 0 ∧ w / 1073741824 = 2 then some (.fillx (bf w 25 5) (bf w 20 3) (bf w 7 5))
      else none
    | _ => none
  | 19 =>
    match w / 4096 % 8 with
    | 0 =>
      some (.addi (bf w 20 12) (bf w 15 5) (bf w 7 5))
    | 1 =>
      if w / 67108864 = 0 then some (.slli (bf w 20 6) (bf w 15 5) (bf w 7 5))
      else none
    | 2 =>
      some (.slti (bf w 20 12) (bf w 15 5) (bf w 7 5))
    | 3 =>
      some (.sltiu (bf w 20 12) (bf w 15 5) (bf w 7 5))
    | 4 =>
      some (.xori (bf w 20 12) (bf w 15 5) (bf w 7 5))
    | 5 =>
      if w / 67108864 = 0 then some (.srli (bf w 20 6) (bf w 15 5) (bf w 7 5))
      else if w / 67108864 = 16 then some (.srai (bf w 20 6) (bf w 15 5) (bf w 7 5))
      else none
    | 6 =>
      some (.ori (bf w 20 12) (bf w 15 5) (bf w 7 5))
    | 7 =>
      some (.andi (bf w 20 12) (bf w 15 5) (bf w 7 5))
    | _ => none
  | 27 =>
    match w / 4096 % 8 with
    | 0 =>
      some (.addiw (bf w 20 12) (bf w 15 5) (bf w 7 5))
    | 1 =>
      if w / 33554432 = 0 then some (.slliw (bf w 20 5) (bf w 15 5) (bf w 7 5))
      else none
    | 5 =>
      if w / 33554432 = 0 then some (.srliw (bf w 20 5) (bf w 15 5) (bf w 7 5))
      else if w / 33554432 = 32 then some (.sraiw (bf w 20 5) (bf w 15 5) (bf w 7 5))
      else none
    | _ => none
  | 35 =>
    match w / 4096 % 8 with
    | 0 =>
      some (.sb (bf w 25 7) (bf w 20 5) (bf w 15 5) (bf w 7 5))
    | 1 =>
      some (.sh (bf w 25 7) (bf w 20 5) (bf w 15 5) (bf w 7 5))
    | 2 =>
      some (.sw (bf w 25 7) (bf w 20 5) (bf w 15 5) (bf w 7 5))
    | 3 =>
      some (.sd (bf w 25 7) (bf w 20 5) (bf w 15 5) (bf w 7 5))
    | _ => none
  | 43 =>
    match w / 4096 % 8 with
    | 0 =>
      match w / 33554432 with
      | 0 =>
        if w / 1048576 % 32 = 0 then some (.ldfW (bf w 15 5) (bf w 7 5))
        else none
      | 1 =>
        if w / 1048576 % 32 = 0 then some (.ldfD (bf w 15 5) (bf w 7 5))
        else none
      | 2 =>
        if w / 1048576 % 32 = 0 then some (.ldfeW (bf w 15 5) (bf w 7 5))
        else none
      | 3 =>
        if w / 1048576 % 32 = 0 then some (.ldfeD (bf w 15 5) (bf w 7 5))
        else none
      | 4 =>
        if w / 1048576 % 32 = 0 then some (.ldt (bf w 15 5) (bf w 7 5))
        else none
      | _ => none
    | 1 =>
      match w / 33554432 with
      | 0 =>
        if w / 128 % 32 = 0 then some (.steW (bf w 20 5) (bf w 15 5))
        else none
      | 1 =>
        if w / 128 % 32 = 0 then some (.steD (bf w 20 5) (bf w 15 5))
        else none
      | 2 =>
        if w / 128 % 32 = 0 then some (.stfW (bf w 20 5) (bf w 15 5))
        else none
      | 3 =>
        if w / 128 % 32 = 0 then some (.stfD (bf w 20 5) (bf w 15 5))
        else none
      | 4 =>
        if w / 128 % 32 = 0 ∧ w / 1048576 % 32 = 0 then some (.sete (bf w 15 5))
        else none
      | 5 =>
        if w / 128 % 32 = 0 ∧ w / 1048576 % 32 = 0 then some (.setf (bf w 15 5))
        else none
      | _ => none
    | 2 =>
      match w / 33554432 with
      | 0 =>
        if w / 128 % 32 = 0 then some (.bari (bf w 20 5) (bf w 15 5))
        else none
      | 1 =>
        if w / 128 % 32 = 0 then some (.bara (bf w 20 5) (bf w 15 5))
        else none
      | 2 =>
        some (.barw (bf w 20 5) (bf w 15 5) (bf w 7 5))
      | 3 =>
        some (.baraw (bf w 20 5) (bf w 15 5) (bf w 7 5))
      | 4 =>
        if w / 128 % 32 = 0 then some (.barc (bf w 20 5) (bf w 15 5))
        else none
      | 5 =>
        if w / 1048576 % 32 = 0 then some (.bart (bf w 15 5) (bf w 7 5))
        else none
      | _ => none
    | 3 =>
      match w / 33554432 with
      | 0 =>
        some (.waitvEq (bf w 20 5) (bf w 15 5) (bf w 7 5))
      | 1 =>
        some (.waitvNe (bf w 20 5) (bf w 15 5) (bf w 7 5))
      | _ => none
    | _ => none
  | 51 =>
    match w / 4096 % 8 with
    | 0 =>
      match w / 33554432 with
      | 0 =>
        some (.add (bf w 20 5) (bf w 15 5) (bf w 7 5))
      | 1 =>
        some (.mul (bf w 20 5) (bf w 15 5) (bf w 7 5))
      | 32 =>
        some (.sub (bf w 20 5) (bf w 15 5) (bf w 7 5))
      | _ => none
    | 1 =>
      match w / 33554432 with
      | 0 =>
        some (.sll (bf w 20 5) (bf w 15 5) (bf w 7 5))
      | 1 =>
        some (.mulh (bf w 20 5) (bf w 15 5) (bf w 7 5))
      | _ => none
    | 2 =>
      match w / 33554432 with
      | 0 =>
        some (.slt (bf w 20 5) (bf w 15 5) (bf w 7 5))
      | 1 =>
        some (.mulhsu (bf w 20 5) (bf w 15 5) (bf w 7 5))
      | _ => none
    | 3 =>
      match w / 33554432 with
      | 0 =>
        some (.sltu (bf w 20 5) (bf w 15 5) (bf w 7 5))
      | 1 =>
        some (.mulhu (bf w 20 5) (bf w 15 5) (bf w 7 5))
      | _ => none
    | 4 =>
      match w / 33554432 with
      | 0 =>
        some (.xor (bf w 20 5) (bf w 15 5) (bf w 7 5))
      | 1 =>
        some (.div (bf w 20 5) (bf w 15 5) (bf w 7 5))
      | _ => none
    | 5 =>
      match w / 33554432 with
      | 0 =>
        some (.srl (bf w 20 5) (bf w 15 5) (bf w 7 5))
      | 1 =>
        some (.divu (bf w 20 5) (bf w 15 5) (bf w 7 5))
      | 32 =>
        some (.sra (bf w 20 5) (bf w 15 5) (bf w 7 5))
      | _ => none
    | 6 =>
      match w / 33554432 with
      | 0 =>
        some (.or (bf w 20 5) (bf w 15 5) (bf w 7 5))
      | 1 =>
        some (.rem (bf w 20 5) (bf w 15 5) (bf w 7 5))
      | _ => none
    | 7 =>
      match w / 33554432 with
      | 0 =>
        some (.and (bf w 20 5) (bf w 15 5) (bf w 7 5))
      | 1 =>
        some (.remu (bf w 20 5) (bf w 15 5) (bf w 7 5))
      | _ => none
    | _ => none
  | 55 =>
    some (.lui (bf w 12 20) (bf w 7 5))
  | 59 =>
    match w / 4096 % 8 with
    | 0 =>
      match w / 33554432 with
      | 0 =>
        some (.addw (bf w 20 5) (bf w 15 5) (bf w 7 5))
      | 1 =>
        some (.mulw (bf w 20 5) (bf w 15 5) (bf w 7 5))
      | 32 =>
        some (.subw (bf w 20 5) (bf w 15 5) (bf w 7 5))
      | _ => none
    | 1 =>
      if w / 33554432 = 0 then some (.sllw (bf w 20 5) (bf w 15 5) (bf w 7 5))
      else none
    | 4 =>
      if w / 33554432 = 1 then some (.divw (bf w 20 5) (bf w 15 5) (bf w 7 5))
      else none
    | 5 =>
      match w / 33554432 with
      | 0 =>
        some (.srlw (bf w 20 5) (bf w 15 5) (bf w 7 5))
      | 1 =>
        some (.divuw (bf w 20 5) (bf w 15 5) (bf w 7 5))
      | 32 =>
        some (.sraw (bf w 20 5) (bf w 15 5) (bf w 7 5))
      | _ => none
    | 6 =>
      if w / 33554432 = 1 then some (.remw (bf w 20 5) (bf w 15 5) (bf w 7 5))
      else none
    | 7 =>
      if w / 33554432 = 1 then some (.remuw (bf w 20 5) (bf w 15 5) (bf w 7 5))
      else none
    | _ => none
  | 91 =>
    match w / 134217728 with
    | 0 =>
      if w / 8192 % 4 = 1 then some (.amoadd (bf w 25 2) (bf w 20 5) (bf w 15 5) (bf w 12 1) (bf w 7 5))
      else none
    | 1 =>
      if w / 8192 % 4 = 1 then some (.amoswap (bf w 25 2) (bf w 20 5) (bf w 15 5) (bf w 12 1) (bf w 7 5))
      else none
    | 2 =>
      if w / 8192 % 4 = 1 then some (.amocas (bf w 25 2) (bf w 20 5) (bf w 15 5) (bf w 12 1) (bf w 7 5))
      else none
    | 3 =>
      if w / 8192 % 4 = 1 then some (.amoand (bf w 25 2) (bf w 20 5) (bf w 15 5) (bf w 12 1) (bf w 7 5))
      else none
    | 4 =>
      if w / 8192 % 4 = 1 then some (.amoor (bf w 25 2) (bf w 20 5) (bf w 15 5) (bf w 12 1) (bf w 7 5))
      else none
    | 5 =>
      if w / 8192 % 4 = 1 then some (.amoxor (bf w 25 2) (bf w 20 5) (bf w 15 5) (bf w 12 1) (bf w 7 5))
      else none
    | 6 =>
      if w / 8192 % 4 = 1 then some (.amomin (bf w 25 2) (bf w 20 5) (bf w 15 5) (bf w 12 1) (bf w 7 5))
      else none
    | 7 =>
      if w / 8192 % 4 = 1 then some (.amomax (bf w 25 2) (bf w 20 5) (bf w 15 5) (bf w 12 1) (bf w 7 5))
      else none
    | 8 =>
      if w / 8192 % 4 = 1 then some (.amominu (bf w 25 2) (bf w 20 5) (bf w 15 5) (bf w 12 1) (bf w 7 5))
      else none
    | 9 =>
      if w / 8192 % 4 = 1 then some (.amomaxu (bf w 25 2) (bf w 20 5) (bf w 15 5) (bf w 12 1) (bf w 7 5))
      else none
    | 10 =>
      if w / 4096 % 8 = 2 then some (.amofadd (bf w 25 2) (bf w 20 5) (bf w 15 5) (bf w 7 5))
      else none
    | 16 =>
      if w / 128 % 32 = 0 ∧ w / 8192 % 4 = 1 then some (.redadd (bf w 25 2) (bf w 20 5) (bf w 15 5) (bf w 12 1))
      else none
    | 17 =>
      if w / 128 % 32 = 0 ∧ w / 8192 % 4 = 1 then some (.redand (bf w 25 2) (bf w 20 5) (bf w 15 5) (bf w 12 1))
      else none
    | 18 =>
      if w / 128 % 32 = 0 ∧ w / 8192 % 4 = 1 then some (.redor (bf w 25 2) (bf w 20 5) (bf w 15 5) (bf w 12 1))
      else none
    | 19 =>
      if w / 128 % 32 = 0 ∧ w / 8192 % 4 = 1 then some (.redxor (bf w 25 2) (bf w 20 5) (bf w 15 5) (bf w 12 1))
      else none
    | 20 =>
      if w / 128 % 32 = 0 ∧ w / 8192 % 4 = 1 then some (.redmin (bf w 25 2) (bf w 20 5) (bf w 15 5) (bf w 12 1))
      else none
    | 21 =>
      if w / 128 % 32 = 0 ∧ w / 8192 % 4 = 1 then some (.redmax (bf w 25 2) (bf w 20 5) (bf w 15 5) (bf w 12 1))
      else none
    | 22 =>
      if w / 128 % 32 = 0 ∧ w / 8192 % 4 = 1 then some (.redminu (bf w 25 2) (bf w 20 5) (bf w 15 5) (bf w 12 1))
      else none
    | 23 =>
      if w / 128 % 32 = 0 ∧ w / 8192 % 4 = 1 then some (.redmaxu (bf w 25 2) (bf w 20 5) (bf w 15 5) (bf w 12 1))
      else none
    | 24 =>
      if w / 128 % 256 = 64 then some (.redfadd (bf w 25 2) (bf w 20 5) (bf w 15 5))
      else none
    | 25 =>
      if w / 4096 % 8 = 2 then some (.redofadd (bf w 25 2) (bf w 20 5) (bf w 15 5) (bf w 7 5))
      else none
    | 28 =>
      if w / 8192 % 4 = 1 ∧ w / 1048576 % 32 = 0 then some (.lda (bf w 25 2) (bf w 15 5) (bf w 12 1) (bf w 7 5))
      else none
    | 29 =>
      if w / 128 % 32 = 0 ∧ w / 8192 % 4 = 1 then some (.stl (bf w 25 2) (bf w 20 5) (bf w 15 5) (bf w 12 1))
      else none
    | 30 =>
      if w / 128 % 8192 = 0 ∧ w / 4194304 % 8 = 0 then some (.fence (bf w 25 2) (bf w 20 2))
      else none
    | _ => none
  | 123 =>
    match w / 4096 % 8 with
    | 0 =>
      if w / 32768 % 1024 = 0 ∧ w / 134217728 = 0 then some (.tget (bf w 26 1) (bf w 25 1) (bf w 7 5))
      else none
    | 1 =>
      if w / 128 % 32 = 0 ∧ w / 1048576 = 0 then some (.tdone (bf w 15 5))
      else if w / 128 % 32 = 0 ∧ w / 1048576 = 32 then some (.tabort (bf w 15 5))
      else none
    | 2 =>
      if w / 128 % 32 = 0 ∧ w / 33554432 = 0 then some (.tspawn (bf w 20 5) (bf w 15 5))
      else none
    | 3 =>
      if w / 33554432 = 0 then some (.launch (bf w 20 5) (bf w 15 5) (bf w 7 5))
      else none
    | 4 =>
      if w / 1048576 = 0 then some (.lwait (bf w 15 5) (bf w 7 5))
      else none
    | 5 =>
      if w / 32768 = 0 then some (.rand (bf w 7 5))
      else none
    | _ => none
  | _ => none

/-- Vector ALU words of VA and VB (R69, Table 3.4). -/
def decodeValu (w : Nat) : Option Instr :=
  match w / 67108864 with
  | 0 =>
    if w % 67108864 = 0 then some .valuNop
    else none
  | 1 =>
    if w % 256 = 0 then some (.vadd (bf w 23 3) (bf w 19 4) (bf w 15 4) (bf w 11 4) (bf w 8 3))
    else none
  | 2 =>
    if w % 256 = 0 then some (.vsub (bf w 23 3) (bf w 19 4) (bf w 15 4) (bf w 11 4) (bf w 8 3))
    else none
  | 3 =>
    if w % 256 = 0 then some (.vmul (bf w 23 3) (bf w 19 4) (bf w 15 4) (bf w 11 4) (bf w 8 3))
    else none
  | 4 =>
    if w / 2 % 128 = 0 then some (.vmulh (bf w 23 3) (bf w 19 4) (bf w 15 4) (bf w 11 4) (bf w 8 3) (bf w 0 1))
    else none
  | 5 =>
    if w % 256 = 0 then some (.vmac (bf w 23 3) (bf w 19 4) (bf w 15 4) (bf w 11 4) (bf w 8 3))
    else none
  | 6 =>
    if w % 256 = 0 then some (.vand (bf w 23 3) (bf w 19 4) (bf w 15 4) (bf w 11 4) (bf w 8 3))
    else none
  | 7 =>
    if w % 256 = 0 then some (.vor (bf w 23 3) (bf w 19 4) (bf w 15 4) (bf w 11 4) (bf w 8 3))
    else none
  | 8 =>
    if w % 256 = 0 then some (.vxor (bf w 23 3) (bf w 19 4) (bf w 15 4) (bf w 11 4) (bf w 8 3))
    else none
  | 9 =>
    if w / 32 % 4 = 0 then some (.vshl (bf w 23 3) (bf w 19 4) (bf w 15 4) (bf w 11 4) (bf w 8 3) (bf w 7 1) (bf w 0 5))
    else none
  | 10 =>
    if w / 32 % 4 = 0 then some (.vshr (bf w 23 3) (bf w 19 4) (bf w 15 4) (bf w 11 4) (bf w 8 3) (bf w 7 1) (bf w 0 5))
    else none
  | 11 =>
    if w / 32 % 4 = 0 then some (.vsra (bf w 23 3) (bf w 19 4) (bf w 15 4) (bf w 11 4) (bf w 8 3) (bf w 7 1) (bf w 0 5))
    else none
  | 12 =>
    if w / 2 % 128 = 0 then some (.vmin (bf w 23 3) (bf w 19 4) (bf w 15 4) (bf w 11 4) (bf w 8 3) (bf w 0 1))
    else none
  | 13 =>
    if w / 2 % 128 = 0 then some (.vmax (bf w 23 3) (bf w 19 4) (bf w 15 4) (bf w 11 4) (bf w 8 3) (bf w 0 1))
    else none
  | 14 =>
    if w % 256 = 0 ∧ w / 2048 % 16 = 0 then some (.vabs (bf w 23 3) (bf w 19 4) (bf w 15 4) (bf w 8 3))
    else none
  | 15 =>
    if w / 4 % 64 = 0 then some (.vadds (bf w 23 3) (bf w 19 4) (bf w 15 4) (bf w 11 4) (bf w 8 3) (bf w 1 1) (bf w 0 1))
    else none
  | 16 =>
    if w % 256 = 0 then some (.vfadd (bf w 23 3) (bf w 19 4) (bf w 15 4) (bf w 11 4) (bf w 8 3))
    else none
  | 17 =>
    if w % 256 = 0 then some (.vfsub (bf w 23 3) (bf w 19 4) (bf w 15 4) (bf w 11 4) (bf w 8 3))
    else none
  | 18 =>
    if w % 256 = 0 then some (.vfmul (bf w 23 3) (bf w 19 4) (bf w 15 4) (bf w 11 4) (bf w 8 3))
    else none
  | 19 =>
    if w % 256 = 0 then some (.vfma (bf w 23 3) (bf w 19 4) (bf w 15 4) (bf w 11 4) (bf w 8 3))
    else none
  | 20 =>
    if w % 256 = 0 then some (.vfms (bf w 23 3) (bf w 19 4) (bf w 15 4) (bf w 11 4) (bf w 8 3))
    else none
  | 21 =>
    if w % 256 = 0 then some (.vfmin (bf w 23 3) (bf w 19 4) (bf w 15 4) (bf w 11 4) (bf w 8 3))
    else none
  | 22 =>
    if w % 256 = 0 then some (.vfmax (bf w 23 3) (bf w 19 4) (bf w 15 4) (bf w 11 4) (bf w 8 3))
    else none
  | 23 =>
    if w / 4 % 64 = 0 then some (.vfsgn (bf w 23 3) (bf w 19 4) (bf w 15 4) (bf w 11 4) (bf w 8 3) (bf w 0 2))
    else none
  | 24 =>
    if w / 16 % 16 = 0 ∧ w / 4194304 % 2 = 0 then some (.vcmp (bf w 23 3) (bf w 19 3) (bf w 15 4) (bf w 11 4) (bf w 8 3) (bf w 3 1) (bf w 0 3))
    else none
  | 25 =>
    if w % 256 = 0 then some (.vsel (bf w 23 3) (bf w 19 4) (bf w 15 4) (bf w 11 4) (bf w 8 3))
    else none
  | 26 =>
    some (.vmovi (bf w 23 3) (bf w 19 4) (bf w 15 4) (bf w 11 4) (bf w 8 3) (bf w 0 8))
  | 27 =>
    if w / 32 % 8 = 0 ∧ w / 2048 % 256 = 0 then some (.vmovx (bf w 23 3) (bf w 19 4) (bf w 8 3) (bf w 0 5))
    else none
  | 28 =>
    if w % 256 = 0 ∧ w / 2048 % 16 = 0 then some (.vmov (bf w 23 3) (bf w 19 4) (bf w 15 4) (bf w 8 3))
    else none
  | 29 =>
    if w % 256 = 0 ∧ w / 2048 % 16 = 0 then some (.xmv (bf w 23 3) (bf w 19 4) (bf w 15 4) (bf w 8 3))
    else none
  | 30 =>
    if w % 256 = 0 ∧ w / 2048 % 16 = 0 then some (.vshuf4 (bf w 23 3) (bf w 19 4) (bf w 15 4) (bf w 8 3))
    else none
  | 31 =>
    if w / 32 % 8 = 0 ∧ w / 2048 % 256 = 0 ∧ w / 8388608 % 8 = 2 then some (.vrand (bf w 19 4) (bf w 8 3) (bf w 0 5))
    else none
  | 32 =>
    if w / 2 % 128 = 0 then some (.vperm (bf w 23 3) (bf w 19 4) (bf w 15 4) (bf w 11 4) (bf w 8 3) (bf w 0 1))
    else none
  | 33 =>
    if w / 2048 % 16 = 0 then some (.vrot (bf w 23 3) (bf w 19 4) (bf w 15 4) (bf w 8 3) (bf w 0 8))
    else none
  | 34 =>
    if w / 2048 % 16 = 0 then some (.vbcast (bf w 23 3) (bf w 19 4) (bf w 15 4) (bf w 8 3) (bf w 0 8))
    else none
  | 35 =>
    if w / 2 % 128 = 0 then some (.vzip (bf w 23 3) (bf w 19 4) (bf w 15 4) (bf w 11 4) (bf w 8 3) (bf w 0 1))
    else none
  | 36 =>
    if w / 2 % 128 = 0 then some (.vuzp (bf w 23 3) (bf w 19 4) (bf w 15 4) (bf w 11 4) (bf w 8 3) (bf w 0 1))
    else none
  | 37 =>
    if w % 256 = 0 ∧ w / 2048 % 16 = 0 then some (.vrsum (bf w 23 3) (bf w 19 4) (bf w 15 4) (bf w 8 3))
    else none
  | 38 =>
    if w % 256 = 0 ∧ w / 2048 % 16 = 0 then some (.vrmax (bf w 23 3) (bf w 19 4) (bf w 15 4) (bf w 8 3))
    else none
  | 39 =>
    if w % 256 = 0 ∧ w / 2048 % 16 = 0 then some (.vrmin (bf w 23 3) (bf w 19 4) (bf w 15 4) (bf w 8 3))
    else none
  | 40 =>
    some (.vcvt (bf w 23 3) (bf w 19 4) (bf w 15 4) (bf w 11 4) (bf w 8 3) (bf w 3 5) (bf w 0 3))
  | 41 =>
    some (.vpack (bf w 23 3) (bf w 19 4) (bf w 15 4) (bf w 11 4) (bf w 8 3) (bf w 3 5) (bf w 0 3))
  | 42 =>
    some (.vunpk (bf w 23 3) (bf w 19 4) (bf w 15 4) (bf w 11 4) (bf w 8 3) (bf w 3 5) (bf w 0 3))
  | 44 =>
    if w / 16 % 128 = 0 ∧ w / 16384 % 2 = 0 ∧ w / 262144 % 2 = 0 ∧ w / 4194304 % 16 = 0 then some (.plog (bf w 19 3) (bf w 15 3) (bf w 11 3) (bf w 0 4))
    else none
  | 45 =>
    if w / 32 % 8 = 0 ∧ w / 2048 % 4096 = 0 then some (.pcnt (bf w 23 3) (bf w 8 3) (bf w 0 5))
    else none
  | 46 =>
    if w / 32 % 8 = 0 ∧ w / 2048 % 4096 = 0 then some (.pfirst (bf w 23 3) (bf w 8 3) (bf w 0 5))
    else none
  | 47 =>
    if w / 32 % 16384 = 0 ∧ w / 4194304 % 2 = 0 then some (.pset (bf w 23 3) (bf w 19 3) (bf w 0 5))
    else none
  | 48 =>
    if w / 256 % 128 = 0 ∧ w / 524288 % 128 = 0 then some (.vspill (bf w 15 4) (bf w 0 8))
    else none
  | 49 =>
    if w / 256 % 2048 = 0 ∧ w / 8388608 % 8 = 0 then some (.vfill (bf w 19 4) (bf w 0 8))
    else none
  | 50 =>
    if w / 32 % 64 = 0 then some (.vext (bf w 23 3) (bf w 19 4) (bf w 15 4) (bf w 11 4) (bf w 0 5))
    else none
  | 51 =>
    if w / 32 % 64 = 0 then some (.vins (bf w 23 3) (bf w 19 4) (bf w 15 4) (bf w 11 4) (bf w 0 5))
    else none
  | 52 =>
    if w % 256 = 0 ∧ w / 2048 % 16 = 0 then some (.vexp2 (bf w 23 3) (bf w 19 4) (bf w 15 4) (bf w 8 3))
    else none
  | 53 =>
    if w % 256 = 0 ∧ w / 2048 % 16 = 0 then some (.vlog2 (bf w 23 3) (bf w 19 4) (bf w 15 4) (bf w 8 3))
    else none
  | 54 =>
    if w % 256 = 0 ∧ w / 2048 % 16 = 0 then some (.vrcp (bf w 23 3) (bf w 19 4) (bf w 15 4) (bf w 8 3))
    else none
  | 55 =>
    if w % 256 = 0 ∧ w / 2048 % 16 = 0 then some (.vrsqrt (bf w 23 3) (bf w 19 4) (bf w 15 4) (bf w 8 3))
    else none
  | 56 =>
    if w % 256 = 0 ∧ w / 2048 % 16 = 0 then some (.vsqrt (bf w 23 3) (bf w 19 4) (bf w 15 4) (bf w 8 3))
    else none
  | 57 =>
    if w % 256 = 0 ∧ w / 2048 % 16 = 0 then some (.vtanh (bf w 23 3) (bf w 19 4) (bf w 15 4) (bf w 8 3))
    else none
  | 58 =>
    if w % 256 = 0 ∧ w / 2048 % 16 = 0 then some (.verf (bf w 23 3) (bf w 19 4) (bf w 15 4) (bf w 8 3))
    else none
  | 59 =>
    if w / 131072 % 4 = 0 then some (.acr (bf w 23 3) (bf w 19 4) (bf w 15 2) (bf w 14 1) (bf w 11 3) (bf w 8 3) (bf w 6 2) (bf w 0 6))
    else none
  | 60 =>
    if w / 2048 % 16 = 0 ∧ w / 2097152 % 4 = 0 then some (.acw (bf w 23 3) (bf w 19 2) (bf w 15 4) (bf w 8 3) (bf w 6 2) (bf w 0 6))
    else none
  | 61 =>
    if w % 256 = 0 ∧ w / 2048 % 16 = 0 ∧ w / 262144 % 2 = 0 ∧ w / 8388608 % 8 = 5 then some (.acs (bf w 19 4) (bf w 17 1) (bf w 15 2) (bf w 8 3))
    else none
  | 62 =>
    if w % 256 = 0 ∧ w / 2048 % 16 = 0 ∧ w / 4194304 % 16 = 10 then some (.acsw (bf w 21 1) (bf w 19 2) (bf w 15 4) (bf w 8 3))
    else none
  | _ => none

/-- VM words (R70, Table 6.1). -/
def decodeVm (w : Nat) : Option Instr :=
  match w / 134217728 with
  | 0 =>
    if w % 134217728 = 0 then some .vmNop
    else none
  | 1 =>
    some (.vld (bf w 22 5) (bf w 16 6) (bf w 11 5) (bf w 8 3) (bf w 0 8))
  | 2 =>
    if w / 67108864 % 2 = 0 then some (.vst (bf w 22 4) (bf w 16 6) (bf w 11 5) (bf w 8 3) (bf w 0 8))
    else none
  | 3 =>
    some (.vlds (bf w 22 5) (bf w 16 6) (bf w 11 5) (bf w 8 3) (bf w 0 8))
  | 4 =>
    if w / 67108864 % 2 = 0 then some (.vsts (bf w 22 4) (bf w 16 6) (bf w 11 5) (bf w 8 3) (bf w 0 8))
    else none
  | 5 =>
    if w / 32768 % 2 = 0 then some (.vgth (bf w 22 5) (bf w 16 6) (bf w 11 4) (bf w 8 3) (bf w 0 8))
    else none
  | 6 =>
    if w / 32768 % 2 = 0 ∧ w / 67108864 % 2 = 0 then some (.vsct (bf w 22 4) (bf w 16 6) (bf w 11 4) (bf w 8 3) (bf w 0 8))
    else none
  | 7 =>
    if w / 32768 % 128 = 0 then some (.vldl (bf w 22 5) (bf w 11 4) (bf w 8 3) (bf w 0 8))
    else none
  | 8 =>
    if w / 32768 % 128 = 0 ∧ w / 67108864 % 2 = 0 then some (.vstl (bf w 22 4) (bf w 11 4) (bf w 8 3) (bf w 0 8))
    else none
  | 9 =>
    some (.vldf (bf w 22 5) (bf w 16 6) (bf w 11 5) (bf w 8 3) (bf w 0 8))
  | 10 =>
    if w / 67108864 % 2 = 0 then some (.vste (bf w 22 4) (bf w 16 6) (bf w 11 5) (bf w 8 3) (bf w 0 8))
    else none
  | 11 =>
    if w % 65536 = 0 ∧ w / 1048576 % 4 = 0 ∧ w / 67108864 % 2 = 0 then some (.vpush (bf w 22 4) (bf w 16 4))
    else none
  | 12 =>
    if w % 65536 = 0 ∧ w / 1048576 % 4 = 0 then some (.vpop (bf w 22 5) (bf w 16 4))
    else none
  | 13 =>
    if w / 67108864 % 2 = 0 then some (.vstb (bf w 22 4) (bf w 16 6) (bf w 11 5) (bf w 8 3) (bf w 0 8))
    else none
  | 14 =>
    if w / 32 % 8 = 0 ∧ w / 67108864 % 2 = 0 then some (.vred (bf w 22 4) (bf w 16 6) (bf w 11 5) (bf w 8 3) (bf w 0 5))
    else none
  | 15 =>
    if w / 4194304 % 32 = 0 then some (.vpref (bf w 16 6) (bf w 11 5) (bf w 8 3) (bf w 0 8))
    else none
  | _ => none

/-- MX words (R71, Table 7.3). -/
def decodeMx (w : Nat) : Option Instr :=
  match w / 134217728 with
  | 0 =>
    if w % 134217728 = 0 then some .mxNop
    else none
  | 1 =>
    if w % 16384 = 0 ∧ w / 32768 % 64 = 63 ∧ w / 33554432 % 4 = 0 then some (.mwl (bf w 21 4) (bf w 14 1))
    else none
  | 2 =>
    if w / 64 % 256 = 0 then some (.mma (bf w 25 2) (bf w 21 4) (bf w 15 6) (bf w 14 1) (bf w 0 6))
    else none
  | 3 =>
    if w / 64 % 256 = 0 then some (.mmz (bf w 25 2) (bf w 21 4) (bf w 15 6) (bf w 14 1) (bf w 0 6))
    else none
  | 4 =>
    if w / 64 % 64 = 0 ∧ w / 8192 % 2 = 0 then some (.mmg (bf w 25 2) (bf w 21 4) (bf w 15 6) (bf w 14 1) (bf w 12 1) (bf w 0 6))
    else none
  | 5 =>
    if w / 64 % 64 = 0 then some (.mtl (bf w 25 2) (bf w 21 4) (bf w 15 6) (bf w 14 1) (bf w 12 2) (bf w 0 6))
    else none
  | 6 =>
    if w / 256 % 16 = 0 ∧ w / 16384 % 2 = 0 then some (.msm (bf w 25 2) (bf w 21 4) (bf w 15 6) (bf w 12 2) (bf w 2 6) (bf w 0 2))
    else none
  | 7 =>
    if w % 4096 = 0 ∧ w / 8192 % 4096 = 0 then some (.mclr (bf w 25 2) (bf w 12 1))
    else none
  | 8 =>
    if w / 64 % 64 = 0 ∧ w / 16384 % 2 = 0 then some (.mout (bf w 25 2) (bf w 21 4) (bf w 15 6) (bf w 12 2) (bf w 0 6))
    else none
  | 9 =>
    if w / 4 % 1024 = 0 ∧ w / 16384 % 2048 = 0 then some (.mside (bf w 25 2) (bf w 12 2) (bf w 0 2))
    else none
  | 10 =>
    if w % 4096 = 0 ∧ w / 8192 % 16384 = 0 then some (.mwait (bf w 12 1))
    else none
  | _ => none

/-- ST words (R72, Table 9.1). -/
def decodeSt (w : Nat) : Option Instr :=
  match w / 67108864 with
  | 0 =>
    if w % 67108864 = 0 then some .stNop
    else none
  | 1 =>
    if w / 16777216 % 4 = 0 then some (.cpy (bf w 22 2) (bf w 16 6) (bf w 10 6) (bf w 5 5) (bf w 0 5))
    else none
  | 2 =>
    if w / 4096 % 16 = 0 then some (.cpyq (bf w 22 4) (bf w 16 6) (bf w 10 2) (bf w 5 5) (bf w 0 5))
    else none
  | 3 =>
    if w / 262144 % 16 = 0 then some (.cpyo (bf w 22 4) (bf w 16 2) (bf w 10 6) (bf w 5 5) (bf w 0 5))
    else none
  | 4 =>
    if w / 32 % 131072 = 0 ∧ w / 8388608 % 8 = 0 then some (.cwait (bf w 22 1) (bf w 0 5))
    else none
  | 5 =>
    if w % 32 = 0 ∧ w / 1024 % 4096 = 0 then some (.ringi (bf w 22 4) (bf w 5 5))
    else none
  | 6 =>
    if w / 4096 % 16 = 0 then some (.wset (bf w 22 4) (bf w 16 6) (bf w 10 2) (bf w 5 5) (bf w 0 5))
    else none
  | 7 =>
    if w / 1024 % 4096 = 0 then some (.wadv (bf w 22 4) (bf w 5 5) (bf w 0 5))
    else none
  | 8 =>
    some (.kpost (bf w 22 4) (bf w 16 6) (bf w 10 6) (bf w 5 5) (bf w 0 5))
  | 9 =>
    if w / 1024 % 65536 = 0 then some (.kwait (bf w 5 5) (bf w 0 5))
    else none
  | 10 =>
    if w / 1024 % 65536 = 0 then some (.ovl (bf w 5 5) (bf w 0 5))
    else none
  | 11 =>
    if w % 32 = 0 ∧ w / 4096 % 16 = 0 ∧ w / 4194304 % 16 = 0 then some (.pref (bf w 16 6) (bf w 10 2) (bf w 5 5))
    else none
  | 12 =>
    if w % 65536 = 0 ∧ w / 8388608 % 8 = 0 then some (.res (bf w 22 1) (bf w 16 6))
    else none
  | _ => none

/-- The word of slot k of a bundle, decoded by the slot's own format (R64, Table 3.1). -/
def decodeSlot (k w : Nat) : Option Instr :=
  match k with
  | 0 => decodeCtl w
  | 1 => decodeScalar w
  | 2 => decodeScalar w
  | 3 => decodeValu w
  | 4 => decodeVm w
  | 5 => decodeValu w
  | 6 => decodeMx w
  | 7 => decodeSt w
  | _ => none

/-- The word of slot k: bits 32k + 31 to 32k of the bundle (R63). -/
def slotWord (b : Bundle) (k : Nat) : Nat := b.toNat / 2 ^ (32 * k) % 2 ^ 32

/-- The fixed bits of an instruction's encoding, its operand fields zero; 0 for an event, which has no encoding. -/
def matchWord (i : Instr) : Nat :=
  match i with
  | .next _ _ => 0x00000000
  | .br _ _ _ _ _ => 0x00200000
  | .brp _ _ _ _ _ _ => 0x00400000
  | .jmp _ _ _ => 0x00600000
  | .call _ _ _ => 0x00800000
  | .jmpx _ _ _ => 0x00A00000
  | .loop _ _ _ _ => 0x00C00000
  | .loopi _ _ _ _ => 0x00E00000
  | .waitc _ _ _ => 0x01000000
  | .trap _ _ _ => 0x01200000
  | .eret _ _ => 0x01400000
  | .done _ _ => 0x01600000
  | .halt _ _ => 0x01800000
  | .brk _ _ _ => 0x01A00000
  | .iwait _ _ _ => 0x01C00000
  | .scalarNop => 0x00000000
  | .lui _ _ => 0x00000037
  | .addi _ _ _ => 0x00000013
  | .slti _ _ _ => 0x00002013
  | .sltiu _ _ _ => 0x00003013
  | .xori _ _ _ => 0x00004013
  | .ori _ _ _ => 0x00006013
  | .andi _ _ _ => 0x00007013
  | .slli _ _ _ => 0x00001013
  | .srli _ _ _ => 0x00005013
  | .srai _ _ _ => 0x40005013
  | .addiw _ _ _ => 0x0000001B
  | .slliw _ _ _ => 0x0000101B
  | .srliw _ _ _ => 0x0000501B
  | .sraiw _ _ _ => 0x4000501B
  | .add _ _ _ => 0x00000033
  | .sub _ _ _ => 0x40000033
  | .sll _ _ _ => 0x00001033
  | .slt _ _ _ => 0x00002033
  | .sltu _ _ _ => 0x00003033
  | .xor _ _ _ => 0x00004033
  | .srl _ _ _ => 0x00005033
  | .sra _ _ _ => 0x40005033
  | .or _ _ _ => 0x00006033
  | .and _ _ _ => 0x00007033
  | .mul _ _ _ => 0x02000033
  | .mulh _ _ _ => 0x02001033
  | .mulhsu _ _ _ => 0x02002033
  | .mulhu _ _ _ => 0x02003033
  | .div _ _ _ => 0x02004033
  | .divu _ _ _ => 0x02005033
  | .rem _ _ _ => 0x02006033
  | .remu _ _ _ => 0x02007033
  | .addw _ _ _ => 0x0000003B
  | .subw _ _ _ => 0x4000003B
  | .sllw _ _ _ => 0x0000103B
  | .srlw _ _ _ => 0x0000503B
  | .sraw _ _ _ => 0x4000503B
  | .mulw _ _ _ => 0x0200003B
  | .divw _ _ _ => 0x0200403B
  | .divuw _ _ _ => 0x0200503B
  | .remw _ _ _ => 0x0200603B
  | .remuw _ _ _ => 0x0200703B
  | .lb _ _ _ => 0x00000003
  | .lh _ _ _ => 0x00001003
  | .lw _ _ _ => 0x00002003
  | .ld _ _ _ => 0x00003003
  | .lbu _ _ _ => 0x00004003
  | .lhu _ _ _ => 0x00005003
  | .lwu _ _ _ => 0x00006003
  | .sb _ _ _ _ => 0x00000023
  | .sh _ _ _ _ => 0x00001023
  | .sw _ _ _ _ => 0x00002023
  | .sd _ _ _ _ => 0x00003023
  | .shw _ _ _ _ => 0x0000000B
  | .shr _ _ _ _ => 0x0000100B
  | .brld _ _ => 0x0000200B
  | .brst _ _ => 0x0000300B
  | .getd _ _ _ => 0x0000400B
  | .setd _ _ _ => 0x0000500B
  | .clz _ _ => 0x0000600B
  | .ctz _ _ => 0x0200600B
  | .popc _ _ => 0x0400600B
  | .spillx _ _ _ => 0x0000700B
  | .fillx _ _ _ => 0x8000700B
  | .ldfW _ _ => 0x0000002B
  | .ldfD _ _ => 0x0200002B
  | .ldfeW _ _ => 0x0400002B
  | .ldfeD _ _ => 0x0600002B
  | .ldt _ _ => 0x0800002B
  | .steW _ _ => 0x0000102B
  | .steD _ _ => 0x0200102B
  | .stfW _ _ => 0x0400102B
  | .stfD _ _ => 0x0600102B
  | .sete _ => 0x0800102B
  | .setf _ => 0x0A00102B
  | .bari _ _ => 0x0000202B
  | .bara _ _ => 0x0200202B
  | .barw _ _ _ => 0x0400202B
  | .baraw _ _ _ => 0x0600202B
  | .barc _ _ => 0x0800202B
  | .bart _ _ => 0x0A00202B
  | .waitvEq _ _ _ => 0x0000302B
  | .waitvNe _ _ _ => 0x0200302B
  | .amoadd _ _ _ _ _ => 0x0000205B
  | .amoswap _ _ _ _ _ => 0x0800205B
  | .amocas _ _ _ _ _ => 0x1000205B
  | .amoand _ _ _ _ _ => 0x1800205B
  | .amoor _ _ _ _ _ => 0x2000205B
  | .amoxor _ _ _ _ _ => 0x2800205B
  | .amomin _ _ _ _ _ => 0x3000205B
  | .amomax _ _ _ _ _ => 0x3800205B
  | .amominu _ _ _ _ _ => 0x4000205B
  | .amomaxu _ _ _ _ _ => 0x4800205B
  | .amofadd _ _ _ _ => 0x5000205B
  | .redadd _ _ _ _ => 0x8000205B
  | .redand _ _ _ _ => 0x8800205B
  | .redor _ _ _ _ => 0x9000205B
  | .redxor _ _ _ _ => 0x9800205B
  | .redmin _ _ _ _ => 0xA000205B
  | .redmax _ _ _ _ => 0xA800205B
  | .redminu _ _ _ _ => 0xB000205B
  | .redmaxu _ _ _ _ => 0xB800205B
  | .redfadd _ _ _ => 0xC000205B
  | .redofadd _ _ _ _ => 0xC800205B
  | .lda _ _ _ _ => 0xE000205B
  | .stl _ _ _ _ => 0xE800205B
  | .fence _ _ => 0xF000005B
  | .tget _ _ _ => 0x0000007B
  | .tdone _ => 0x0000107B
  | .tabort _ => 0x0200107B
  | .tspawn _ _ => 0x0000207B
  | .launch _ _ _ => 0x0000307B
  | .lwait _ _ => 0x0000407B
  | .rand _ => 0x0000507B
  | .valuNop => 0x00000000
  | .vadd _ _ _ _ _ => 0x04000000
  | .vsub _ _ _ _ _ => 0x08000000
  | .vmul _ _ _ _ _ => 0x0C000000
  | .vmulh _ _ _ _ _ _ => 0x10000000
  | .vmac _ _ _ _ _ => 0x14000000
  | .vand _ _ _ _ _ => 0x18000000
  | .vor _ _ _ _ _ => 0x1C000000
  | .vxor _ _ _ _ _ => 0x20000000
  | .vshl _ _ _ _ _ _ _ => 0x24000000
  | .vshr _ _ _ _ _ _ _ => 0x28000000
  | .vsra _ _ _ _ _ _ _ => 0x2C000000
  | .vmin _ _ _ _ _ _ => 0x30000000
  | .vmax _ _ _ _ _ _ => 0x34000000
  | .vabs _ _ _ _ => 0x38000000
  | .vadds _ _ _ _ _ _ _ => 0x3C000000
  | .vfadd _ _ _ _ _ => 0x40000000
  | .vfsub _ _ _ _ _ => 0x44000000
  | .vfmul _ _ _ _ _ => 0x48000000
  | .vfma _ _ _ _ _ => 0x4C000000
  | .vfms _ _ _ _ _ => 0x50000000
  | .vfmin _ _ _ _ _ => 0x54000000
  | .vfmax _ _ _ _ _ => 0x58000000
  | .vfsgn _ _ _ _ _ _ => 0x5C000000
  | .vcmp _ _ _ _ _ _ _ => 0x60000000
  | .vsel _ _ _ _ _ => 0x64000000
  | .vmovi _ _ _ _ _ _ => 0x68000000
  | .vmovx _ _ _ _ => 0x6C000000
  | .vmov _ _ _ _ => 0x70000000
  | .xmv _ _ _ _ => 0x74000000
  | .vshuf4 _ _ _ _ => 0x78000000
  | .vrand _ _ _ => 0x7D000000
  | .vperm _ _ _ _ _ _ => 0x80000000
  | .vrot _ _ _ _ _ => 0x84000000
  | .vbcast _ _ _ _ _ => 0x88000000
  | .vzip _ _ _ _ _ _ => 0x8C000000
  | .vuzp _ _ _ _ _ _ => 0x90000000
  | .vrsum _ _ _ _ => 0x94000000
  | .vrmax _ _ _ _ => 0x98000000
  | .vrmin _ _ _ _ => 0x9C000000
  | .vcvt _ _ _ _ _ _ _ => 0xA0000000
  | .vpack _ _ _ _ _ _ _ => 0xA4000000
  | .vunpk _ _ _ _ _ _ _ => 0xA8000000
  | .plog _ _ _ _ => 0xB0000000
  | .pcnt _ _ _ => 0xB4000000
  | .pfirst _ _ _ => 0xB8000000
  | .pset _ _ _ => 0xBC000000
  | .vspill _ _ => 0xC0000000
  | .vfill _ _ => 0xC4000000
  | .vext _ _ _ _ _ => 0xC8000000
  | .vins _ _ _ _ _ => 0xCC000000
  | .vexp2 _ _ _ _ => 0xD0000000
  | .vlog2 _ _ _ _ => 0xD4000000
  | .vrcp _ _ _ _ => 0xD8000000
  | .vrsqrt _ _ _ _ => 0xDC000000
  | .vsqrt _ _ _ _ => 0xE0000000
  | .vtanh _ _ _ _ => 0xE4000000
  | .verf _ _ _ _ => 0xE8000000
  | .acr _ _ _ _ _ _ _ _ => 0xEC000000
  | .acw _ _ _ _ _ _ => 0xF0000000
  | .acs _ _ _ _ => 0xF6800000
  | .acsw _ _ _ _ => 0xFA800000
  | .vmNop => 0x00000000
  | .vld _ _ _ _ _ => 0x08000000
  | .vst _ _ _ _ _ => 0x10000000
  | .vlds _ _ _ _ _ => 0x18000000
  | .vsts _ _ _ _ _ => 0x20000000
  | .vgth _ _ _ _ _ => 0x28000000
  | .vsct _ _ _ _ _ => 0x30000000
  | .vldl _ _ _ _ => 0x38000000
  | .vstl _ _ _ _ => 0x40000000
  | .vldf _ _ _ _ _ => 0x48000000
  | .vste _ _ _ _ _ => 0x50000000
  | .vpush _ _ => 0x58000000
  | .vpop _ _ => 0x60000000
  | .vstb _ _ _ _ _ => 0x68000000
  | .vred _ _ _ _ _ => 0x70000000
  | .vpref _ _ _ _ => 0x78000000
  | .mxNop => 0x00000000
  | .mwl _ _ => 0x081F8000
  | .mma _ _ _ _ _ => 0x10000000
  | .mmz _ _ _ _ _ => 0x18000000
  | .mmg _ _ _ _ _ _ => 0x20000000
  | .mtl _ _ _ _ _ _ => 0x28000000
  | .msm _ _ _ _ _ _ => 0x30000000
  | .mclr _ _ => 0x38000000
  | .mout _ _ _ _ _ => 0x40000000
  | .mside _ _ _ => 0x48000000
  | .mwait _ => 0x50000000
  | .stNop => 0x00000000
  | .cpy _ _ _ _ _ => 0x04000000
  | .cpyq _ _ _ _ _ => 0x08000000
  | .cpyo _ _ _ _ _ => 0x0C000000
  | .cwait _ _ => 0x10000000
  | .ringi _ _ => 0x14000000
  | .wset _ _ _ _ _ => 0x18000000
  | .wadv _ _ _ => 0x1C000000
  | .kpost _ _ _ _ _ => 0x20000000
  | .kwait _ _ => 0x24000000
  | .ovl _ _ => 0x28000000
  | .pref _ _ _ => 0x2C000000
  | .res _ _ => 0x30000000
  | .resultLand _ => 0
  | .interlockedResultLand _ _ => 0
  | .waitcExpire _ => 0
  | .waitvTimeout _ => 0
  | .lwbReplayLand _ => 0
  | .baseRegionLoad _ _ => 0
  | .ovlRegionWritten _ _ _ => 0
  | .jobStart _ _ => 0
  | .ringSlotClaim _ _ => 0
  | .jobComplete _ _ => 0
  | .jobFault _ _ => 0
  | .mxSlotRelease _ => 0
  | .mxRowPush _ => 0
  | .mtlStep _ => 0
  | .mxFinish _ => 0
  | .idleCorePass _ => 0
  | .taskStart _ => 0
  | .taskComplete _ => 0
  | .subversionMerge _ _ _ => 0
  | .admissionRead _ _ => 0
  | .admission _ _ => 0
  | .launchComplete _ _ => 0
  | .launchCommit _ _ => 0
  | .prepareAcknowledge _ _ _ => 0
  | .prepareTimeout _ _ => 0
  | .preparedAccessResume _ => 0
  | .rehearsalCompare _ _ => 0
  | .versionFree _ _ => 0
  | .collectiveComplete _ _ => 0
  | .chunkComplete _ _ _ => 0
  | .laneBoundary _ => 0
  | .hopGrant _ _ => 0
  | .preemptDecision _ _ _ => 0
  | .drainWindowExpire _ => 0
  | .park _ => 0
  | .saveComplete _ => 0
  | .restore _ _ => 0
  | .restoreComplete _ => 0
  | .watchdogFire _ => 0
  | .contextKill _ => 0
  | .contextCreate _ _ => 0
  | .pageWalkComplete _ => 0
  | .pagePresent _ _ => 0
  | .addressInvalid _ _ => 0
  | .mappingChange _ _ _ => 0
  | .pageMigrate _ _ _ => 0
  | .codeLoad _ _ => 0
  | .codeUnload _ => 0
  | .forcedUnload _ => 0
  | .dbgSet _ _ _ _ => 0
  | .debugResume _ => 0
  | .codeSample _ _ _ => 0
  | .codeChange _ => 0
  | .heartbeat _ => 0
  | .heartbeatDeadline _ => 0
  | .takeover _ => 0
  | .patrolScrub _ => 0
  | .wipe _ => 0
  | .classifyWindow _ => 0
  | .demote _ _ => 0
  | .promote _ _ => 0
  | .flyBind _ _ _ => 0
  | .flyCancel _ => 0
  | .flySave _ => 0
  | .flySwitch _ => 0
  | .flyAbandon _ => 0
  | .flyRelease _ => 0
  | .recreate _ _ _ => 0
  | .remoteStore _ => 0
  | .loadRequest _ => 0
  | .loadResponse _ => 0
  | .acknowledgement _ => 0
  | .refusal _ => 0
  | .remoteAtomic _ => 0
  | .remoteReduction _ => 0
  | .chorusUpOrdered _ => 0
  | .chorusUpUnordered _ => 0
  | .chorusDown _ => 0
  | .reservationRequest _ => 0
  | .grant _ => 0
  | .commitControl _ => 0
  | .flyControl _ => 0
  | .flyData _ => 0
  | .flitRetransmit _ _ => 0
  | .portRetrainFail _ => 0
  | .routeSet _ _ => 0
  | .nodeNumberSet _ => 0
  | .doorbell _ _ _ => 0
  | .bar2Read _ _ => 0
  | .bar2Write _ _ => 0
  | .registerWrite _ _ => 0
  | .completionFree _ _ => 0
  | .status => 0
  | .fwStage _ _ => 0
  | .fwCommit _ => 0
  | .reset => 0
  | .lcAdvance _ => 0
  | .report _ _ => 0
  | .idkey => 0
  | .setLtol _ => 0
  | .powerOnReset => 0
  | .hostReset => 0
  | .bootComplete => 0
  | .lowPowerEntry => 0
  | .wake => 0
  | .throttle => 0
  | .clockRestore => 0
  | .thermalTrip => 0
  | .logicalClockTick _ => 0
  | .powerLoss => 0
  | .contextResume _ => 0
  | .contextFree _ => 0
  | .debuggerAttach _ _ => 0
  | .debugContextSave _ => 0
  | .commitOutcomeQuery _ _ _ => 0

/-- How many bits of the word an instruction fixes (the ones of the table's mask). -/
def fixedBits (i : Instr) : Nat :=
  match i with
  | .next _ _ => 25
  | .br _ _ _ _ _ => 4
  | .brp _ _ _ _ _ _ => 4
  | .jmp _ _ _ => 4
  | .call _ _ _ => 4
  | .jmpx _ _ _ => 20
  | .loop _ _ _ _ => 8
  | .loopi _ _ _ _ => 4
  | .waitc _ _ _ => 4
  | .trap _ _ _ => 9
  | .eret _ _ => 25
  | .done _ _ => 25
  | .halt _ _ => 25
  | .brk _ _ _ => 9
  | .iwait _ _ _ => 13
  | .scalarNop => 32
  | .lui _ _ => 7
  | .addi _ _ _ => 10
  | .slti _ _ _ => 10
  | .sltiu _ _ _ => 10
  | .xori _ _ _ => 10
  | .ori _ _ _ => 10
  | .andi _ _ _ => 10
  | .slli _ _ _ => 16
  | .srli _ _ _ => 16
  | .srai _ _ _ => 16
  | .addiw _ _ _ => 10
  | .slliw _ _ _ => 17
  | .srliw _ _ _ => 17
  | .sraiw _ _ _ => 17
  | .add _ _ _ => 17
  | .sub _ _ _ => 17
  | .sll _ _ _ => 17
  | .slt _ _ _ => 17
  | .sltu _ _ _ => 17
  | .xor _ _ _ => 17
  | .srl _ _ _ => 17
  | .sra _ _ _ => 17
  | .or _ _ _ => 17
  | .and _ _ _ => 17
  | .mul _ _ _ => 17
  | .mulh _ _ _ => 17
  | .mulhsu _ _ _ => 17
  | .mulhu _ _ _ => 17
  | .div _ _ _ => 17
  | .divu _ _ _ => 17
  | .rem _ _ _ => 17
  | .remu _ _ _ => 17
  | .addw _ _ _ => 17
  | .subw _ _ _ => 17
  | .sllw _ _ _ => 17
  | .srlw _ _ _ => 17
  | .sraw _ _ _ => 17
  | .mulw _ _ _ => 17
  | .divw _ _ _ => 17
  | .divuw _ _ _ => 17
  | .remw _ _ _ => 17
  | .remuw _ _ _ => 17
  | .lb _ _ _ => 10
  | .lh _ _ _ => 10
  | .lw _ _ _ => 10
  | .ld _ _ _ => 10
  | .lbu _ _ _ => 10
  | .lhu _ _ _ => 10
  | .lwu _ _ _ => 10
  | .sb _ _ _ _ => 10
  | .sh _ _ _ _ => 10
  | .sw _ _ _ _ => 10
  | .sd _ _ _ _ => 10
  | .shw _ _ _ _ => 21
  | .shr _ _ _ _ => 21
  | .brld _ _ => 21
  | .brst _ _ => 21
  | .getd _ _ _ => 15
  | .setd _ _ _ => 15
  | .clz _ _ => 22
  | .ctz _ _ => 22
  | .popc _ _ => 22
  | .spillx _ _ _ => 19
  | .fillx _ _ _ => 19
  | .ldfW _ _ => 22
  | .ldfD _ _ => 22
  | .ldfeW _ _ => 22
  | .ldfeD _ _ => 22
  | .ldt _ _ => 22
  | .steW _ _ => 22
  | .steD _ _ => 22
  | .stfW _ _ => 22
  | .stfD _ _ => 22
  | .sete _ => 27
  | .setf _ => 27
  | .bari _ _ => 22
  | .bara _ _ => 22
  | .barw _ _ _ => 17
  | .baraw _ _ _ => 17
  | .barc _ _ => 22
  | .bart _ _ => 22
  | .waitvEq _ _ _ => 17
  | .waitvNe _ _ _ => 17
  | .amoadd _ _ _ _ _ => 14
  | .amoswap _ _ _ _ _ => 14
  | .amocas _ _ _ _ _ => 14
  | .amoand _ _ _ _ _ => 14
  | .amoor _ _ _ _ _ => 14
  | .amoxor _ _ _ _ _ => 14
  | .amomin _ _ _ _ _ => 14
  | .amomax _ _ _ _ _ => 14
  | .amominu _ _ _ _ _ => 14
  | .amomaxu _ _ _ _ _ => 14
  | .amofadd _ _ _ _ => 15
  | .redadd _ _ _ _ => 19
  | .redand _ _ _ _ => 19
  | .redor _ _ _ _ => 19
  | .redxor _ _ _ _ => 19
  | .redmin _ _ _ _ => 19
  | .redmax _ _ _ _ => 19
  | .redminu _ _ _ _ => 19
  | .redmaxu _ _ _ _ => 19
  | .redfadd _ _ _ => 20
  | .redofadd _ _ _ _ => 15
  | .lda _ _ _ _ => 19
  | .stl _ _ _ _ => 19
  | .fence _ _ => 28
  | .tget _ _ _ => 25
  | .tdone _ => 27
  | .tabort _ => 27
  | .tspawn _ _ => 22
  | .launch _ _ _ => 17
  | .lwait _ _ => 22
  | .rand _ => 27
  | .valuNop => 32
  | .vadd _ _ _ _ _ => 14
  | .vsub _ _ _ _ _ => 14
  | .vmul _ _ _ _ _ => 14
  | .vmulh _ _ _ _ _ _ => 13
  | .vmac _ _ _ _ _ => 14
  | .vand _ _ _ _ _ => 14
  | .vor _ _ _ _ _ => 14
  | .vxor _ _ _ _ _ => 14
  | .vshl _ _ _ _ _ _ _ => 8
  | .vshr _ _ _ _ _ _ _ => 8
  | .vsra _ _ _ _ _ _ _ => 8
  | .vmin _ _ _ _ _ _ => 13
  | .vmax _ _ _ _ _ _ => 13
  | .vabs _ _ _ _ => 18
  | .vadds _ _ _ _ _ _ _ => 12
  | .vfadd _ _ _ _ _ => 14
  | .vfsub _ _ _ _ _ => 14
  | .vfmul _ _ _ _ _ => 14
  | .vfma _ _ _ _ _ => 14
  | .vfms _ _ _ _ _ => 14
  | .vfmin _ _ _ _ _ => 14
  | .vfmax _ _ _ _ _ => 14
  | .vfsgn _ _ _ _ _ _ => 12
  | .vcmp _ _ _ _ _ _ _ => 11
  | .vsel _ _ _ _ _ => 14
  | .vmovi _ _ _ _ _ _ => 6
  | .vmovx _ _ _ _ => 17
  | .vmov _ _ _ _ => 18
  | .xmv _ _ _ _ => 18
  | .vshuf4 _ _ _ _ => 18
  | .vrand _ _ _ => 20
  | .vperm _ _ _ _ _ _ => 13
  | .vrot _ _ _ _ _ => 10
  | .vbcast _ _ _ _ _ => 10
  | .vzip _ _ _ _ _ _ => 13
  | .vuzp _ _ _ _ _ _ => 13
  | .vrsum _ _ _ _ => 18
  | .vrmax _ _ _ _ => 18
  | .vrmin _ _ _ _ => 18
  | .vcvt _ _ _ _ _ _ _ => 6
  | .vpack _ _ _ _ _ _ _ => 6
  | .vunpk _ _ _ _ _ _ _ => 6
  | .plog _ _ _ _ => 19
  | .pcnt _ _ _ => 21
  | .pfirst _ _ _ => 21
  | .pset _ _ _ => 21
  | .vspill _ _ => 20
  | .vfill _ _ => 20
  | .vext _ _ _ _ _ => 12
  | .vins _ _ _ _ _ => 12
  | .vexp2 _ _ _ _ => 18
  | .vlog2 _ _ _ _ => 18
  | .vrcp _ _ _ _ => 18
  | .vrsqrt _ _ _ _ => 18
  | .vsqrt _ _ _ _ => 18
  | .vtanh _ _ _ _ => 18
  | .verf _ _ _ _ => 18
  | .acr _ _ _ _ _ _ _ _ => 8
  | .acw _ _ _ _ _ _ => 12
  | .acs _ _ _ _ => 22
  | .acsw _ _ _ _ => 22
  | .vmNop => 32
  | .vld _ _ _ _ _ => 5
  | .vst _ _ _ _ _ => 6
  | .vlds _ _ _ _ _ => 5
  | .vsts _ _ _ _ _ => 6
  | .vgth _ _ _ _ _ => 6
  | .vsct _ _ _ _ _ => 7
  | .vldl _ _ _ _ => 12
  | .vstl _ _ _ _ => 13
  | .vldf _ _ _ _ _ => 5
  | .vste _ _ _ _ _ => 6
  | .vpush _ _ => 24
  | .vpop _ _ => 23
  | .vstb _ _ _ _ _ => 6
  | .vred _ _ _ _ _ => 9
  | .vpref _ _ _ _ => 10
  | .mxNop => 32
  | .mwl _ _ => 27
  | .mma _ _ _ _ _ => 13
  | .mmz _ _ _ _ _ => 13
  | .mmg _ _ _ _ _ _ => 12
  | .mtl _ _ _ _ _ _ => 11
  | .msm _ _ _ _ _ _ => 10
  | .mclr _ _ => 29
  | .mout _ _ _ _ _ => 12
  | .mside _ _ _ => 26
  | .mwait _ => 31
  | .stNop => 32
  | .cpy _ _ _ _ _ => 8
  | .cpyq _ _ _ _ _ => 10
  | .cpyo _ _ _ _ _ => 10
  | .cwait _ _ => 26
  | .ringi _ _ => 23
  | .wset _ _ _ _ _ => 10
  | .wadv _ _ _ => 18
  | .kpost _ _ _ _ _ => 6
  | .kwait _ _ => 22
  | .ovl _ _ => 22
  | .pref _ _ _ => 19
  | .res _ _ => 25
  | .resultLand _ => 0
  | .interlockedResultLand _ _ => 0
  | .waitcExpire _ => 0
  | .waitvTimeout _ => 0
  | .lwbReplayLand _ => 0
  | .baseRegionLoad _ _ => 0
  | .ovlRegionWritten _ _ _ => 0
  | .jobStart _ _ => 0
  | .ringSlotClaim _ _ => 0
  | .jobComplete _ _ => 0
  | .jobFault _ _ => 0
  | .mxSlotRelease _ => 0
  | .mxRowPush _ => 0
  | .mtlStep _ => 0
  | .mxFinish _ => 0
  | .idleCorePass _ => 0
  | .taskStart _ => 0
  | .taskComplete _ => 0
  | .subversionMerge _ _ _ => 0
  | .admissionRead _ _ => 0
  | .admission _ _ => 0
  | .launchComplete _ _ => 0
  | .launchCommit _ _ => 0
  | .prepareAcknowledge _ _ _ => 0
  | .prepareTimeout _ _ => 0
  | .preparedAccessResume _ => 0
  | .rehearsalCompare _ _ => 0
  | .versionFree _ _ => 0
  | .collectiveComplete _ _ => 0
  | .chunkComplete _ _ _ => 0
  | .laneBoundary _ => 0
  | .hopGrant _ _ => 0
  | .preemptDecision _ _ _ => 0
  | .drainWindowExpire _ => 0
  | .park _ => 0
  | .saveComplete _ => 0
  | .restore _ _ => 0
  | .restoreComplete _ => 0
  | .watchdogFire _ => 0
  | .contextKill _ => 0
  | .contextCreate _ _ => 0
  | .pageWalkComplete _ => 0
  | .pagePresent _ _ => 0
  | .addressInvalid _ _ => 0
  | .mappingChange _ _ _ => 0
  | .pageMigrate _ _ _ => 0
  | .codeLoad _ _ => 0
  | .codeUnload _ => 0
  | .forcedUnload _ => 0
  | .dbgSet _ _ _ _ => 0
  | .debugResume _ => 0
  | .codeSample _ _ _ => 0
  | .codeChange _ => 0
  | .heartbeat _ => 0
  | .heartbeatDeadline _ => 0
  | .takeover _ => 0
  | .patrolScrub _ => 0
  | .wipe _ => 0
  | .classifyWindow _ => 0
  | .demote _ _ => 0
  | .promote _ _ => 0
  | .flyBind _ _ _ => 0
  | .flyCancel _ => 0
  | .flySave _ => 0
  | .flySwitch _ => 0
  | .flyAbandon _ => 0
  | .flyRelease _ => 0
  | .recreate _ _ _ => 0
  | .remoteStore _ => 0
  | .loadRequest _ => 0
  | .loadResponse _ => 0
  | .acknowledgement _ => 0
  | .refusal _ => 0
  | .remoteAtomic _ => 0
  | .remoteReduction _ => 0
  | .chorusUpOrdered _ => 0
  | .chorusUpUnordered _ => 0
  | .chorusDown _ => 0
  | .reservationRequest _ => 0
  | .grant _ => 0
  | .commitControl _ => 0
  | .flyControl _ => 0
  | .flyData _ => 0
  | .flitRetransmit _ _ => 0
  | .portRetrainFail _ => 0
  | .routeSet _ _ => 0
  | .nodeNumberSet _ => 0
  | .doorbell _ _ _ => 0
  | .bar2Read _ _ => 0
  | .bar2Write _ _ => 0
  | .registerWrite _ _ => 0
  | .completionFree _ _ => 0
  | .status => 0
  | .fwStage _ _ => 0
  | .fwCommit _ => 0
  | .reset => 0
  | .lcAdvance _ => 0
  | .report _ _ => 0
  | .idkey => 0
  | .setLtol _ => 0
  | .powerOnReset => 0
  | .hostReset => 0
  | .bootComplete => 0
  | .lowPowerEntry => 0
  | .wake => 0
  | .throttle => 0
  | .clockRestore => 0
  | .thermalTrip => 0
  | .logicalClockTick _ => 0
  | .powerLoss => 0
  | .contextResume _ => 0
  | .contextFree _ => 0
  | .debuggerAttach _ _ => 0
  | .debugContextSave _ => 0
  | .commitOutcomeQuery _ _ _ => 0

/-- The word of an instruction: its fixed bits with each operand field at its place. Events have no word. -/
def encode (i : Instr) : Nat :=
  match i with
  | .next s w => 0x00000000 + s.toNat * 268435456 + w.toNat * 33554432
  | .br s w c x f => 0x00200000 + s.toNat * 268435456 + w.toNat * 33554432 + c.toNat * 262144 + x.toNat * 8192 + f.toNat
  | .brp s w k p m f => 0x00400000 + s.toNat * 268435456 + w.toNat * 33554432 + k.toNat * 1048576 + p.toNat * 131072 + m.toNat * 32768 + f.toNat
  | .jmp s w f => 0x00600000 + s.toNat * 268435456 + w.toNat * 33554432 + f.toNat
  | .call s w f => 0x00800000 + s.toNat * 268435456 + w.toNat * 33554432 + f.toNat
  | .jmpx s w x => 0x00A00000 + s.toNat * 268435456 + w.toNat * 33554432 + x.toNat * 65536
  | .loop s w x l => 0x00C00000 + s.toNat * 268435456 + w.toNat * 33554432 + x.toNat * 65536 + l.toNat * 16
  | .loopi s w n l => 0x00E00000 + s.toNat * 268435456 + w.toNat * 33554432 + n.toNat * 512 + l.toNat
  | .waitc s w n => 0x01000000 + s.toNat * 268435456 + w.toNat * 33554432 + n.toNat
  | .trap s w c => 0x01200000 + s.toNat * 268435456 + w.toNat * 33554432 + c.toNat
  | .eret s w => 0x01400000 + s.toNat * 268435456 + w.toNat * 33554432
  | .done s w => 0x01600000 + s.toNat * 268435456 + w.toNat * 33554432
  | .halt s w => 0x01800000 + s.toNat * 268435456 + w.toNat * 33554432
  | .brk s w c => 0x01A00000 + s.toNat * 268435456 + w.toNat * 33554432 + c.toNat
  | .iwait s w g => 0x01C00000 + s.toNat * 268435456 + w.toNat * 33554432 + g.toNat
  | .scalarNop => 0x00000000
  | .lui i d => 0x00000037 + i.toNat * 4096 + d.toNat * 128
  | .addi i s d => 0x00000013 + i.toNat * 1048576 + s.toNat * 32768 + d.toNat * 128
  | .slti i s d => 0x00002013 + i.toNat * 1048576 + s.toNat * 32768 + d.toNat * 128
  | .sltiu i s d => 0x00003013 + i.toNat * 1048576 + s.toNat * 32768 + d.toNat * 128
  | .xori i s d => 0x00004013 + i.toNat * 1048576 + s.toNat * 32768 + d.toNat * 128
  | .ori i s d => 0x00006013 + i.toNat * 1048576 + s.toNat * 32768 + d.toNat * 128
  | .andi i s d => 0x00007013 + i.toNat * 1048576 + s.toNat * 32768 + d.toNat * 128
  | .slli h s d => 0x00001013 + h.toNat * 1048576 + s.toNat * 32768 + d.toNat * 128
  | .srli h s d => 0x00005013 + h.toNat * 1048576 + s.toNat * 32768 + d.toNat * 128
  | .srai h s d => 0x40005013 + h.toNat * 1048576 + s.toNat * 32768 + d.toNat * 128
  | .addiw i s d => 0x0000001B + i.toNat * 1048576 + s.toNat * 32768 + d.toNat * 128
  | .slliw h s d => 0x0000101B + h.toNat * 1048576 + s.toNat * 32768 + d.toNat * 128
  | .srliw h s d => 0x0000501B + h.toNat * 1048576 + s.toNat * 32768 + d.toNat * 128
  | .sraiw h s d => 0x4000501B + h.toNat * 1048576 + s.toNat * 32768 + d.toNat * 128
  | .add t s d => 0x00000033 + t.toNat * 1048576 + s.toNat * 32768 + d.toNat * 128
  | .sub t s d => 0x40000033 + t.toNat * 1048576 + s.toNat * 32768 + d.toNat * 128
  | .sll t s d => 0x00001033 + t.toNat * 1048576 + s.toNat * 32768 + d.toNat * 128
  | .slt t s d => 0x00002033 + t.toNat * 1048576 + s.toNat * 32768 + d.toNat * 128
  | .sltu t s d => 0x00003033 + t.toNat * 1048576 + s.toNat * 32768 + d.toNat * 128
  | .xor t s d => 0x00004033 + t.toNat * 1048576 + s.toNat * 32768 + d.toNat * 128
  | .srl t s d => 0x00005033 + t.toNat * 1048576 + s.toNat * 32768 + d.toNat * 128
  | .sra t s d => 0x40005033 + t.toNat * 1048576 + s.toNat * 32768 + d.toNat * 128
  | .or t s d => 0x00006033 + t.toNat * 1048576 + s.toNat * 32768 + d.toNat * 128
  | .and t s d => 0x00007033 + t.toNat * 1048576 + s.toNat * 32768 + d.toNat * 128
  | .mul t s d => 0x02000033 + t.toNat * 1048576 + s.toNat * 32768 + d.toNat * 128
  | .mulh t s d => 0x02001033 + t.toNat * 1048576 + s.toNat * 32768 + d.toNat * 128
  | .mulhsu t s d => 0x02002033 + t.toNat * 1048576 + s.toNat * 32768 + d.toNat * 128
  | .mulhu t s d => 0x02003033 + t.toNat * 1048576 + s.toNat * 32768 + d.toNat * 128
  | .div t s d => 0x02004033 + t.toNat * 1048576 + s.toNat * 32768 + d.toNat * 128
  | .divu t s d => 0x02005033 + t.toNat * 1048576 + s.toNat * 32768 + d.toNat * 128
  | .rem t s d => 0x02006033 + t.toNat * 1048576 + s.toNat * 32768 + d.toNat * 128
  | .remu t s d => 0x02007033 + t.toNat * 1048576 + s.toNat * 32768 + d.toNat * 128
  | .addw t s d => 0x0000003B + t.toNat * 1048576 + s.toNat * 32768 + d.toNat * 128
  | .subw t s d => 0x4000003B + t.toNat * 1048576 + s.toNat * 32768 + d.toNat * 128
  | .sllw t s d => 0x0000103B + t.toNat * 1048576 + s.toNat * 32768 + d.toNat * 128
  | .srlw t s d => 0x0000503B + t.toNat * 1048576 + s.toNat * 32768 + d.toNat * 128
  | .sraw t s d => 0x4000503B + t.toNat * 1048576 + s.toNat * 32768 + d.toNat * 128
  | .mulw t s d => 0x0200003B + t.toNat * 1048576 + s.toNat * 32768 + d.toNat * 128
  | .divw t s d => 0x0200403B + t.toNat * 1048576 + s.toNat * 32768 + d.toNat * 128
  | .divuw t s d => 0x0200503B + t.toNat * 1048576 + s.toNat * 32768 + d.toNat * 128
  | .remw t s d => 0x0200603B + t.toNat * 1048576 + s.toNat * 32768 + d.toNat * 128
  | .remuw t s d => 0x0200703B + t.toNat * 1048576 + s.toNat * 32768 + d.toNat * 128
  | .lb i s d => 0x00000003 + i.toNat * 1048576 + s.toNat * 32768 + d.toNat * 128
  | .lh i s d => 0x00001003 + i.toNat * 1048576 + s.toNat * 32768 + d.toNat * 128
  | .lw i s d => 0x00002003 + i.toNat * 1048576 + s.toNat * 32768 + d.toNat * 128
  | .ld i s d => 0x00003003 + i.toNat * 1048576 + s.toNat * 32768 + d.toNat * 128
  | .lbu i s d => 0x00004003 + i.toNat * 1048576 + s.toNat * 32768 + d.toNat * 128
  | .lhu i s d => 0x00005003 + i.toNat * 1048576 + s.toNat * 32768 + d.toNat * 128
  | .lwu i s d => 0x00006003 + i.toNat * 1048576 + s.toNat * 32768 + d.toNat * 128
  | .sb i t s j => 0x00000023 + i.toNat * 33554432 + t.toNat * 1048576 + s.toNat * 32768 + j.toNat * 128
  | .sh i t s j => 0x00001023 + i.toNat * 33554432 + t.toNat * 1048576 + s.toNat * 32768 + j.toNat * 128
  | .sw i t s j => 0x00002023 + i.toNat * 33554432 + t.toNat * 1048576 + s.toNat * 32768 + j.toNat * 128
  | .sd i t s j => 0x00003023 + i.toNat * 33554432 + t.toNat * 1048576 + s.toNat * 32768 + j.toNat * 128
  | .shw e r f s => 0x0000000B + e.toNat * 1073741824 + r.toNat * 268435456 + f.toNat * 67108864 + s.toNat * 32768
  | .shr e r f d => 0x0000100B + e.toNat * 1073741824 + r.toNat * 268435456 + f.toNat * 67108864 + d.toNat * 128
  | .brld b s => 0x0000200B + b.toNat * 33554432 + s.toNat * 32768
  | .brst b s => 0x0000300B + b.toNat * 33554432 + s.toNat * 32768
  | .getd i j d => 0x0000400B + i.toNat * 33554432 + j.toNat * 1048576 + d.toNat * 128
  | .setd i j s => 0x0000500B + i.toNat * 33554432 + j.toNat * 1048576 + s.toNat * 32768
  | .clz s d => 0x0000600B + s.toNat * 32768 + d.toNat * 128
  | .ctz s d => 0x0200600B + s.toNat * 32768 + d.toNat * 128
  | .popc s d => 0x0400600B + s.toNat * 32768 + d.toNat * 128
  | .spillx h l s => 0x0000700B + h.toNat * 33554432 + l.toNat * 1048576 + s.toNat * 32768
  | .fillx h l d => 0x8000700B + h.toNat * 33554432 + l.toNat * 1048576 + d.toNat * 128
  | .ldfW s d => 0x0000002B + s.toNat * 32768 + d.toNat * 128
  | .ldfD s d => 0x0200002B + s.toNat * 32768 + d.toNat * 128
  | .ldfeW s d => 0x0400002B + s.toNat * 32768 + d.toNat * 128
  | .ldfeD s d => 0x0600002B + s.toNat * 32768 + d.toNat * 128
  | .ldt s d => 0x0800002B + s.toNat * 32768 + d.toNat * 128
  | .steW t s => 0x0000102B + t.toNat * 1048576 + s.toNat * 32768
  | .steD t s => 0x0200102B + t.toNat * 1048576 + s.toNat * 32768
  | .stfW t s => 0x0400102B + t.toNat * 1048576 + s.toNat * 32768
  | .stfD t s => 0x0600102B + t.toNat * 1048576 + s.toNat * 32768
  | .sete s => 0x0800102B + s.toNat * 32768
  | .setf s => 0x0A00102B + s.toNat * 32768
  | .bari t s => 0x0000202B + t.toNat * 1048576 + s.toNat * 32768
  | .bara t s => 0x0200202B + t.toNat * 1048576 + s.toNat * 32768
  | .barw t s d => 0x0400202B + t.toNat * 1048576 + s.toNat * 32768 + d.toNat * 128
  | .baraw t s d => 0x0600202B + t.toNat * 1048576 + s.toNat * 32768 + d.toNat * 128
  | .barc t s => 0x0800202B + t.toNat * 1048576 + s.toNat * 32768
  | .bart s d => 0x0A00202B + s.toNat * 32768 + d.toNat * 128
  | .waitvEq t s d => 0x0000302B + t.toNat * 1048576 + s.toNat * 32768 + d.toNat * 128
  | .waitvNe t s d => 0x0200302B + t.toNat * 1048576 + s.toNat * 32768 + d.toNat * 128
  | .amoadd c t s z d => 0x0000205B + c.toNat * 33554432 + t.toNat * 1048576 + s.toNat * 32768 + z.toNat * 4096 + d.toNat * 128
  | .amoswap c t s z d => 0x0800205B + c.toNat * 33554432 + t.toNat * 1048576 + s.toNat * 32768 + z.toNat * 4096 + d.toNat * 128
  | .amocas c t s z d => 0x1000205B + c.toNat * 33554432 + t.toNat * 1048576 + s.toNat * 32768 + z.toNat * 4096 + d.toNat * 128
  | .amoand c t s z d => 0x1800205B + c.toNat * 33554432 + t.toNat * 1048576 + s.toNat * 32768 + z.toNat * 4096 + d.toNat * 128
  | .amoor c t s z d => 0x2000205B + c.toNat * 33554432 + t.toNat * 1048576 + s.toNat * 32768 + z.toNat * 4096 + d.toNat * 128
  | .amoxor c t s z d => 0x2800205B + c.toNat * 33554432 + t.toNat * 1048576 + s.toNat * 32768 + z.toNat * 4096 + d.toNat * 128
  | .amomin c t s z d => 0x3000205B + c.toNat * 33554432 + t.toNat * 1048576 + s.toNat * 32768 + z.toNat * 4096 + d.toNat * 128
  | .amomax c t s z d => 0x3800205B + c.toNat * 33554432 + t.toNat * 1048576 + s.toNat * 32768 + z.toNat * 4096 + d.toNat * 128
  | .amominu c t s z d => 0x4000205B + c.toNat * 33554432 + t.toNat * 1048576 + s.toNat * 32768 + z.toNat * 4096 + d.toNat * 128
  | .amomaxu c t s z d => 0x4800205B + c.toNat * 33554432 + t.toNat * 1048576 + s.toNat * 32768 + z.toNat * 4096 + d.toNat * 128
  | .amofadd c t s d => 0x5000205B + c.toNat * 33554432 + t.toNat * 1048576 + s.toNat * 32768 + d.toNat * 128
  | .redadd c t s z => 0x8000205B + c.toNat * 33554432 + t.toNat * 1048576 + s.toNat * 32768 + z.toNat * 4096
  | .redand c t s z => 0x8800205B + c.toNat * 33554432 + t.toNat * 1048576 + s.toNat * 32768 + z.toNat * 4096
  | .redor c t s z => 0x9000205B + c.toNat * 33554432 + t.toNat * 1048576 + s.toNat * 32768 + z.toNat * 4096
  | .redxor c t s z => 0x9800205B + c.toNat * 33554432 + t.toNat * 1048576 + s.toNat * 32768 + z.toNat * 4096
  | .redmin c t s z => 0xA000205B + c.toNat * 33554432 + t.toNat * 1048576 + s.toNat * 32768 + z.toNat * 4096
  | .redmax c t s z => 0xA800205B + c.toNat * 33554432 + t.toNat * 1048576 + s.toNat * 32768 + z.toNat * 4096
  | .redminu c t s z => 0xB000205B + c.toNat * 33554432 + t.toNat * 1048576 + s.toNat * 32768 + z.toNat * 4096
  | .redmaxu c t s z => 0xB800205B + c.toNat * 33554432 + t.toNat * 1048576 + s.toNat * 32768 + z.toNat * 4096
  | .redfadd c t s => 0xC000205B + c.toNat * 33554432 + t.toNat * 1048576 + s.toNat * 32768
  | .redofadd c t s d => 0xC800205B + c.toNat * 33554432 + t.toNat * 1048576 + s.toNat * 32768 + d.toNat * 128
  | .lda c s z d => 0xE000205B + c.toNat * 33554432 + s.toNat * 32768 + z.toNat * 4096 + d.toNat * 128
  | .stl c t s z => 0xE800205B + c.toNat * 33554432 + t.toNat * 1048576 + s.toNat * 32768 + z.toNat * 4096
  | .fence c k => 0xF000005B + c.toNat * 33554432 + k.toNat * 1048576
  | .tget b w d => 0x0000007B + b.toNat * 67108864 + w.toNat * 33554432 + d.toNat * 128
  | .tdone s => 0x0000107B + s.toNat * 32768
  | .tabort s => 0x0200107B + s.toNat * 32768
  | .tspawn t s => 0x0000207B + t.toNat * 1048576 + s.toNat * 32768
  | .launch t s d => 0x0000307B + t.toNat * 1048576 + s.toNat * 32768 + d.toNat * 128
  | .lwait s d => 0x0000407B + s.toNat * 32768 + d.toNat * 128
  | .rand d => 0x0000507B + d.toNat * 128
  | .valuNop => 0x00000000
  | .vadd t d s v p => 0x04000000 + t.toNat * 8388608 + d.toNat * 524288 + s.toNat * 32768 + v.toNat * 2048 + p.toNat * 256
  | .vsub t d s v p => 0x08000000 + t.toNat * 8388608 + d.toNat * 524288 + s.toNat * 32768 + v.toNat * 2048 + p.toNat * 256
  | .vmul t d s v p => 0x0C000000 + t.toNat * 8388608 + d.toNat * 524288 + s.toNat * 32768 + v.toNat * 2048 + p.toNat * 256
  | .vmulh t d s v p u => 0x10000000 + t.toNat * 8388608 + d.toNat * 524288 + s.toNat * 32768 + v.toNat * 2048 + p.toNat * 256 + u.toNat
  | .vmac t d s v p => 0x14000000 + t.toNat * 8388608 + d.toNat * 524288 + s.toNat * 32768 + v.toNat * 2048 + p.toNat * 256
  | .vand t d s v p => 0x18000000 + t.toNat * 8388608 + d.toNat * 524288 + s.toNat * 32768 + v.toNat * 2048 + p.toNat * 256
  | .vor t d s v p => 0x1C000000 + t.toNat * 8388608 + d.toNat * 524288 + s.toNat * 32768 + v.toNat * 2048 + p.toNat * 256
  | .vxor t d s v p => 0x20000000 + t.toNat * 8388608 + d.toNat * 524288 + s.toNat * 32768 + v.toNat * 2048 + p.toNat * 256
  | .vshl t d s v p i a => 0x24000000 + t.toNat * 8388608 + d.toNat * 524288 + s.toNat * 32768 + v.toNat * 2048 + p.toNat * 256 + i.toNat * 128 + a.toNat
  | .vshr t d s v p i a => 0x28000000 + t.toNat * 8388608 + d.toNat * 524288 + s.toNat * 32768 + v.toNat * 2048 + p.toNat * 256 + i.toNat * 128 + a.toNat
  | .vsra t d s v p i a => 0x2C000000 + t.toNat * 8388608 + d.toNat * 524288 + s.toNat * 32768 + v.toNat * 2048 + p.toNat * 256 + i.toNat * 128 + a.toNat
  | .vmin t d s v p u => 0x30000000 + t.toNat * 8388608 + d.toNat * 524288 + s.toNat * 32768 + v.toNat * 2048 + p.toNat * 256 + u.toNat
  | .vmax t d s v p u => 0x34000000 + t.toNat * 8388608 + d.toNat * 524288 + s.toNat * 32768 + v.toNat * 2048 + p.toNat * 256 + u.toNat
  | .vabs t d s p => 0x38000000 + t.toNat * 8388608 + d.toNat * 524288 + s.toNat * 32768 + p.toNat * 256
  | .vadds t d s v p b u => 0x3C000000 + t.toNat * 8388608 + d.toNat * 524288 + s.toNat * 32768 + v.toNat * 2048 + p.toNat * 256 + b.toNat * 2 + u.toNat
  | .vfadd t d s v p => 0x40000000 + t.toNat * 8388608 + d.toNat * 524288 + s.toNat * 32768 + v.toNat * 2048 + p.toNat * 256
  | .vfsub t d s v p => 0x44000000 + t.toNat * 8388608 + d.toNat * 524288 + s.toNat * 32768 + v.toNat * 2048 + p.toNat * 256
  | .vfmul t d s v p => 0x48000000 + t.toNat * 8388608 + d.toNat * 524288 + s.toNat * 32768 + v.toNat * 2048 + p.toNat * 256
  | .vfma t d s v p => 0x4C000000 + t.toNat * 8388608 + d.toNat * 524288 + s.toNat * 32768 + v.toNat * 2048 + p.toNat * 256
  | .vfms t d s v p => 0x50000000 + t.toNat * 8388608 + d.toNat * 524288 + s.toNat * 32768 + v.toNat * 2048 + p.toNat * 256
  | .vfmin t d s v p => 0x54000000 + t.toNat * 8388608 + d.toNat * 524288 + s.toNat * 32768 + v.toNat * 2048 + p.toNat * 256
  | .vfmax t d s v p => 0x58000000 + t.toNat * 8388608 + d.toNat * 524288 + s.toNat * 32768 + v.toNat * 2048 + p.toNat * 256
  | .vfsgn t d s v p m => 0x5C000000 + t.toNat * 8388608 + d.toNat * 524288 + s.toNat * 32768 + v.toNat * 2048 + p.toNat * 256 + m.toNat
  | .vcmp t d s v p u c => 0x60000000 + t.toNat * 8388608 + d.toNat * 524288 + s.toNat * 32768 + v.toNat * 2048 + p.toNat * 256 + u.toNat * 8 + c.toNat
  | .vsel t d s v p => 0x64000000 + t.toNat * 8388608 + d.toNat * 524288 + s.toNat * 32768 + v.toNat * 2048 + p.toNat * 256
  | .vmovi t d i j p k => 0x68000000 + t.toNat * 8388608 + d.toNat * 524288 + i.toNat * 32768 + j.toNat * 2048 + p.toNat * 256 + k.toNat
  | .vmovx t d p x => 0x6C000000 + t.toNat * 8388608 + d.toNat * 524288 + p.toNat * 256 + x.toNat
  | .vmov t d s p => 0x70000000 + t.toNat * 8388608 + d.toNat * 524288 + s.toNat * 32768 + p.toNat * 256
  | .xmv t d s p => 0x74000000 + t.toNat * 8388608 + d.toNat * 524288 + s.toNat * 32768 + p.toNat * 256
  | .vshuf4 t d s p => 0x78000000 + t.toNat * 8388608 + d.toNat * 524288 + s.toNat * 32768 + p.toNat * 256
  | .vrand d p x => 0x7D000000 + d.toNat * 524288 + p.toNat * 256 + x.toNat
  | .vperm t d s v p z => 0x80000000 + t.toNat * 8388608 + d.toNat * 524288 + s.toNat * 32768 + v.toNat * 2048 + p.toNat * 256 + z.toNat
  | .vrot t d s p a => 0x84000000 + t.toNat * 8388608 + d.toNat * 524288 + s.toNat * 32768 + p.toNat * 256 + a.toNat
  | .vbcast t d s p a => 0x88000000 + t.toNat * 8388608 + d.toNat * 524288 + s.toNat * 32768 + p.toNat * 256 + a.toNat
  | .vzip t d s v p h => 0x8C000000 + t.toNat * 8388608 + d.toNat * 524288 + s.toNat * 32768 + v.toNat * 2048 + p.toNat * 256 + h.toNat
  | .vuzp t d s v p h => 0x90000000 + t.toNat * 8388608 + d.toNat * 524288 + s.toNat * 32768 + v.toNat * 2048 + p.toNat * 256 + h.toNat
  | .vrsum t d s p => 0x94000000 + t.toNat * 8388608 + d.toNat * 524288 + s.toNat * 32768 + p.toNat * 256
  | .vrmax t d s p => 0x98000000 + t.toNat * 8388608 + d.toNat * 524288 + s.toNat * 32768 + p.toNat * 256
  | .vrmin t d s p => 0x9C000000 + t.toNat * 8388608 + d.toNat * 524288 + s.toNat * 32768 + p.toNat * 256
  | .vcvt t d s v p f m => 0xA0000000 + t.toNat * 8388608 + d.toNat * 524288 + s.toNat * 32768 + v.toNat * 2048 + p.toNat * 256 + f.toNat * 8 + m.toNat
  | .vpack t d s v p f m => 0xA4000000 + t.toNat * 8388608 + d.toNat * 524288 + s.toNat * 32768 + v.toNat * 2048 + p.toNat * 256 + f.toNat * 8 + m.toNat
  | .vunpk t d s v p f m => 0xA8000000 + t.toNat * 8388608 + d.toNat * 524288 + s.toNat * 32768 + v.toNat * 2048 + p.toNat * 256 + f.toNat * 8 + m.toNat
  | .plog d s v b => 0xB0000000 + d.toNat * 524288 + s.toNat * 32768 + v.toNat * 2048 + b.toNat
  | .pcnt t p x => 0xB4000000 + t.toNat * 8388608 + p.toNat * 256 + x.toNat
  | .pfirst t p x => 0xB8000000 + t.toNat * 8388608 + p.toNat * 256 + x.toNat
  | .pset t d x => 0xBC000000 + t.toNat * 8388608 + d.toNat * 524288 + x.toNat
  | .vspill s l => 0xC0000000 + s.toNat * 32768 + l.toNat
  | .vfill d l => 0xC4000000 + d.toNat * 524288 + l.toNat
  | .vext t i s j x => 0xC8000000 + t.toNat * 8388608 + i.toNat * 524288 + s.toNat * 32768 + j.toNat * 2048 + x.toNat
  | .vins t d i j x => 0xCC000000 + t.toNat * 8388608 + d.toNat * 524288 + i.toNat * 32768 + j.toNat * 2048 + x.toNat
  | .vexp2 t d s p => 0xD0000000 + t.toNat * 8388608 + d.toNat * 524288 + s.toNat * 32768 + p.toNat * 256
  | .vlog2 t d s p => 0xD4000000 + t.toNat * 8388608 + d.toNat * 524288 + s.toNat * 32768 + p.toNat * 256
  | .vrcp t d s p => 0xD8000000 + t.toNat * 8388608 + d.toNat * 524288 + s.toNat * 32768 + p.toNat * 256
  | .vrsqrt t d s p => 0xDC000000 + t.toNat * 8388608 + d.toNat * 524288 + s.toNat * 32768 + p.toNat * 256
  | .vsqrt t d s p => 0xE0000000 + t.toNat * 8388608 + d.toNat * 524288 + s.toNat * 32768 + p.toNat * 256
  | .vtanh t d s p => 0xE4000000 + t.toNat * 8388608 + d.toNat * 524288 + s.toNat * 32768 + p.toNat * 256
  | .verf t d s p => 0xE8000000 + t.toNat * 8388608 + d.toNat * 524288 + s.toNat * 32768 + p.toNat * 256
  | .acr t d c b m p a r => 0xEC000000 + t.toNat * 8388608 + d.toNat * 524288 + c.toNat * 32768 + b.toNat * 16384 + m.toNat * 2048 + p.toNat * 256 + a.toNat * 64 + r.toNat
  | .acw t c s p a r => 0xF0000000 + t.toNat * 8388608 + c.toNat * 524288 + s.toNat * 32768 + p.toNat * 256 + a.toNat * 64 + r.toNat
  | .acs d l k p => 0xF6800000 + d.toNat * 524288 + l.toNat * 131072 + k.toNat * 32768 + p.toNat * 256
  | .acsw l k s p => 0xFA800000 + l.toNat * 2097152 + k.toNat * 524288 + s.toNat * 32768 + p.toNat * 256
  | .vmNop => 0x00000000
  | .vld v b x p i => 0x08000000 + v.toNat * 4194304 + b.toNat * 65536 + x.toNat * 2048 + p.toNat * 256 + i.toNat
  | .vst v b x p i => 0x10000000 + v.toNat * 4194304 + b.toNat * 65536 + x.toNat * 2048 + p.toNat * 256 + i.toNat
  | .vlds v b x p i => 0x18000000 + v.toNat * 4194304 + b.toNat * 65536 + x.toNat * 2048 + p.toNat * 256 + i.toNat
  | .vsts v b x p i => 0x20000000 + v.toNat * 4194304 + b.toNat * 65536 + x.toNat * 2048 + p.toNat * 256 + i.toNat
  | .vgth v b x p i => 0x28000000 + v.toNat * 4194304 + b.toNat * 65536 + x.toNat * 2048 + p.toNat * 256 + i.toNat
  | .vsct v b x p i => 0x30000000 + v.toNat * 4194304 + b.toNat * 65536 + x.toNat * 2048 + p.toNat * 256 + i.toNat
  | .vldl v x p i => 0x38000000 + v.toNat * 4194304 + x.toNat * 2048 + p.toNat * 256 + i.toNat
  | .vstl v x p i => 0x40000000 + v.toNat * 4194304 + x.toNat * 2048 + p.toNat * 256 + i.toNat
  | .vldf v b x p i => 0x48000000 + v.toNat * 4194304 + b.toNat * 65536 + x.toNat * 2048 + p.toNat * 256 + i.toNat
  | .vste v b x p i => 0x50000000 + v.toNat * 4194304 + b.toNat * 65536 + x.toNat * 2048 + p.toNat * 256 + i.toNat
  | .vpush v q => 0x58000000 + v.toNat * 4194304 + q.toNat * 65536
  | .vpop v q => 0x60000000 + v.toNat * 4194304 + q.toNat * 65536
  | .vstb v b x p i => 0x68000000 + v.toNat * 4194304 + b.toNat * 65536 + x.toNat * 2048 + p.toNat * 256 + i.toNat
  | .vred v b x p o => 0x70000000 + v.toNat * 4194304 + b.toNat * 65536 + x.toNat * 2048 + p.toNat * 256 + o.toNat
  | .vpref b x p i => 0x78000000 + b.toNat * 65536 + x.toNat * 2048 + p.toNat * 256 + i.toNat
  | .mxNop => 0x00000000
  | .mwl q l => 0x081F8000 + q.toNat * 2097152 + l.toNat * 16384
  | .mma c q n l r => 0x10000000 + c.toNat * 33554432 + q.toNat * 2097152 + n.toNat * 32768 + l.toNat * 16384 + r.toNat
  | .mmz c q n l r => 0x18000000 + c.toNat * 33554432 + q.toNat * 2097152 + n.toNat * 32768 + l.toNat * 16384 + r.toNat
  | .mmg c q n l z r => 0x20000000 + c.toNat * 33554432 + q.toNat * 2097152 + n.toNat * 32768 + l.toNat * 16384 + z.toNat * 4096 + r.toNat
  | .mtl c q n l m r => 0x28000000 + c.toNat * 33554432 + q.toNat * 2097152 + n.toNat * 32768 + l.toNat * 16384 + m.toNat * 4096 + r.toNat
  | .msm c q n m r o => 0x30000000 + c.toNat * 33554432 + q.toNat * 2097152 + n.toNat * 32768 + m.toNat * 4096 + r.toNat * 4 + o.toNat
  | .mclr c z => 0x38000000 + c.toNat * 33554432 + z.toNat * 4096
  | .mout c q n m r => 0x40000000 + c.toNat * 33554432 + q.toNat * 2097152 + n.toNat * 32768 + m.toNat * 4096 + r.toNat
  | .mside c o m => 0x48000000 + c.toNat * 33554432 + o.toNat * 4096 + m.toNat
  | .mwait g => 0x50000000 + g.toNat * 4096
  | .stNop => 0x00000000
  | .cpy m s d x t => 0x04000000 + m.toNat * 4194304 + s.toNat * 65536 + d.toNat * 1024 + x.toNat * 32 + t.toNat
  | .cpyq q s m x t => 0x08000000 + q.toNat * 4194304 + s.toNat * 65536 + m.toNat * 1024 + x.toNat * 32 + t.toNat
  | .cpyo q m d x t => 0x0C000000 + q.toNat * 4194304 + m.toNat * 65536 + d.toNat * 1024 + x.toNat * 32 + t.toNat
  | .cwait a t => 0x10000000 + a.toNat * 4194304 + t.toNat
  | .ringi q x => 0x14000000 + q.toNat * 4194304 + x.toNat * 32
  | .wset q s m x t => 0x18000000 + q.toNat * 4194304 + s.toNat * 65536 + m.toNat * 1024 + x.toNat * 32 + t.toNat
  | .wadv q x t => 0x1C000000 + q.toNat * 4194304 + x.toNat * 32 + t.toNat
  | .kpost k s r x t => 0x20000000 + k.toNat * 4194304 + s.toNat * 65536 + r.toNat * 1024 + x.toNat * 32 + t.toNat
  | .kwait x t => 0x24000000 + x.toNat * 32 + t.toNat
  | .ovl x t => 0x28000000 + x.toNat * 32 + t.toNat
  | .pref s m x => 0x2C000000 + s.toNat * 65536 + m.toNat * 1024 + x.toNat * 32
  | .res k s => 0x30000000 + k.toNat * 4194304 + s.toNat * 65536
  | .resultLand _ => 0
  | .interlockedResultLand _ _ => 0
  | .waitcExpire _ => 0
  | .waitvTimeout _ => 0
  | .lwbReplayLand _ => 0
  | .baseRegionLoad _ _ => 0
  | .ovlRegionWritten _ _ _ => 0
  | .jobStart _ _ => 0
  | .ringSlotClaim _ _ => 0
  | .jobComplete _ _ => 0
  | .jobFault _ _ => 0
  | .mxSlotRelease _ => 0
  | .mxRowPush _ => 0
  | .mtlStep _ => 0
  | .mxFinish _ => 0
  | .idleCorePass _ => 0
  | .taskStart _ => 0
  | .taskComplete _ => 0
  | .subversionMerge _ _ _ => 0
  | .admissionRead _ _ => 0
  | .admission _ _ => 0
  | .launchComplete _ _ => 0
  | .launchCommit _ _ => 0
  | .prepareAcknowledge _ _ _ => 0
  | .prepareTimeout _ _ => 0
  | .preparedAccessResume _ => 0
  | .rehearsalCompare _ _ => 0
  | .versionFree _ _ => 0
  | .collectiveComplete _ _ => 0
  | .chunkComplete _ _ _ => 0
  | .laneBoundary _ => 0
  | .hopGrant _ _ => 0
  | .preemptDecision _ _ _ => 0
  | .drainWindowExpire _ => 0
  | .park _ => 0
  | .saveComplete _ => 0
  | .restore _ _ => 0
  | .restoreComplete _ => 0
  | .watchdogFire _ => 0
  | .contextKill _ => 0
  | .contextCreate _ _ => 0
  | .pageWalkComplete _ => 0
  | .pagePresent _ _ => 0
  | .addressInvalid _ _ => 0
  | .mappingChange _ _ _ => 0
  | .pageMigrate _ _ _ => 0
  | .codeLoad _ _ => 0
  | .codeUnload _ => 0
  | .forcedUnload _ => 0
  | .dbgSet _ _ _ _ => 0
  | .debugResume _ => 0
  | .codeSample _ _ _ => 0
  | .codeChange _ => 0
  | .heartbeat _ => 0
  | .heartbeatDeadline _ => 0
  | .takeover _ => 0
  | .patrolScrub _ => 0
  | .wipe _ => 0
  | .classifyWindow _ => 0
  | .demote _ _ => 0
  | .promote _ _ => 0
  | .flyBind _ _ _ => 0
  | .flyCancel _ => 0
  | .flySave _ => 0
  | .flySwitch _ => 0
  | .flyAbandon _ => 0
  | .flyRelease _ => 0
  | .recreate _ _ _ => 0
  | .remoteStore _ => 0
  | .loadRequest _ => 0
  | .loadResponse _ => 0
  | .acknowledgement _ => 0
  | .refusal _ => 0
  | .remoteAtomic _ => 0
  | .remoteReduction _ => 0
  | .chorusUpOrdered _ => 0
  | .chorusUpUnordered _ => 0
  | .chorusDown _ => 0
  | .reservationRequest _ => 0
  | .grant _ => 0
  | .commitControl _ => 0
  | .flyControl _ => 0
  | .flyData _ => 0
  | .flitRetransmit _ _ => 0
  | .portRetrainFail _ => 0
  | .routeSet _ _ => 0
  | .nodeNumberSet _ => 0
  | .doorbell _ _ _ => 0
  | .bar2Read _ _ => 0
  | .bar2Write _ _ => 0
  | .registerWrite _ _ => 0
  | .completionFree _ _ => 0
  | .status => 0
  | .fwStage _ _ => 0
  | .fwCommit _ => 0
  | .reset => 0
  | .lcAdvance _ => 0
  | .report _ _ => 0
  | .idkey => 0
  | .setLtol _ => 0
  | .powerOnReset => 0
  | .hostReset => 0
  | .bootComplete => 0
  | .lowPowerEntry => 0
  | .wake => 0
  | .throttle => 0
  | .clockRestore => 0
  | .thermalTrip => 0
  | .logicalClockTick _ => 0
  | .powerLoss => 0
  | .contextResume _ => 0
  | .contextFree _ => 0
  | .debuggerAttach _ _ => 0
  | .debugContextSave _ => 0
  | .commitOutcomeQuery _ _ _ => 0

/-- The slot an instruction is laid into when only its word is given: the lowest slot that accepts it; 8 for an event, which has no
word. -/
def homeSlot (i : Instr) : Nat :=
  match i with
  | .next _ _ => 0
  | .br _ _ _ _ _ => 0
  | .brp _ _ _ _ _ _ => 0
  | .jmp _ _ _ => 0
  | .call _ _ _ => 0
  | .jmpx _ _ _ => 0
  | .loop _ _ _ _ => 0
  | .loopi _ _ _ _ => 0
  | .waitc _ _ _ => 0
  | .trap _ _ _ => 0
  | .eret _ _ => 0
  | .done _ _ => 0
  | .halt _ _ => 0
  | .brk _ _ _ => 0
  | .iwait _ _ _ => 0
  | .scalarNop => 1
  | .lui _ _ => 1
  | .addi _ _ _ => 1
  | .slti _ _ _ => 1
  | .sltiu _ _ _ => 1
  | .xori _ _ _ => 1
  | .ori _ _ _ => 1
  | .andi _ _ _ => 1
  | .slli _ _ _ => 1
  | .srli _ _ _ => 1
  | .srai _ _ _ => 1
  | .addiw _ _ _ => 1
  | .slliw _ _ _ => 1
  | .srliw _ _ _ => 1
  | .sraiw _ _ _ => 1
  | .add _ _ _ => 1
  | .sub _ _ _ => 1
  | .sll _ _ _ => 1
  | .slt _ _ _ => 1
  | .sltu _ _ _ => 1
  | .xor _ _ _ => 1
  | .srl _ _ _ => 1
  | .sra _ _ _ => 1
  | .or _ _ _ => 1
  | .and _ _ _ => 1
  | .mul _ _ _ => 1
  | .mulh _ _ _ => 1
  | .mulhsu _ _ _ => 1
  | .mulhu _ _ _ => 1
  | .div _ _ _ => 1
  | .divu _ _ _ => 1
  | .rem _ _ _ => 1
  | .remu _ _ _ => 1
  | .addw _ _ _ => 1
  | .subw _ _ _ => 1
  | .sllw _ _ _ => 1
  | .srlw _ _ _ => 1
  | .sraw _ _ _ => 1
  | .mulw _ _ _ => 1
  | .divw _ _ _ => 1
  | .divuw _ _ _ => 1
  | .remw _ _ _ => 1
  | .remuw _ _ _ => 1
  | .lb _ _ _ => 1
  | .lh _ _ _ => 1
  | .lw _ _ _ => 1
  | .ld _ _ _ => 1
  | .lbu _ _ _ => 1
  | .lhu _ _ _ => 1
  | .lwu _ _ _ => 1
  | .sb _ _ _ _ => 1
  | .sh _ _ _ _ => 1
  | .sw _ _ _ _ => 1
  | .sd _ _ _ _ => 1
  | .shw _ _ _ _ => 1
  | .shr _ _ _ _ => 1
  | .brld _ _ => 1
  | .brst _ _ => 1
  | .getd _ _ _ => 1
  | .setd _ _ _ => 1
  | .clz _ _ => 1
  | .ctz _ _ => 1
  | .popc _ _ => 1
  | .spillx _ _ _ => 1
  | .fillx _ _ _ => 1
  | .ldfW _ _ => 2
  | .ldfD _ _ => 2
  | .ldfeW _ _ => 2
  | .ldfeD _ _ => 2
  | .ldt _ _ => 2
  | .steW _ _ => 2
  | .steD _ _ => 2
  | .stfW _ _ => 2
  | .stfD _ _ => 2
  | .sete _ => 2
  | .setf _ => 2
  | .bari _ _ => 2
  | .bara _ _ => 2
  | .barw _ _ _ => 2
  | .baraw _ _ _ => 2
  | .barc _ _ => 2
  | .bart _ _ => 2
  | .waitvEq _ _ _ => 2
  | .waitvNe _ _ _ => 2
  | .amoadd _ _ _ _ _ => 2
  | .amoswap _ _ _ _ _ => 2
  | .amocas _ _ _ _ _ => 2
  | .amoand _ _ _ _ _ => 2
  | .amoor _ _ _ _ _ => 2
  | .amoxor _ _ _ _ _ => 2
  | .amomin _ _ _ _ _ => 2
  | .amomax _ _ _ _ _ => 2
  | .amominu _ _ _ _ _ => 2
  | .amomaxu _ _ _ _ _ => 2
  | .amofadd _ _ _ _ => 2
  | .redadd _ _ _ _ => 2
  | .redand _ _ _ _ => 2
  | .redor _ _ _ _ => 2
  | .redxor _ _ _ _ => 2
  | .redmin _ _ _ _ => 2
  | .redmax _ _ _ _ => 2
  | .redminu _ _ _ _ => 2
  | .redmaxu _ _ _ _ => 2
  | .redfadd _ _ _ => 2
  | .redofadd _ _ _ _ => 2
  | .lda _ _ _ _ => 2
  | .stl _ _ _ _ => 2
  | .fence _ _ => 2
  | .tget _ _ _ => 2
  | .tdone _ => 2
  | .tabort _ => 2
  | .tspawn _ _ => 2
  | .launch _ _ _ => 2
  | .lwait _ _ => 2
  | .rand _ => 2
  | .valuNop => 3
  | .vadd _ _ _ _ _ => 3
  | .vsub _ _ _ _ _ => 3
  | .vmul _ _ _ _ _ => 3
  | .vmulh _ _ _ _ _ _ => 3
  | .vmac _ _ _ _ _ => 3
  | .vand _ _ _ _ _ => 3
  | .vor _ _ _ _ _ => 3
  | .vxor _ _ _ _ _ => 3
  | .vshl _ _ _ _ _ _ _ => 3
  | .vshr _ _ _ _ _ _ _ => 3
  | .vsra _ _ _ _ _ _ _ => 3
  | .vmin _ _ _ _ _ _ => 3
  | .vmax _ _ _ _ _ _ => 3
  | .vabs _ _ _ _ => 3
  | .vadds _ _ _ _ _ _ _ => 3
  | .vfadd _ _ _ _ _ => 3
  | .vfsub _ _ _ _ _ => 3
  | .vfmul _ _ _ _ _ => 3
  | .vfma _ _ _ _ _ => 3
  | .vfms _ _ _ _ _ => 3
  | .vfmin _ _ _ _ _ => 3
  | .vfmax _ _ _ _ _ => 3
  | .vfsgn _ _ _ _ _ _ => 3
  | .vcmp _ _ _ _ _ _ _ => 3
  | .vsel _ _ _ _ _ => 3
  | .vmovi _ _ _ _ _ _ => 3
  | .vmovx _ _ _ _ => 3
  | .vmov _ _ _ _ => 3
  | .xmv _ _ _ _ => 3
  | .vshuf4 _ _ _ _ => 3
  | .vrand _ _ _ => 3
  | .vperm _ _ _ _ _ _ => 3
  | .vrot _ _ _ _ _ => 3
  | .vbcast _ _ _ _ _ => 3
  | .vzip _ _ _ _ _ _ => 3
  | .vuzp _ _ _ _ _ _ => 3
  | .vrsum _ _ _ _ => 3
  | .vrmax _ _ _ _ => 3
  | .vrmin _ _ _ _ => 3
  | .vcvt _ _ _ _ _ _ _ => 3
  | .vpack _ _ _ _ _ _ _ => 3
  | .vunpk _ _ _ _ _ _ _ => 3
  | .plog _ _ _ _ => 3
  | .pcnt _ _ _ => 3
  | .pfirst _ _ _ => 3
  | .pset _ _ _ => 3
  | .vspill _ _ => 3
  | .vfill _ _ => 3
  | .vext _ _ _ _ _ => 3
  | .vins _ _ _ _ _ => 3
  | .vexp2 _ _ _ _ => 5
  | .vlog2 _ _ _ _ => 5
  | .vrcp _ _ _ _ => 5
  | .vrsqrt _ _ _ _ => 5
  | .vsqrt _ _ _ _ => 5
  | .vtanh _ _ _ _ => 5
  | .verf _ _ _ _ => 5
  | .acr _ _ _ _ _ _ _ _ => 5
  | .acw _ _ _ _ _ _ => 5
  | .acs _ _ _ _ => 5
  | .acsw _ _ _ _ => 5
  | .vmNop => 4
  | .vld _ _ _ _ _ => 4
  | .vst _ _ _ _ _ => 4
  | .vlds _ _ _ _ _ => 4
  | .vsts _ _ _ _ _ => 4
  | .vgth _ _ _ _ _ => 4
  | .vsct _ _ _ _ _ => 4
  | .vldl _ _ _ _ => 4
  | .vstl _ _ _ _ => 4
  | .vldf _ _ _ _ _ => 4
  | .vste _ _ _ _ _ => 4
  | .vpush _ _ => 4
  | .vpop _ _ => 4
  | .vstb _ _ _ _ _ => 4
  | .vred _ _ _ _ _ => 4
  | .vpref _ _ _ _ => 4
  | .mxNop => 6
  | .mwl _ _ => 6
  | .mma _ _ _ _ _ => 6
  | .mmz _ _ _ _ _ => 6
  | .mmg _ _ _ _ _ _ => 6
  | .mtl _ _ _ _ _ _ => 6
  | .msm _ _ _ _ _ _ => 6
  | .mclr _ _ => 6
  | .mout _ _ _ _ _ => 6
  | .mside _ _ _ => 6
  | .mwait _ => 6
  | .stNop => 7
  | .cpy _ _ _ _ _ => 7
  | .cpyq _ _ _ _ _ => 7
  | .cpyo _ _ _ _ _ => 7
  | .cwait _ _ => 7
  | .ringi _ _ => 7
  | .wset _ _ _ _ _ => 7
  | .wadv _ _ _ => 7
  | .kpost _ _ _ _ _ => 7
  | .kwait _ _ => 7
  | .ovl _ _ => 7
  | .pref _ _ _ => 7
  | .res _ _ => 7
  | .resultLand _ => 8
  | .interlockedResultLand _ _ => 8
  | .waitcExpire _ => 8
  | .waitvTimeout _ => 8
  | .lwbReplayLand _ => 8
  | .baseRegionLoad _ _ => 8
  | .ovlRegionWritten _ _ _ => 8
  | .jobStart _ _ => 8
  | .ringSlotClaim _ _ => 8
  | .jobComplete _ _ => 8
  | .jobFault _ _ => 8
  | .mxSlotRelease _ => 8
  | .mxRowPush _ => 8
  | .mtlStep _ => 8
  | .mxFinish _ => 8
  | .idleCorePass _ => 8
  | .taskStart _ => 8
  | .taskComplete _ => 8
  | .subversionMerge _ _ _ => 8
  | .admissionRead _ _ => 8
  | .admission _ _ => 8
  | .launchComplete _ _ => 8
  | .launchCommit _ _ => 8
  | .prepareAcknowledge _ _ _ => 8
  | .prepareTimeout _ _ => 8
  | .preparedAccessResume _ => 8
  | .rehearsalCompare _ _ => 8
  | .versionFree _ _ => 8
  | .collectiveComplete _ _ => 8
  | .chunkComplete _ _ _ => 8
  | .laneBoundary _ => 8
  | .hopGrant _ _ => 8
  | .preemptDecision _ _ _ => 8
  | .drainWindowExpire _ => 8
  | .park _ => 8
  | .saveComplete _ => 8
  | .restore _ _ => 8
  | .restoreComplete _ => 8
  | .watchdogFire _ => 8
  | .contextKill _ => 8
  | .contextCreate _ _ => 8
  | .pageWalkComplete _ => 8
  | .pagePresent _ _ => 8
  | .addressInvalid _ _ => 8
  | .mappingChange _ _ _ => 8
  | .pageMigrate _ _ _ => 8
  | .codeLoad _ _ => 8
  | .codeUnload _ => 8
  | .forcedUnload _ => 8
  | .dbgSet _ _ _ _ => 8
  | .debugResume _ => 8
  | .codeSample _ _ _ => 8
  | .codeChange _ => 8
  | .heartbeat _ => 8
  | .heartbeatDeadline _ => 8
  | .takeover _ => 8
  | .patrolScrub _ => 8
  | .wipe _ => 8
  | .classifyWindow _ => 8
  | .demote _ _ => 8
  | .promote _ _ => 8
  | .flyBind _ _ _ => 8
  | .flyCancel _ => 8
  | .flySave _ => 8
  | .flySwitch _ => 8
  | .flyAbandon _ => 8
  | .flyRelease _ => 8
  | .recreate _ _ _ => 8
  | .remoteStore _ => 8
  | .loadRequest _ => 8
  | .loadResponse _ => 8
  | .acknowledgement _ => 8
  | .refusal _ => 8
  | .remoteAtomic _ => 8
  | .remoteReduction _ => 8
  | .chorusUpOrdered _ => 8
  | .chorusUpUnordered _ => 8
  | .chorusDown _ => 8
  | .reservationRequest _ => 8
  | .grant _ => 8
  | .commitControl _ => 8
  | .flyControl _ => 8
  | .flyData _ => 8
  | .flitRetransmit _ _ => 8
  | .portRetrainFail _ => 8
  | .routeSet _ _ => 8
  | .nodeNumberSet _ => 8
  | .doorbell _ _ _ => 8
  | .bar2Read _ _ => 8
  | .bar2Write _ _ => 8
  | .registerWrite _ _ => 8
  | .completionFree _ _ => 8
  | .status => 8
  | .fwStage _ _ => 8
  | .fwCommit _ => 8
  | .reset => 8
  | .lcAdvance _ => 8
  | .report _ _ => 8
  | .idkey => 8
  | .setLtol _ => 8
  | .powerOnReset => 8
  | .hostReset => 8
  | .bootComplete => 8
  | .lowPowerEntry => 8
  | .wake => 8
  | .throttle => 8
  | .clockRestore => 8
  | .thermalTrip => 8
  | .logicalClockTick _ => 8
  | .powerLoss => 8
  | .contextResume _ => 8
  | .contextFree _ => 8
  | .debuggerAttach _ _ => 8
  | .debugContextSave _ => 8
  | .commitOutcomeQuery _ _ _ => 8

/-- A reading of a lone word with its rank among the readings of other slots: a word that is exactly an instruction's
fixed bits ranks first, then the reading that fixes the most bits (DESIGN CHOICE; log entry 2). -/
def tableRank (w : Nat) (i : Instr) : Nat := (if w = matchWord i then 64 else 0) + fixedBits i

/-- The better of two readings; the earlier one on a tie. -/
def betterReading (w : Nat) (best : Option Instr) (new : Option Instr) : Option Instr :=
  match best, new with
  | none, n => n
  | some b, none => some b
  | some b, some n => if tableRank w b < tableRank w n then some n else some b

/-- A word as the opcode table prints it, brought to the encoding of its rule. The two differ in one row: the table prints
FILLX with bits 31 and 30 as 01, R116 gives funct7[6] = 1 and funct7[5] = 0; the rule governs (DEDUCED; log entry 23). -/
def tableWord (w : Nat) : Nat := if w % 128 = 0x0B ∧ w / 4096 % 8 = 7 ∧ w / 2 ^ 30 = 1 then w + 2 ^ 30 else w

/-- The instruction read from a word whose slot is not given: every slot's decoder reads it, and the best reading stands
(DESIGN CHOICE; log entry 2). The table gives 32 bits to every row that has an encoding. -/
def decodeTableWord (nbits w : Nat) : Option Instr :=
  let v := tableWord (w % 2 ^ nbits % 2 ^ 32)
  [3, 1, 4, 6, 7, 0].foldl (fun best k => betterReading v best (decodeSlot k v)) none

end Sys2Proof
end

