-- ==== Sys2Proof/Machine/Code.lean ====
section
/-!
DEFINITION. Code objects (R89 to R91, R426): kernels, overlays, base code, the determinism promise, and the loading of
instruction regions.
-/
namespace Sys2Proof.Machine

/-- Byte offset of overlay entry i (Table 3.10). -/
def CodeObj.overlayAt (o : CodeObj) (i : Nat) : Nat := o.nat 0x20 8 + 16 * i

/-- The number of overlay entries. -/
def CodeObj.overlays (o : CodeObj) : Nat := o.nat 0x14 4

/-- The first region of an overlay entry. -/
def CodeObj.overlayFirst (o : CodeObj) (i : Nat) : Nat := o.nat (o.overlayAt i) 2

/-- The region count of an overlay entry. -/
def CodeObj.overlayCount (o : CodeObj) (i : Nat) : Nat := o.nat (o.overlayAt i + 2) 2

/-- Bundle j of an overlay entry. -/
def CodeObj.overlayBundle (o : CodeObj) (i j : Nat) : Bundle :=
  BitVec.ofNat 256 (o.nat (o.nat (o.overlayAt i + 8) 8 + 32 * j) 32)

/-- A bundle index lies in the base regions, which overlay entry 0 describes (R426). -/
def CodeObj.inBase (o : CodeObj) (idx : Nat) : Bool :=
  decide (32 * o.overlayFirst 0 ≤ idx) && decide (idx < 32 * (o.overlayFirst 0 + o.overlayCount 0))

/-- The entry bundle of kernel i. -/
def CodeObj.entryOf (o : CodeObj) (i : Nat) : Nat := o.nat (o.kernelAt i + 8) 4

/-- The index of the first overlay of kernel i. -/
def CodeObj.firstOvl (o : CodeObj) (i : Nat) : Nat := o.nat (o.kernelAt i + 12) 2

/-- The overlay count of kernel i. -/
def CodeObj.ovls (o : CodeObj) (i : Nat) : Nat := o.nat (o.kernelAt i + 14) 2

/-- Where the base bundles of kernel i end: at the next higher entry bundle, or at the end of the base code (log entry 15). -/
def CodeObj.kernelEnd (o : CodeObj) (i : Nat) : Nat :=
  (upTo o.kernels).foldl (fun e k => if o.entryOf i < o.entryOf k ∧ o.entryOf k < e then o.entryOf k else e)
    (32 * (o.overlayFirst 0 + o.overlayCount 0))

/-- The bundles of kernel i: its base bundles from its entry on, and its overlays (R91; log entry 15). -/
def CodeObj.kernelBundles (o : CodeObj) (i : Nat) : List Bundle :=
  (upTo (o.kernelEnd i - o.entryOf i)).map (fun j => o.overlayBundle 0 (o.entryOf i - 32 * o.overlayFirst 0 + j)) ++
  (upTo (o.ovls i)).flatMap (fun k =>
    (upTo (32 * o.overlayCount (o.firstOvl i + k))).map (fun j => o.overlayBundle (o.firstOvl i + k) j))

/-- A scalar word that Table 13.5 matches: AMOFADD, REDFADD, or a GETD of DCYC or DCORE (R306). -/
def looseScalar (w : Nat) : Bool :=
  (field w 0 7 == 0x5B && field w 12 3 == 2 && (field w 27 5 == 0x0A || field w 27 5 == 0x18)) ||
  (field w 0 7 == 0x0B && field w 12 3 == 4 && (field w 20 12 == 0x002 || field w 20 12 == 0x040))

/-- A VM word that Table 13.5 matches: VRED.FADD (R306). -/
def looseVm (w : Nat) : Bool := field w 27 5 == 0x0E && field w 0 5 == 0x08

/-- A bundle keeps the promise exact (R91). -/
def exactBundle (b : Bundle) : Bool :=
  !looseScalar (slotWord b 1) && !looseScalar (slotWord b 2) && !looseVm (slotWord b 4)

/-- The promise of kernel i (R91, R307): true for exact. -/
def CodeObj.exact (o : CodeObj) (i : Nat) : Bool := (o.kernelBundles i).all exactBundle

/-- The 32 bundles of region j of an overlay entry written to an instruction scratchpad, with valid bit and tag (R227,
R426). -/
def InstrMem.loadRegion (m : InstrMem) (o : CodeObj) (i j : Nat) : InstrMem :=
  let r := o.overlayFirst i + j
  { bundles := (upTo 32).foldl (fun b k => spSet 0 b (32 * r + k) (o.overlayBundle i (32 * j + k))) m.bundles
    tags := spPut m.tags r o.tag }

/-- The first base region of the task's object that is not yet valid with its tag (R426). -/
def missingBase (m : InstrMem) (o : CodeObj) : Option Nat :=
  (upTo (o.overlayCount 0)).find? (fun j => decide (spFind m.tags (o.overlayFirst 0 + j) ≠ some o.tag))

/-- A core whose instruction scratchpad takes a region: its words are written anew, and hold no error (R338). -/
def Core.loadRegion (c : Core) (o : CodeObj) (i j region : Nat) : Core :=
  { c with imem := c.imem.loadRegion o i j
           bad := c.bad.filter (fun w =>
             match w with
             | .instr k => decide (k / 256 ≠ region)
             | _ => true) }

end Sys2Proof.Machine
end

