-- ==== Sys2Proof/Machine/Find.lean ====
section
/-!
DEFINITION. Finding and starting work: the comparison and the takes of the call board and the deques (R299 to R303), task
identities (R59), task slots (R253), the start of a task (R16) and its completion (R106, R255).
-/
namespace Sys2Proof.Machine

/-! ## Eligible entries (R300) -/

/-- An entry comes before another: CLASS higher, then key lower, then insertion earlier (R300). -/
def Entry.before (a b : Entry) : Bool :=
  decide (b.cls < a.cls) ||
    (a.cls == b.cls && (decide (a.key < b.key) || (a.key == b.key && decide (a.seq < b.seq))))

/-- An entry put into its place in a sorted list. -/
def insertEntry (e : Entry) : List Entry → List Entry
  | [] => [e]
  | x :: xs => if e.before x then e :: x :: xs else x :: insertEntry e xs

/-- Entries in the order of R300. -/
def sortEntries (es : List Entry) : List Entry := es.foldl (fun acc e => insertEntry e acc) []

/-- What a search may take: a core's logical index with every grid and graph entry (none), or one launch and run for TGET. -/
structure Seeker where
  ctx : Nat
  logical : Nat
  only : Option (Nat × Bool)
deriving DecidableEq, Repr

/-- The mode of the launch of an entry. -/
def entryMode (s : State) (k : Nat) (e : Entry) : Nat := ((getLaunch s k e.launch).map (fun l => l.desc.mode)).getD 0

/-- An entry that the seeker may take (R300, R303): a point whose instance holds the core, or a block whose page is present
(R295); blocks of a persistent launch only by TGET. -/
def entryOk (s : State) (q : Seeker) (e : Entry) : Bool :=
  (match e.work with
   | .point _ => decide (e.lo ≤ q.logical) && decide (q.logical < e.hi)
   | .block a => blockHome s q.ctx a != .absent) &&
  (match q.only with
   | none => entryMode s q.ctx e != 2
   | some (h, run) => e.launch == h && e.run == run)

/-! ## Takes -/

/-- The owner's take from the top of its deque (R299; log entry 14). -/
def takeOwn (s : State) (q : Seeker) (c : Ctx) : Option (Entry × Ctx) :=
  let d := spGet [] c.deques q.logical
  (d.find? (fun e => entryOk s q e)).map (fun e => (e, { c with deques := spSet [] c.deques q.logical (d.erase e) }))

/-- A thief's take from the bottom of a deque (R299; log entry 14). -/
def takeBottom (s : State) (q : Seeker) (c : Ctx) (victim : Nat) : Option (Entry × Ctx) :=
  let d := (spGet [] c.deques victim).reverse
  (d.find? (fun e => entryOk s q e)).map (fun e => (e, { c with deques := spSet [] c.deques victim (d.erase e).reverse }))

/-- The scan of victims (i + 1) mod P to (i + P − 1) mod P (R303). Thieves of one cycle are served one after another, each taking the
bottom entry that is left (R299, R393); one that finds none goes on to the next victim. -/
def steal (s : State) (q : Seeker) (c : Ctx) : Option (Entry × Ctx) :=
  let parts := partCores c.part
  (upTo (parts - 1)).findSome? (fun j => takeBottom s q c ((q.logical + 1 + j) % parts))

/-- The entry that the board returns: the smallest eligible one, or a relaxed choice (R301), under another seed for run B of a
rehearsal (R267). -/
def boardPick (s : State) (q : Seeker) (c : Ctx) : Option Entry :=
  match sortEntries (c.board.filter (fun e => entryOk s q e)) with
  | [] => none
  | best :: rest =>
    let exactMode := ((getLaunch s q.ctx best.launch).map (fun l => l.desc.flag 3)).getD true
    if exactMode then some best
    else
      let among := ((best :: rest).take 8).filter (fun e => e.launch == best.launch && e.cls == best.cls)
      some (among.getD (Config.relaxedPick (2 * s.fresh + ofBool best.run) % among.length) best)

/-- The take from the call board (R301). -/
def takeBoard (s : State) (q : Seeker) (c : Ctx) : Option (Entry × Ctx) :=
  (boardPick s q c).map (fun e => (e, { c with board := c.board.erase e }))

/-- What a pass takes: the entry, and the state without it. -/
structure Found where
  entry : Entry
  after : State
deriving DecidableEq

/-- One pass of R303. -/
def findWork (s : State) (q : Seeker) (boardOnly : Bool) : Option Found :=
  match getCtx s q.ctx with
  | none => none
  | some c =>
    let leave := fun (x : Ctx) => setCtx { s with fresh := s.fresh + 1 } q.ctx x
    let board := (takeBoard s q c).map (fun r => (⟨r.1, leave r.2⟩ : Found))
    if boardOnly then board
    else
      match takeOwn s q c with
      | some r => some ⟨r.1, leave r.2⟩
      | none =>
        match steal s q c with
        | some r => some ⟨r.1, leave r.2⟩
        | none => board

/-- The pages of blocks that wait to be taken are announced to system software once each (R295). -/
def announcePages (s : State) (k : Nat) : State :=
  match getCtx s k with
  | none => s
  | some c =>
    let pages := (c.board ++ c.deques.flatMap (fun d => d.2)).foldl (fun acc e =>
      match e.work with
      | .point _ => acc
      | .block a => if blockHome s k a = .absent then insertNat (a / 65536) acc else acc) []
    pages.foldl (fun st p =>
      if c.faults.contains p then st
      else post (modCtx st k (fun x => { x with faults := insertNat p x.faults })) (.pageFault k p)) s

/-! ## Task slots (R253) -/

/-- The lowest task slot that is free on both dies. -/
def freeTaskSlot (s : State) : Option Nat := (upTo 1024).find? (fun k => !s.hw.slots.contains k)

/-- A slot opened for a task of a launch. -/
def openSlot (s : State) (k h : Nat) (run : Bool) (t : Slot) : State :=
  modRun { s with seq := s.seq + 1, hw := { s.hw with slots := insertNat t.num s.hw.slots } } k h run
    (fun r => { r with slots := r.slots ++ [{ t with stamp := s.seq + 1 }] })

/-! ## Starting a task (R16, R59) -/

/-- The identity I of a task (R59). -/
def blockIdent (r : LaunchRec) (addr : Nat) : Nat :=
  if r.tcb ≤ addr ∧ addr < r.tcb + 64 * r.ntcb ∧ (addr - r.tcb) % 64 = 0 then (addr - r.tcb) / 64
  else 2 ^ 63 + addr / 64

/-- The packed coordinates of a point, as x10 receives them (Table 1.2). -/
def packCoords (r : LaunchRec) (idx : Nat) : Nat :=
  let p := coordsOf idx r.dims
  axis p 0 + 2 ^ 16 * axis p 1 + 2 ^ 32 * axis p 2 + 2 ^ 48 * axis p 3

/-- Work taken and not yet started (R253). -/
def heldTask (mode : Nat) (h : Nat) (run : Bool) (kind : TaskKind) (item : Nat) : Task :=
  { launch := h, run := run, kind := kind, mode := mode, item := item, ident := 0, slot := none, entry := 0, code := 0,
    codeTag := 0, exact := false, firstOvl := 0, ovls := 0, ckpt := false, phase := .held }

/-- A task with the kernel that starts at an entry bundle (R307). -/
def Task.withKernel (t : Task) (o : CodeObj) (entry : Nat) : Task :=
  let i := (o.kernelOf entry).getD 0
  { t with entry := entry, code := o.id, codeTag := o.tag, exact := o.exact i, firstOvl := o.firstOvl i, ovls := o.ovls i }

/-- A grid point starts in a slot (R16, R285). -/
def startPoint (s : State) (n k sl : Nat) (t : Task) (l : Launch) (o : CodeObj) : State :=
  let t1 := { t.withKernel o l.desc.entry with ident := t.item, slot := some sl, ckpt := l.desc.flag 0 }
  let s1 := openSlot s k t.launch t.run { num := sl, deps := [], core := (getCore s n).logical, item := t.item, kind := .point, completed := false }
  let s2 := modRun s1 k t.launch t.run (fun r => { r with points := r.points.map (fun p =>
    if p.idx = t.item then { p with st := .running } else p) })
  modCore s2 n (fun c => startCore c t1 (packCoords l.desc t.item) l.desc.arg 0 l.desc.est)

/-- The open slots that wrote the fields which the hardware reads of a block to queue it, to take it and to release its successors
(R294). -/
def blockDeps (s : State) (w : Who) (addr : Nat) : List Nat :=
  match blockHome s w.ctx addr with
  | .absent => []
  | .here p => blockReads.foldl (fun acc f =>
      (viewSlots s w (p + f.1) f.2).foldl (fun a k => insertNat k a) acc) []
  | .far _ _ =>
    match getCtx s w.ctx, farLine s w addr with
    | some c, some q => (((openSlots c).filter (fun e => q.deps.contains e.2.2.stamp)).map (fun e => e.2.2.num)).filter (dependsOn s w)
    | _, _ => []

/-- A block is RUNNING with its owner and slot (R200, Table 13.2); in another package all of it is one write at the block's home. -/
def ownBlock (s : State) (w : Who) (addr owner slot : Nat) : State :=
  match blockHome s w.ctx addr with
  | .far _ _ => setBlockField s w addr 0x34 12 (2 + 2 ^ 8 * blockField s w addr 0x35 2 + 2 ^ 32 * owner + 2 ^ 64 * slot)
  | _ => setBlockField (setBlockField (setBlockState s w addr 2) w addr 0x38 4 owner) w addr 0x3C 4 slot

/-- A block is taken into a slot, the task dependent on the open slots that wrote its fields (Table 13.2, R294). -/
def runBlock (s : State) (n k sl h : Nat) (run : Bool) (addr : Nat) : State :=
  let w := hwWho k h run
  let i := (getCore s n).logical
  let s1 := openSlot s k h run { num := sl, deps := blockDeps s w addr, core := i, item := addr, kind := .block, completed := false }
  ownBlock s1 w addr i sl

/-- A graph block starts in a slot (R16); an ENTRY that has become no kernel's aborts the launch (R294, R295). -/
def startBlock (s : State) (n k sl : Nat) (t : Task) (l : Launch) (o : CodeObj) : State :=
  let w := hwWho k t.launch t.run
  let entry := blockField s w t.item 0x00 4
  if (o.kernelOf entry).isNone then
    abortLaunch (setBlockField (setBlockState s w t.item 4) w t.item 0x35 1 1) k t.launch .illegal
  else
    let t1 := { t.withKernel o entry with
      ident := blockIdent l.desc t.item, slot := some sl, ckpt := l.desc.flag 0 && bitAt (blockField s w t.item 0x04 4) 0 }
    let s1 := runBlock s n k sl t.launch t.run t.item
    modCore s1 n (fun c =>
      startCore c t1 (blockField s w t.item 0x10 8) l.desc.arg t.item (blockField s w t.item 0x30 4))

/-- A resident program starts at ENTRY with the task-start values of Tables 1.1 and 1.2 (R16, R304); given up, it starts so again
(R321). -/
def startResident (s : State) (n : Nat) (t : Task) (l : Launch) (o : CodeObj) : State :=
  let t1 := { t.withKernel o l.desc.entry with item := 0, ident := 0, slot := none, ckpt := l.desc.flag 0 }
  modCore s n (fun c => startCore c t1 0 l.desc.arg 0 l.desc.est)

/-- A block taken by a core waits until it can be read: the hardware asks for it once (R294, R295). -/
def awaitTake (s : State) (k h : Nat) (run : Bool) (addr logical : Nat) : State :=
  let asked := (getCtx s k).any (fun c => c.heldBlocks.any (fun b =>
    b.launch == h && b.run == run && b.addr == addr && b.logical == logical && b.kind == .take))
  if asked then s else holdBlock s k h run addr logical addr .take

/-- A core's held work starts, once its matrix unit is drained (R181), and it has a task slot and its block's page is present (R253, R295); what the task does comes
after what made it ready (R246). -/
def startTask (s : State) (n : Nat) : State :=
  let c := getCore s n
  match c.ctx, c.task with
  | some k, some t =>
    if t.phase ≠ .held ∨ !c.mx.queue.isEmpty then s
    else
      match getLaunch s k t.launch, getCtx s k with
      | some l, some x =>
        match codeOf x l.desc.code with
        | none => s
        | some o =>
          let s0 := follows s (.core n) .manager
          match t.kind, freeTaskSlot s with
          | .resident, _ => startResident s0 n t l o
          | .point, some sl => startPoint s0 n k sl t l o
          | .block, some sl =>
            if blockAt s (hwWho k t.launch t.run) t.item then startBlock s0 n k sl t l o
            else awaitTake s k t.launch t.run t.item c.logical
          | _, none => s
      | _, _ => s
  | _, _ => s

/-! ## Ends of tasks (R106, R255) -/

/-- A core has nothing of its task left to wait for (R106, R186). -/
def drained (c : Core) : Bool :=
  c.pend.isEmpty && c.sync.isEmpty && c.jobs.isEmpty && c.mx.queue.isEmpty

/-- The slot of a task is marked completed (R255). -/
def completeSlot (s : State) (k h : Nat) (run : Bool) (sl : Nat) : State :=
  modRun s k h run (fun r => { r with slots := r.slots.map (fun t => if t.num = sl then { t with completed := true } else t) })

end Sys2Proof.Machine
end

