-- ==== Sys2Proof/Machine/Records.lean ====
section
/-!
DEFINITION. Launch records (R271 to R276): their fields, the grounds of refusal (R248, R273), and the placing of a record in
a queue at admission (R203, R376).
-/
namespace Sys2Proof.Machine

/-! ## Fields (Tables 11.1, 12.1, 12.3) -/

/-- Bytes off to off + n − 1 of a record. -/
def recNat (r off n : Nat) : Nat := field r (8 * off) (8 * n)

/-- Level descriptor l (Table 12.3). -/
def recLevel (r l : Nat) : Level :=
  let o := 0x80 + 32 * l
  { domain := recNat r o 1, scope := recNat r (o + 1) 1, order := recNat r (o + 2) 1, swz := recNat r (o + 4) 2
    b := (upTo 4).map (fun d => recNat r (o + 8 + 2 * d) 2) }

/-- Footprint entry i (Table 11.1). -/
def recFoot (r i : Nat) : FootEntry :=
  let w := recNat r (0x180 + 16 * i) 16
  { region := field w 120 8, cls := field w 114 2, kind := field w 112 2, size := field w 64 40, base := field w 0 64 }

/-- A launch record from its 512 bytes as a number (Table 12.1). -/
def parseRecord (r : Nat) : LaunchRec :=
  { code := recNat r 0x008 8, entry := recNat r 0x010 4, arg := recNat r 0x018 8, mode := recNat r 0x020 4
    flags := recNat r 0x024 4, cls := recNat r 0x028 1, tokens := recNat r 0x029 1, est := recNat r 0x030 4
    budget := recNat r 0x038 8, ext := (upTo 4).map (fun d => recNat r (0x040 + 2 * d) 2), ndim := recNat r 0x048 1
    ndep := recNat r 0x049 1
    deps := (upTo (min 4 (recNat r 0x049 1))).map (fun v =>
      (upTo 4).map (fun d => toSigned 8 (recNat r (0x050 + 4 * v + d) 1)))
    tcb := recNat r 0x060 8, ntcb := recNat r 0x068 4
    levels := (upTo (min 8 (recNat r 0x070 1))).map (fun l => recLevel r l)
    foot := (upTo 8).map (fun i => recFoot r i) }

/-! ## Grounds of refusal -/

/-- Bytes that Table 12.1 leaves unused are zero, with the unused bits of FLAGS, CLASS and TOKENS. -/
def recZeros (r : Nat) : Bool :=
  recNat r 0x006 2 == 0 && recNat r 0x014 4 == 0 && recNat r 0x02A 6 == 0 && recNat r 0x034 4 == 0 &&
  recNat r 0x04A 6 == 0 && recNat r 0x06C 4 == 0 && recNat r 0x071 15 == 0 && decide (recNat r 0x024 4 < 16)

/-- MAGIC, VERSION, MODE, CLASS and TOKENS are in range (Table 12.2). -/
def recHeaderOk (r : Nat) : Bool :=
  recNat r 0x000 4 == 0x524C464C && recNat r 0x004 2 == 1 && decide (recNat r 0x020 4 ≤ 2) &&
  decide (recNat r 0x028 1 ≤ 7) && decide (recNat r 0x029 1 ≤ 15) && recZeros r

/-- The unused vectors and descriptors are zero, and so are a vector's bytes above NDIM (R272). -/
def recTailsOk (r : Nat) (d : LaunchRec) : Bool :=
  (upTo 4).all (fun v => (upTo 4).all (fun a =>
    (decide (v < d.ndep) && decide (a < d.ndim)) || recNat r (0x050 + 4 * v + a) 1 == 0)) &&
  (upTo 8).all (fun l => decide (l < d.levels.length) || recNat r (0x80 + 32 * l) 32 == 0)

/-- The fields of a grid record (R272). -/
def gridFieldsOk (r : Nat) (d : LaunchRec) : Bool :=
  decide (1 ≤ d.ndim) && decide (d.ndim ≤ 4) && decide (d.ndep ≤ 4) && decide (recNat r 0x070 1 ≤ 8) &&
  (upTo 4).all (fun a => if a < d.ndim then decide (axis d.ext a ≠ 0) else axis d.ext a == 0) &&
  d.tcb == 0 && d.ntcb == 0 && recTailsOk r d

/-- The fields of a graph or persistent record (R272). -/
def graphFieldsOk (r : Nat) (d : LaunchRec) : Bool :=
  d.ndim == 0 && d.ndep == 0 && recNat r 0x040 8 == 0 && recNat r 0x070 1 == 0 && recTailsOk r d &&
  ((decide (d.tcb < 2 ^ 47) && d.tcb % 64 == 0 && decide (1 ≤ d.ntcb)) || (d.mode == 2 && d.tcb == 0 && d.ntcb == 0))

/-- The first nonzero component of a vector is positive (R284). -/
def lexPositive : List Int → Bool
  | [] => false
  | x :: xs => if x = 0 then lexPositive xs else decide (0 < x)

/-- A legal dependence vector (R284). -/
def depOk (d : LaunchRec) (v : List Int) : Bool :=
  v.all (fun x => decide (-15 ≤ x) && decide (x ≤ 15)) && lexPositive v &&
  (upTo 4).all (fun a => a == d.ndim - 1 || decide (0 ≤ v.getD a 0))

/-- The scopes that Table 12.4 allows for a domain. -/
def scopeAllowed (domain scope : Nat) : Bool :=
  match domain with
  | 0 => scope == 3 || scope == 0
  | 2 => scope == 1 || scope == 0
  | 5 => scope == 0 || scope == 2
  | _ => scope == 0

/-- A well-formed level descriptor (R275): its reserved bytes are bytes of Table 12.1 marked zero. -/
def levelOk (r : Nat) (d : LaunchRec) (l : Nat) : Bool :=
  let v := recLevel r l
  let o := 0x80 + 32 * l
  decide (v.domain ≤ 5) && decide (v.order ≤ 3) && scopeAllowed v.domain v.scope &&
  (decide (v.swz ≤ 1) || (v.order == 0 && decide (2 ≤ d.ndim))) &&
  (upTo 4).all (fun a => decide (a < d.ndim) || axis v.b a == 0) &&
  recNat r (o + 3) 1 == 0 && recNat r (o + 6) 2 == 0 && recNat r (o + 16) 16 == 0

/-- Nested levels: no DOMAIN above its parent's, no block larger than its parent's (R276). -/
def nestOk : List Level → Nat → List Nat → Bool
  | [], _, _ => true
  | l :: ls, dom, ext =>
    decide (l.domain ≤ dom) && (upTo 4).all (fun a => decide (axis l.b a ≤ axis ext a) || axis l.b a == 0) &&
    nestOk ls l.domain (l.blockDims ext)

/-- An entry of KIND write or open. -/
def FootEntry.writes (e : FootEntry) : Bool := e.kind == 2 || e.kind == 3

/-- Two footprint entries share a byte. -/
def FootEntry.overlaps (a b : FootEntry) : Bool := decide (a.base < b.base + b.size) && decide (b.base < a.base + a.size)

/-- One entry is well formed (Table 11.2). -/
def footEntryOk (r i : Nat) : Bool :=
  let w := recNat r (0x180 + 16 * i) 16
  let e := recFoot r i
  if e.kind = 0 then w == 0
  else field w 116 4 == 0 && field w 104 8 == 0 && decide (e.base < 2 ^ 48) && e.size != 0 && decide (e.base + e.size ≤ 2 ^ 47)

/-- No two write or open entries overlap (Table 11.2). -/
def disjointEntries : List FootEntry → Bool
  | [] => true
  | e :: es => es.all (fun q => !(e.writes && q.writes && e.overlaps q)) && disjointEntries es

/-- The bytes that two entries share. -/
def FootEntry.shared (a b : FootEntry) : Nat := min (a.base + a.size) (b.base + b.size) - max a.base b.base

/-- A child's write and open entries lie in its parent's, and no open entry in a parent's write entry (Table 11.2). -/
def childEntriesOk (d parent : LaunchRec) : Bool :=
  (d.foot.filter FootEntry.writes).all (fun e =>
    (parent.foot.filter FootEntry.writes).foldl (fun n q => n + e.shared q) 0 == e.size &&
    !(e.kind == 3 && parent.foot.any (fun q => q.kind == 2 && e.overlaps q)))

/-- The product of the extents of axes 0 to NDIM − 2. -/
def rowProduct (d : LaunchRec) : Nat := (upTo (d.ndim - 1)).foldl (fun n a => n * axis d.ext a) 1

/-- A record names a kernel of a loaded object (Table 12.2). -/
def recCodeOk (c : Ctx) (d : LaunchRec) : Bool :=
  match codeOf c d.code with
  | some o => (o.kernelOf d.entry).isSome
  | none => false

/-- The record has none of the grounds that give ILLEGAL (Tables 11.2, 12.2). -/
def recLegal (c : Ctx) (r : Nat) (d : LaunchRec) : Bool :=
  recHeaderOk r && recCodeOk c d &&
  (if d.mode = 0 then
    gridFieldsOk r d && d.deps.all (fun v => depOk d v) && (upTo d.levels.length).all (fun l => levelOk r d l) &&
      nestOk d.levels 5 d.dims
   else graphFieldsOk r d) &&
  (upTo 8).all (fun i => footEntryOk r i) && disjointEntries d.foot &&
  !(d.flag 1 && d.foot.any (fun e => e.kind == 3))

/-- A record of the host was queued when the object that it names was taken by force (R331). -/
def wasQueued (c : Ctx) (code queue : Nat) : Origin → Bool
  | .child _ _ _ => false
  | .host index => c.unloaded.any (fun u =>
      let ahead := (spGet 0 u.tails queue + 2 ^ 32 - index) % 2 ^ 32
      u.id == code && decide (0 < ahead) && decide (ahead ≤ 2 ^ 31))

/-- The cause of refusal, the smallest among the grounds that hold; none for a record that is accepted (R273). A record that was
queued at a forced unload of its object is refused with IFETCH (R331). -/
def refusalCause (c : Ctx) (r queue : Nat) (origin : Origin) (parent : Option LaunchRec) : Cause :=
  let d := parseRecord r
  if wasQueued c d.code queue origin then .ifetch
  else if !recLegal c r d then .illegal
  else if 7 < queue ∨ (0 < d.ndep ∧ 4096 < rowProduct d) then .bounds
  else
    match parent with
    | some p => if childEntriesOk d p then .none else .footprint
    | none => .none

/-! ## Reaching admission -/

/-- A record reaches admission for a context: it takes a handle and waits, or is refused (R203, R249, R273). -/
def placeRecord (s : State) (k queue r : Nat) (origin : Origin) : State × Nat :=
  match getCtx s k with
  | none => (s, 0)
  | some c =>
    let parent := match origin with
      | .child p _ _ => (findLaunch c p).map (fun l => l.desc)
      | .host _ => none
    let h := c.nextHandle
    let l : Launch := { handle := h, queue := queue, desc := parseRecord r, origin := origin }
    let l1 := match refusalCause c r queue origin parent with
      | .none => l
      | cause => { l with phase := .ended, status := 0x03 + 256 * cause.code }
    let s1 := setCtx s k { c with launches := c.launches ++ [l1], nextHandle := h + 1 }
    (settle (if l1.ended then reportLaunch s1 k l1 else s1), h)

end Sys2Proof.Machine
end

