-- ==== Sys2Proof/Machine/Sync.lean ====
section
/-!
DEFINITION. The synchronisation, atomic and task instructions (R182 to R205): tagged accesses, monitored waits, barriers,
atomics, reductions, acquire, release and fences, and the instructions of tasks and launches.
-/
namespace Sys2Proof.Machine

/-! ## Common rules (R183, R184) -/

/-- A checked access of this chapter in the order of R183, held as a scalar access is (R75, R111). -/
def syncAccess (s : State) (va size : Nat) (read write tagged : Bool) (cls : Nat) (act : Access → State) : State :=
  let global : Bool := match classify va with
    | some (.global, _) => true
    | _ => false
  if va % size = 0 ∧ tagged ∧ global ∧ !meetsJobs s s.issue.core (rangeOf va size) write then slotFail s .tag va
  else onceFree s va size read write cls act

/-- The address of an instruction of this chapter: x[xs] alone (R183). -/
def syncAddr (s : State) (xs : BitVec 5) : Nat := (rx s xs.toNat).toNat

/-- The size of a .W or .D form from the low bit of funct3. -/
def wordSize (z : BitVec 1) : Nat := if z = 1 then 8 else 4

/-- The issuing core's next identifier is used up. -/
def useId (s : State) : State := modCur s (fun c => { c with nextId := c.nextId + 1 })

/-- An instruction with an interlocked destination is armed at its home or barrier (R184). -/
def armResult (s : State) (rd : BitVec 5) (kind : SyncKind) (place : Nat) : State :=
  let n := s.issue.core
  let id := freshId s
  armSync (postInterlocked s (destX rd.toNat) 1 (.x rd.toNat 0)) n
    { id := id, kind := kind, place := place, rd := some rd.toNat, armed := 0 }

/-- An instruction without a destination is armed at its home (R184). -/
def armPlain (s : State) (kind : SyncKind) (place : Nat) : State :=
  let id := freshId s
  armSync (useId s) s.issue.core { id := id, kind := kind, place := place, rd := none, armed := 0 }

/-- An interlocked value that is known at once. -/
def answer (s : State) (rd : BitVec 5) (v : Word) : State := postInterlocked s (destX rd.toNat) 0 (.x rd.toNat v)

/-! ## Tagged loads and stores (R187) -/

/-- LDF and LDFE: performed when every tag is full; LDFE leaves the tags empty. -/
def taggedLoad (s : State) (xs rd : BitVec 5) (size : Nat) (empties : Bool) : Out :=
  .next (syncAccess s (syncAddr s xs) size true empties true 0 (fun a =>
    match a with
    | .here p => armResult s rd (.ldf size empties) p
    | _ => s))

/-- STE: performed when every tag is empty. -/
def taggedStore (s : State) (xs xt : BitVec 5) (size : Nat) : Out :=
  .next (syncAccess s (syncAddr s xs) size false true true 0 (fun a =>
    match a with
    | .here p => armPlain s (.ste size ((rx s xt.toNat).toNat % 2 ^ (8 * size))) p
    | _ => s))

/-- The tags of a word or doubleword set full or empty. -/
def setTags (s : State) (p size : Nat) (full : Bool) : State :=
  setTag (if size = 8 then setTag s (p + 4) full else s) p full

/-- STF: the data is stored and the tags become full at once; waiters are served (R188). -/
def fillStore (s : State) (xs xt : BitVec 5) (size : Nat) : Out :=
  .next (syncAccess s (syncAddr s xs) size false true true 0 (fun a =>
    match a with
    | .here p =>
      settle (setTags (putBytes (stores s (.core s.issue.core) p size) p (bytesOf size (rx s xt.toNat).toNat)) p size true)
    | _ => s))

/-- SETE and SETF: the tag alone changes; waiters are served. -/
def tagOnly (s : State) (xs : BitVec 5) (full : Bool) : Out :=
  .next (syncAccess s (syncAddr s xs) 4 false true true 0 (fun a =>
    match a with
    | .here p => settle (setTag (stores s (.core s.issue.core) p 4) p full)
    | _ => s))

/-- LDF.W (R187, Table 8.2). -/
def execLdfW (xs rd : BitVec 5) (s : State) : Out := taggedLoad s xs rd 4 false

/-- LDF.D (R187, Table 8.2). -/
def execLdfD (xs rd : BitVec 5) (s : State) : Out := taggedLoad s xs rd 8 false

/-- LDFE.W (R187, Table 8.2). -/
def execLdfeW (xs rd : BitVec 5) (s : State) : Out := taggedLoad s xs rd 4 true

/-- LDFE.D (R187, Table 8.2). -/
def execLdfeD (xs rd : BitVec 5) (s : State) : Out := taggedLoad s xs rd 8 true

/-- LDT (R187): 1 if the tag is full. -/
def execLdt (xs rd : BitVec 5) (s : State) : Out :=
  .next (syncAccess s (syncAddr s xs) 4 true false true 0 (fun a =>
    match a with
    | .here p => answer (loads s (.core s.issue.core) p 4) rd (if tagFull s p then 1 else 0)
    | _ => s))

/-- STE.W (R187, Table 8.2). -/
def execSteW (xt xs : BitVec 5) (s : State) : Out := taggedStore s xs xt 4

/-- STE.D (R187, Table 8.2). -/
def execSteD (xt xs : BitVec 5) (s : State) : Out := taggedStore s xs xt 8

/-- STF.W (R187, Table 8.2). -/
def execStfW (xt xs : BitVec 5) (s : State) : Out := fillStore s xs xt 4

/-- STF.D (R187, Table 8.2). -/
def execStfD (xt xs : BitVec 5) (s : State) : Out := fillStore s xs xt 8

/-- SETE (R187). -/
def execSete (xs : BitVec 5) (s : State) : Out := tagOnly s xs false

/-- SETF (R187). -/
def execSetf (xs : BitVec 5) (s : State) : Out := tagOnly s xs true

/-! ## Named barriers (R190, R191) -/

/-- A name that the context has a barrier for (R190). -/
def nameOk (s : State) (name : Nat) : Bool :=
  decide (name < 2 ^ 24) && decide (name / 4096 < partCores (ctxOfCore s s.issue.core).part)

/-- A function applied to a barrier of the issuing core's context, with Complete after it, as one write in the core's program order;
waiters are served (R190, R230). -/
def onBarrier (s : State) (name : Nat) (f : Barrier → Barrier) : State :=
  let k := slotOfCore s s.issue.core
  settle (modCtx (barTime s k name (.core s.issue.core) true) k (fun c => c.setBarrier name (f (c.barrier name)).complete))

/-- A barrier operation: BOUNDS for a bad name (R190). -/
def barrierOp (s : State) (xs : BitVec 5) (act : Nat → State) : Out :=
  let name := syncAddr s xs
  .next (if nameOk s name then act name else slotFail s .bounds name)

/-- The low 32 bits of a register. -/
def low32Nat (s : State) (r : BitVec 5) : Nat := (rx s r.toNat).toNat % 2 ^ 32

/-- Arrivals are added to the counter (Table 8.3). -/
def arrive (s : State) (name n : Nat) : State :=
  onBarrier s name (fun b => { b with count := (b.count + n) % 2 ^ 32 })

/-- BARI (Table 8.3). -/
def execBari (xt xs : BitVec 5) (s : State) : Out :=
  barrierOp s xs (fun name => onBarrier s name (fun b => { b with target := low32Nat s xt, bytes := none, armed := true }))

/-- BARA (Table 8.3). -/
def execBara (xt xs : BitVec 5) (s : State) : Out := barrierOp s xs (fun name => arrive s name (low32Nat s xt))

/-- BARW (Table 8.3): performed when the generation differs from x[xt][31:0]. -/
def execBarw (xt xs rd : BitVec 5) (s : State) : Out :=
  barrierOp s xs (fun name => armResult s rd (.barw (low32Nat s xt)) name)

/-- BARAW (Table 8.3): the generation is taken in the same operation as the arrival. -/
def execBaraw (xt xs rd : BitVec 5) (s : State) : Out :=
  barrierOp s xs (fun name =>
    let g0 := barrierGen s (slotOfCore s s.issue.core) name
    armResult (arrive s name (low32Nat s xt)) rd (.barw g0) name)

/-- The bytes that a record covers, as bytes mode counts them (R191): homes of the issuing core's memories for a local
space, which end with the space. -/
def recordBytes (n : Nat) (b : Record) : Range :=
  match spaceOfCode b.space with
  | .global => ⟨0, b.base, b.base + b.extent⟩
  | sp => ⟨b.space, localPlace n sp b.base, localPlace n sp (min (b.base + b.extent) (spaceSize sp))⟩

/-- BARC (R191): the record's checks come in the order of their causes (log entry 17). -/
def execBarc (xt xs : BitVec 5) (s : State) : Out :=
  let r := (rx s xt.toNat).toNat
  if 63 < r then .next (slotFail s .illegal 0)
  else
    let g := (curCore s).regs
    let b := recordOf (g.readRec r)
    if slotInterlocked s (.record r) then .next (slotHold s)
    else if b.malformed then .next (slotFail s .illegal (g.readRecAddr r))
    else barrierOp s xs (fun name =>
      if 2 ^ 32 ≤ b.extent then slotFail s .bounds b.base
      else onBarrier s name (fun q => { q with target := b.extent, bytes := some (recordBytes s.issue.core b), armed := true }))

/-- BART (Table 8.3): the generation, without a wait. -/
def execBart (xs rd : BitVec 5) (s : State) : Out :=
  barrierOp s xs (fun name =>
    let k := slotOfCore s s.issue.core
    answer (barTime s k name (.core s.issue.core) false) rd (BitVec.ofNat 64 (barrierGen s k name)))

/-! ## Monitored wait (R189) -/

/-- The context cycle in which a wait issued now times out (R189). -/
def waitDeadline (s : State) : Option Nat :=
  let d := (curCore s).dev.wto.toNat
  if d = 0 then none else some ((curCore s).now + d)

/-- The condition of a remote monitored wait, in its request. -/
def waitCode (ne : Bool) : Nat := if ne then 2 else 1

/-- WAITV at a home in the package, or at a remote home, which arms the monitor (R189; log entry 13). -/
def monitor (s : State) (xt xs rd : BitVec 5) (ne : Bool) : Out :=
  let va := syncAddr s xs
  let v := (rx s xt.toNat).toNat
  .next (syncAccess s va 8 true false false 0 (fun a =>
    match a with
    | .here p =>
      armResult (mergePartials s p 8) rd (.waitv ne v (waitDeadline s)) p
    | .away tgt node addr =>
      let id := freshId s
      requestMonitor (armResult s rd (.waitvAway ne v (waitDeadline s) tgt node addr va) 0) s.issue.core tgt node addr va id 0
        (waitCode ne) v s.issue.slot (curCore s).ctl.pc
    | _ => s))

/-- WAITV.EQ (R189). -/
def execWaitvEq (xt xs rd : BitVec 5) (s : State) : Out := monitor s xt xs rd false

/-- WAITV.NE (R189). -/
def execWaitvNe (xt xs rd : BitVec 5) (s : State) : Out := monitor s xt xs rd true

/-- A timed-out wait of a core ends with the doubleword as read in this cycle, and WTO becomes 1 (R189). -/
def endWait (s : State) (n : Nat) (o : SyncOp) : State :=
  let s1 := mergePartials s o.place 8
  let v := waitvValue s1 n o.place
  let s2 := addDeps s1 (whoIs s1 n) (viewSlots s1 (whoIs s1 n) o.place 8)
  let s3 := modDev (loads s2 (.core n) o.place 8) n (fun d => { d with wtoBit := true })
  dropSync (fillPending s3 n o.id (.x (o.rd.getD 0) (BitVec.ofNat 64 v))) n o.id

/-- The request of a kind (`off`) that a remote monitored wait of a core has outstanding. -/
def waitRequest (s : State) (n id off : Nat) : Option Request :=
  s.link.requests.find? (fun r => r.core == n && r.id == id && r.kind == 0x02 && r.off == off && some r.ctx == (getCore s n).ctx)

/-- What the home does for a request that ends a wait: it reads in its place at the deadline, or drops it for a save. -/
def endCode (off : Nat) : Nat := if off = 1 then 3 else 4

/-- A remote wait is ended at its home unless that has performed it: at its deadline by a read (`off` 1, R189), or for a save (`off` 2,
R186). The wait itself stays asked for until the home has answered (log entry 13). -/
def endAway (s : State) (n : Nat) (o : SyncOp) (off : Nat) : State :=
  match o.kind, waitRequest s n o.id 0 with
  | .waitvAway _ _ _ tgt node addr va, some r =>
    if (waitRequest s n o.id 1).isSome || (waitRequest s n o.id 2).isSome then s
    else requestMonitor s n tgt node addr va o.id off (endCode off) r.tag r.slot r.bundle
  | _, _ => s

/-- One wait of a core at its deadline. -/
def timeOutWait (s : State) (n : Nat) (o : SyncOp) : State :=
  let now := (getCore s n).now
  match o.kind with
  | .waitv _ _ (some d) => if d ≤ now then endWait s n o else s
  | .waitvAway _ _ (some d) _ _ _ _ => if d ≤ now then endAway s n o 1 else s
  | _ => s

/-- WAITV_TIMEOUT (R189). -/
def execWaitvTimeout (core : Nat) (s : State) : Out :=
  .next ((getCore s core).sync.foldl (fun st o => timeOutWait st core o) s)

/-! ## Value-returning atomics (R193 to R195) -/

/-- The value an atomic writes, none for a failed comparison (Table 8.4, R194). -/
def atomicNew (op size m v expected : Nat) : Option Nat :=
  match op with
  | 0 => some (reduceOp 0 size m v)
  | 1 => some v
  | 2 => if m = expected % 2 ^ (8 * size) then some v else none
  | k => some (reduceOp (k - 2) size m v)

/-- An atomic at its home for an agent: the old value, and whether the spill area ran out (R193, R229). -/
def atomicAt (s : State) (a : Agent) (w : Who) (va p size op v expected : Nat) : State × Nat × Bool :=
  let (s1, bytes) := readAt s w p size
  let m := ofBytes bytes
  match atomicNew op size m v expected with
  | some x =>
    let (s2, f) := storeAt s1 a w va p (bytesOf size x)
    (s2, m, f)
  | none => (loads s1 a p size, m, false)

/-- An atomic sent to its remote home, which makes it in the view of its launch; it is performed when the answer comes (R195,
R243). -/
def atomicAway (s : State) (tgt node addr va size op v expected : Nat) (rd : BitVec 5) : State :=
  let n := s.issue.core
  let w := whoIs s n
  let id := freshId s
  let mask := shadowMask s w va size
  let home := remoteNode tgt node
  let s1 := armResult s rd .remote 0
  let tag := s1.link.nextTag
  let s2 := sendPacket s1 (inView s1 w (memPacket s1 w.ctx 0x06 4 home addr tag 0 (atomicPayload op size v expected mask)))
  let s3 := openRequest s2 { tag := tag, kind := 0x06, ctx := w.ctx, core := n, id := id, off := 0, size := size, signed := true,
                             launch := w.launch, job := none, va := va, slot := s.issue.slot, bundle := (curCore s).ctl.pc, stamp := stampOf s w
                             home := some (homeName home addr) }
  if mask = 0 then s3 else modLaunch s3 w.ctx w.launch (fun l => { l with peers := insertNat (peerKey home addr) l.peers })

/-- An operation that host pages do not take fails there in the place of the permission check (R373). -/
def hostRefuses (s : State) (va size : Nat) (carried : Bool) (act : State) : State :=
  if !carried && va % size == 0 && onHost s s.issue.core va then slotFail s .protect va else act

/-- A value-returning atomic: writer class cores, write checks and read checks (R183, R185, R193). -/
def atomic (s : State) (op size : Nat) (xs rd : BitVec 5) (v expected : Nat) : Out :=
  let va := syncAddr s xs
  let n := s.issue.core
  .next (hostRefuses s va size (decide (op ≤ 2)) (syncAccess s va size true true false 0 (fun a =>
    match a with
    | .here p =>
      let (s1, m, f) := atomicAt s (.core n) (whoIs s n) va p size op (v % 2 ^ (8 * size)) expected
      orShadowFull (answer s1 rd (sext64 (8 * size) m), f) (whoIs s n) va
    | .away tgt node addr => atomicAway s tgt node addr va size op (v % 2 ^ (8 * size)) expected rd
    | _ => s)))

/-- An atomic with one operand (Table 8.4). -/
def atomicOp (s : State) (op : Nat) (xt xs : BitVec 5) (z : BitVec 1) (rd : BitVec 5) : Out :=
  atomic s op (wordSize z) xs rd (rx s xt.toNat).toNat 0

/-- AMOADD (R193, Table 8.4). -/
def execAmoadd (_c : BitVec 2) (xt xs : BitVec 5) (z : BitVec 1) (rd : BitVec 5) (s : State) : Out := atomicOp s 0 xt xs z rd

/-- AMOSWAP (R193, Table 8.4). -/
def execAmoswap (_c : BitVec 2) (xt xs : BitVec 5) (z : BitVec 1) (rd : BitVec 5) (s : State) : Out := atomicOp s 1 xt xs z rd

/-- AMOCAS (R194): expected x[xt], new value x[xd], both read at issue. -/
def execAmocas (_c : BitVec 2) (xt xs : BitVec 5) (z : BitVec 1) (rd : BitVec 5) (s : State) : Out :=
  atomic s 2 (wordSize z) xs rd (rx s rd.toNat).toNat (rx s xt.toNat).toNat

/-- AMOAND (R193, Table 8.4). -/
def execAmoand (_c : BitVec 2) (xt xs : BitVec 5) (z : BitVec 1) (rd : BitVec 5) (s : State) : Out := atomicOp s 3 xt xs z rd

/-- AMOOR (R193, Table 8.4). -/
def execAmoor (_c : BitVec 2) (xt xs : BitVec 5) (z : BitVec 1) (rd : BitVec 5) (s : State) : Out := atomicOp s 4 xt xs z rd

/-- AMOXOR (R193, Table 8.4). -/
def execAmoxor (_c : BitVec 2) (xt xs : BitVec 5) (z : BitVec 1) (rd : BitVec 5) (s : State) : Out := atomicOp s 5 xt xs z rd

/-- AMOMIN (R193, Table 8.4). -/
def execAmomin (_c : BitVec 2) (xt xs : BitVec 5) (z : BitVec 1) (rd : BitVec 5) (s : State) : Out := atomicOp s 6 xt xs z rd

/-- AMOMAX (R193, Table 8.4). -/
def execAmomax (_c : BitVec 2) (xt xs : BitVec 5) (z : BitVec 1) (rd : BitVec 5) (s : State) : Out := atomicOp s 7 xt xs z rd

/-- AMOMINU (R193, Table 8.4). -/
def execAmominu (_c : BitVec 2) (xt xs : BitVec 5) (z : BitVec 1) (rd : BitVec 5) (s : State) : Out := atomicOp s 8 xt xs z rd

/-- AMOMAXU (R193, Table 8.4). -/
def execAmomaxu (_c : BitVec 2) (xt xs : BitVec 5) (z : BitVec 1) (rd : BitVec 5) (s : State) : Out := atomicOp s 9 xt xs z rd

/-- AMOFADD (R193, Table 8.4): FP32 addition without flags. -/
def execAmofadd (_c : BitVec 2) (xt xs rd : BitVec 5) (s : State) : Out :=
  atomic s 10 4 xs rd (rx s xt.toNat).toNat 0

/-! ## Non-returning reductions (R196, R197) -/

/-- A reduction: writer class reductions, performed as a store (R185, R196). -/
def reduction (s : State) (op size : Nat) (xt xs : BitVec 5) : Out :=
  let va := syncAddr s xs
  let v := (rx s xt.toNat).toNat % 2 ^ (8 * size)
  let n := s.issue.core
  .next (hostRefuses s va size (op == 0) (syncAccess s va size false true false 3 (fun a =>
    match a with
    | .here p => orShadowFull (reduceAt s (.core n) (whoIs s n) va p size op v) (whoIs s n) va
    | .away tgt node addr => reduceAway s tgt node addr va size op v 0 0 0
    | _ => s)))

/-- REDADD (R196, Table 8.5). -/
def execRedadd (_c : BitVec 2) (xt xs : BitVec 5) (z : BitVec 1) (s : State) : Out := reduction s 0 (wordSize z) xt xs

/-- REDAND (R196, Table 8.5). -/
def execRedand (_c : BitVec 2) (xt xs : BitVec 5) (z : BitVec 1) (s : State) : Out := reduction s 1 (wordSize z) xt xs

/-- REDOR (R196, Table 8.5). -/
def execRedor (_c : BitVec 2) (xt xs : BitVec 5) (z : BitVec 1) (s : State) : Out := reduction s 2 (wordSize z) xt xs

/-- REDXOR (R196, Table 8.5). -/
def execRedxor (_c : BitVec 2) (xt xs : BitVec 5) (z : BitVec 1) (s : State) : Out := reduction s 3 (wordSize z) xt xs

/-- REDMIN (R196, Table 8.5). -/
def execRedmin (_c : BitVec 2) (xt xs : BitVec 5) (z : BitVec 1) (s : State) : Out := reduction s 4 (wordSize z) xt xs

/-- REDMAX (R196, Table 8.5). -/
def execRedmax (_c : BitVec 2) (xt xs : BitVec 5) (z : BitVec 1) (s : State) : Out := reduction s 5 (wordSize z) xt xs

/-- REDMINU (R196, Table 8.5). -/
def execRedminu (_c : BitVec 2) (xt xs : BitVec 5) (z : BitVec 1) (s : State) : Out := reduction s 6 (wordSize z) xt xs

/-- REDMAXU (R196, Table 8.5). -/
def execRedmaxu (_c : BitVec 2) (xt xs : BitVec 5) (z : BitVec 1) (s : State) : Out := reduction s 7 (wordSize z) xt xs

/-- REDFADD (R196, Table 8.5). -/
def execRedfadd (_c : BitVec 2) (xt xs : BitVec 5) (s : State) : Out := reduction s 8 4 xt xs

/-- REDOFADD (R197): ordinal and count from x[xd], checked after every check of R183. -/
def execRedofadd (_c : BitVec 2) (xt xs rd : BitVec 5) (s : State) : Out :=
  let va := syncAddr s xs
  let v := (rx s xt.toNat).toNat % 2 ^ 32
  let j := (rx s rd.toNat).toNat % 2 ^ 32
  let c := (rx s rd.toNat).toNat / 2 ^ 32
  let n := s.issue.core
  let w := whoIs s n
  .next (hostRefuses s va 4 false (syncAccess s va 4 false true false 3 (fun a =>
    if c = 0 ∨ c ≤ j then slotFail s .bounds va
    else
      match a with
      | .here p =>
        contributeFrom s n (sequenceName s n va) c p
          { ordinal := j, value := v, ctx := w.ctx, launch := w.launch, run := w.run, slot := w.slot, va := va }
      | .away tgt node addr => reduceAway s tgt node addr va 4 0x18 v j c (sequenceName s n va)
      | _ => s)))

/-! ## Acquire, release and fences (R198, R199) -/

/-- A load of an acquire at its home: at system scope not from the lease cache (R198). -/
def acquireRead (s : State) (n p size scope : Nat) : State × List Byte :=
  if scope = 2 then
    let (s1, bytes) := readAt s (whoIs s n) p size
    (loads s1 (.core n) p size, bytes)
  else coreRead s n (whoIs s n) p size

/-- LDA (R198): as LW or LD with the result interlocked. -/
def execLda (c : BitVec 2) (xs : BitVec 5) (z : BitVec 1) (rd : BitVec 5) (s : State) : Out :=
  let va := syncAddr s xs
  let size := wordSize z
  let n := s.issue.core
  .next (syncAccess s va size true false false 0 (fun a =>
    match a with
    | .here p =>
      let (s1, bytes) := acquireRead s n p size c.toNat
      answer s1 rd (sext64 (8 * size) (ofBytes bytes))
    | .away tgt node addr =>
      let id := freshId s
      requestLoad (armResult s rd .remote 0) tgt node addr va size id 0 true none
    | _ => s))

/-- STL (R198): held until its release, then as SW or SD; at system scope complete when acknowledged. -/
def execStl (c : BitVec 2) (xt xs : BitVec 5) (z : BitVec 1) (s : State) : Out :=
  let va := syncAddr s xs
  let size := wordSize z
  let bytes := bytesOf size (rx s xt.toNat).toNat
  if releaseHeld s c.toNat then .next (slotHold s)
  else .next (syncAccess s va size false true false 0 (fun a =>
    match a with
    | .here p => storeHere s va p bytes
    | .away tgt node addr =>
      let s1 := storeAway s tgt node addr va bytes
      if c = 2 then armFence s1 2 2 else s1
    | _ => s))

/-- FENCE (R199): kind 0 FULL, 1 ACQ, 2 REL. -/
def execFence (c : BitVec 2) (k : BitVec 2) (s : State) : Out := .next (armFence s k.toNat c.toNat)

/-! ## Tasks (R200 to R202) -/

/-- The task of the issuing core, if any. -/
def curTask (s : State) : Option Task := (curCore s).task

/-- A core holds a block of a run that its TGET has taken and for which no slot is free (R253). -/
def tgetHolds (s : State) (k h : Nat) (run : Bool) : Bool :=
  s.cores.any (fun e => e.2.ctx == some k && e.2.task.any (fun t => t.launch == h && t.run == run) &&
    e.2.sync.any (fun o =>
      match o.kind with
      | .tget _ _ held => held.isSome
      | _ => false))

/-- A persistent launch is drained (R200): none of its blocks is ready or running, and none is held for a page. -/
def isDrained (s : State) (k h : Nat) (run : Bool) : Bool :=
  match getCtx s k with
  | none => true
  | some c =>
    let mine := fun (e : Entry) => e.launch == h && e.run == run
    !c.board.any mine && !c.deques.any (fun d => d.2.any mine) && !c.heldBlocks.any (fun b => b.launch == h && b.run == run) &&
      !tgetHolds s k h run &&
      (match findLaunch c h with
       | some l => (l.runOf run).slots.isEmpty
       | none => true)

/-- TGET succeeds: the block runs on the core in a slot, and DTASK, DEST, DRNGC and DRNGH are set (R200, R59). -/
def takeBlock (s : State) (n k sl : Nat) (t : Task) (addr : Nat) (o : SyncOp) : State :=
  let w := hwWho k t.launch t.run
  let r := ((getLaunch s k t.launch).map (fun l => l.desc)).getD (parseRecord 0)
  let ident := blockIdent r addr
  let s1 := runBlock s n k sl t.launch t.run addr
  let s2 := modCore s1 n (fun c =>
    { c with
      dev := { c.dev with
        task := BitVec.ofNat 64 addr, est := BitVec.ofNat 64 (blockField s w addr 0x30 4)
        rngc := BitVec.ofNat 64 (ident % 2 ^ 32 * 2 ^ 32), rngh := BitVec.ofNat 64 (ident / 2 ^ 32) }
      task := some { t with slot := some sl, item := addr, ident := ident
                            ckpt := r.flag 0 && bitAt (blockField s w addr 0x04 4) 0 } })
  dropSync (fillPending s2 n o.id (.x (o.rd.getD 0) (BitVec.ofNat 64 addr))) n o.id

/-- A TGET ends with 0. -/
def tgetNothing (s : State) (n : Nat) (o : SyncOp) : State := dropSync (fillPending s n o.id (.x (o.rd.getD 0) 0)) n o.id

/-- A block found for a TGET runs, or is held work while no slot is free (R200, R253). -/
def tgetFound (s : State) (n k : Nat) (t : Task) (addr : Nat) (o : SyncOp) (board wait : Bool) : State :=
  match freeTaskSlot s with
  | some sl =>
    if blockAt s (hwWho k t.launch t.run) addr then takeBlock (follows s (.core n) .manager) n k sl t addr o
    else awaitTake (putSync s n { o with kind := .tget board wait (some addr) }) k t.launch t.run addr (getCore s n).logical
  | none => putSync s n { o with kind := .tget board wait (some addr) }

/-- One pass of a TGET that has issued (R200, R303): a block, or 0 without WAIT or once the launch is drained. `takes` tells whether
the core takes work: one that drains for a pre-emption does not, and a TGET without WAIT ends with 0 there (log entry 14). -/
def tgetPass (s : State) (n : Nat) (o : SyncOp) (takes : Bool) : State :=
  let c := getCore s n
  match c.ctx, c.task, o.kind with
  | some k, some t, .tget board wait held =>
    if c.dev.task ≠ 0 then s
    else
      match held with
      | some a => if takes then tgetFound s n k t a o board wait else s
      | none =>
        if !takes then (if wait then s else tgetNothing s n o)
        else
          match findWork s { ctx := k, logical := c.logical, only := some (t.launch, t.run) } board with
          | some f =>
            match f.entry.work with
            | .block a => tgetFound f.after n k t a o board wait
            | .point _ => s
          | none =>
            let s1 := announcePages s k
            if !wait || isDrained s1 k t.launch t.run then tgetNothing (follows s1 (.core n) .manager) n o else s1
  | _, _, _ => s

/-- TGET (R200): legal in a persistent launch with no task open. It looks for a block in the passes of R303. -/
def execTget (b w : BitVec 1) (rd : BitVec 5) (s : State) : Out :=
  .next (
    if (curCore s).mode ≠ 2 ∨ (curCore s).dev.task ≠ 0 then slotFail s .illegal 0
    else armResult s rd (.tget (b == 1) (w == 1) none) 0)

/-- TDONE and TABORT: persistent mode, x[xs] = DTASK, and the core drained as R106 says (R201). With no task open and x[xs] 0 there
is nothing to merge or to discard, and the word commits (DESIGN CHOICE; log entry 68). -/
def endBlock (s : State) (xs : BitVec 5) (act : Nat → Task → State) : Out :=
  .next (
    if (curCore s).mode ≠ 2 ∨ rx s xs.toNat ≠ (curCore s).dev.task then slotFail s .illegal (rx s xs.toNat).toNat
    else if !s.issue.commit && !drained (curCore s) then slotHold s
    else
      match (curCore s).ctx, curTask s with
      | some k, some t => act k t
      | _, _ => s)

/-- The resident program holds no block any longer (R201). -/
def closeBlock (s : State) (t : Task) (ckpt : Bool) : State :=
  modCur s (fun c =>
    { c with dev := { c.dev with task := 0 }, task := some { t with slot := none, item := 0, ckpt := ckpt } })

/-- The record's CKPT flag of a launch. -/
def launchCkpt (s : State) (k h : Nat) : Bool := ((getLaunch s k h).map (fun l => l.desc.flag 0)).getD false

/-- An answer from another package is still to come for a sub-version: it may make it dependent on another (R244). -/
def answerDue (s : State) (t : Slot) : Bool := s.link.requests.any (fun r => r.stamp == t.stamp)

/-- A completed slot merges once no slot it depends on is open, with what follows for its task (R255). -/
def tryMerge (s : State) (k h : Nat) (run : Bool) (sl : Nat) : State :=
  match findSlot s k h run sl with
  | some t => if t.completed && t.deps.isEmpty && !answerDue s t then settle (afterMerge (mergeSlot s k h run sl) k h run t) else s
  | none => s

/-- What the core has done comes before what the stage manager does next (R246). -/
def managerFollows (s : State) (n : Nat) : State := follows (follows s .manager (.core n)) .manager (.engine n)

/-- TDONE (R201): the block's sub-version is complete, and merges as R255 gives. -/
def execTdone (xs : BitVec 5) (s : State) : Out :=
  endBlock s xs (fun k t =>
    let s1 := closeBlock (managerFollows s s.issue.core) t (launchCkpt s k t.launch)
    match t.slot with
    | some sl => completeSlot s1 k t.launch t.run sl
    | none => s1)

/-- TABORT (R201): the block goes back under its key, and a run count of 255 aborts the launch with SWTRAP. -/
def execTabort (xs : BitVec 5) (s : State) : Out :=
  endBlock s xs (fun k t =>
    let s1 := closeBlock s t (launchCkpt s k t.launch)
    match t.slot with
    | some sl => discardSlot s1 k sl .tabort
    | none => s1)

/-- A spawned block acts at its home (R202). -/
def spawnBlock (s : State) (k h : Nat) (run : Bool) (addr key logical : Nat) : State :=
  let w := hwWho k h run
  match blockHome s k addr, keepsBlocks s w with
  | .far node a, false => holdSpawn s k h run addr logical node a key
  | _, _ =>
  if !blockAt s w addr then holdBlock s k h run addr logical addr (.spawn key)
  else
    let st := blockField s w addr 0x34 1
    if st = 1 ∨ st = 2 then s else joinBlock (setBlockField s w addr 0x28 8 key) k h run addr logical false

/-- A spawn has been performed at the home of its block in another package, where the block was as the line kept for the run shows it:
READY and RUNNING blocks it left as they were, others it queued (R202). -/
def spawnedFar (s : State) (k h : Nat) (run : Bool) (addr key logical : Nat) : State :=
  let w := hwWho k h run
  let st := blockField s w addr 0x34 1
  if st = 1 ∨ st = 2 then s
  else
    let s1 := writeLine (writeLine s w (addr + 0x28) (bytesOf 8 key)) w (addr + 0x34)
      (bytesOf 12 (joinedWord (ofBool (blockField s w addr 0x18 4 == 0))))
    enterBlock (modRun s1 k h run (fun r => { r with blocks := if r.blocks.contains addr then r.blocks else r.blocks ++ [addr] })) k h run
      addr logical false 0

/-- TSPAWN (R202): a release at device scope. -/
def execTspawn (xt xs : BitVec 5) (s : State) : Out :=
  let va := syncAddr s xs
  .next (
    if (curCore s).mode = 0 then slotFail s .illegal 0
    else if releaseHeld s 0 then slotHold s
    else if va % 64 ≠ 0 then slotFail s .align va
    else if 2 ^ 47 ≤ va then slotFail s .protect va
    else
      match (curCore s).ctx, curTask s with
      | some k, some t => spawnBlock (managerFollows s s.issue.core) k t.launch t.run va (rx s xt.toNat).toNat (curCore s).logical
      | _, _ => s)

/-! ## Launches (R203, R204) -/

/-- The eight 64-byte parts of a record, each checked as a read. -/
def recordParts (s : State) (va : Nat) : List (Nat × Access) :=
  (upTo 8).map (fun i => (va + 64 * i,
    checkRange s s.issue.core (whoIs s s.issue.core) (va + 64 * i) 64 true false 0 0))

/-- The parts that lie in the package are read; the others are requested (R203, R239). -/
def readParts (id va : Nat) : List (Nat × Access) → State × Sparse Nat → State × Sparse Nat
  | [], r => r
  | (a, .here p) :: rest, (s, got) =>
    let (s1, bytes) := readAt s (whoIs s s.issue.core) p 64
    readParts id va rest (loads s1 (.core s.issue.core) p 64, spPut got ((a - va) / 64) (ofBytes bytes))
  | (a, .away tgt node addr) :: rest, (s, got) =>
    readParts id va rest (requestLoad s tgt node addr a 64 id ((a - va) / 64) false none, got)
  | _ :: rest, r => readParts id va rest r

/-- The record's bytes from its parts. -/
def joinParts (got : Sparse Nat) : Nat := packElems 512 8 (fun i => spGet 0 got i)

/-- Once all parts are there, the record is placed in its queue and the handle returned (R203). -/
def finishLaunch (s : State) (n : Nat) (o : SyncOp) : State :=
  match o.kind, (getCore s n).ctx, (getCore s n).task with
  | .launch queue, some k, some t =>
    if o.got.length < 8 then s
    else
      let (s1, h) := placeRecord (managerFollows s n) k queue (joinParts o.got) (.child t.launch t.run (t.slot.getD mergedSlot))
      dropSync (fillPending s1 n o.id (.x (o.rd.getD 0) (BitVec.ofNat 64 h))) n o.id
  | _, _, _ => s

/-- The first failing part of a record. -/
def partsFail (ps : List (Nat × Access)) : Option (Cause × Nat) :=
  ps.findSome? (fun q =>
    match q.2 with
    | .fails c => some (c, q.1)
    | _ => none)

/-- The parts that still wait for a translation, and the first part that is held for a prepared line or an earlier access. -/
def partsHold (s : State) (ps : List (Nat × Access)) : Option State :=
  match ps.find? (fun q => q.2 == .untranslated) with
  | some q => some (holdForWalk s q.1)
  | none => ps.findSome? (fun q =>
      match q.2 with
      | .prepared p => some (holdForPrepared s p)
      | .ordered => some (slotHold s)
      | _ => none)

/-- LAUNCH (R203): a release at device scope; the record is copied when it is performed. -/
def execLaunch (xt xs rd : BitVec 5) (s : State) : Out :=
  let va := syncAddr s xs
  let n := s.issue.core
  let id := freshId s
  .next (
    if releaseHeld s 0 then slotHold s
    else if va % 64 ≠ 0 then slotFail s .align va
    else if 2 ^ 47 ≤ va then slotFail s .protect va
    else
      let ps := recordParts s va
      match partsHold s ps with
      | some h => h
      | none =>
        match partsFail ps with
        | some (c, _) => slotFail s c va
        | none =>
          if meetsJobs s n (rangeOf va 512) false then slotHold s
          else
            let s1 := armResult s rd (.launch (rx s xt.toNat).toNat) 0
            let (s2, got) := readParts id va ps (s1, [])
            match (getCore s2 n).sync.find? (fun o => o.id == id) with
            | some o =>
              let o1 := { o with got := got }
              finishLaunch (putSync s2 n o1) n o1
            | none => s2)

/-- LWAIT (R204): UNKNOWN at once for a handle never received; else the launch of the waiting task is bound to it (R261). -/
def execLwait (xs rd : BitVec 5) (s : State) : Out :=
  let h := syncAddr s xs
  .next (
    match (curCore s).ctx with
    | none => s
    | some k =>
      match getLaunch s k h with
      | none => answer s rd 0x04
      | some _ =>
        let s1 := match curTask s with
          | some t => modLaunch s k t.launch (fun l => { l with lwaits := insertNat h l.lwaits })
          | none => s
        armResult s1 rd (.lwait h) 0)

/-! ## RAND (R59, R205) -/

/-- RAND: the next word of the scalar stream, and DRNGC + 1 at issue + 1. -/
def execRand (rd : BitVec 5) (s : State) : Out :=
  let d := (curCore s).dev
  let x := ctxOfCore s s.issue.core
  let v := scalarRandom (x.key0 % 2 ^ 32) ((x.key1 % 2 ^ 32) ^^^ d.rngh.toNat) d.rngc.toNat
  .next (postFixed (postX s rd.toNat 2 (BitVec.ofNat 64 v)) (some (.dev 0x012)) 1 0 (.dev 0x012 (d.rngc + 1)))

end Sys2Proof.Machine
end

