-- ==== Sys2Proof/Machine/Stream.lean ====
section
/-!
DEFINITION. The stream instructions (R206 to R228): the checks at issue, the posting of jobs with their footprints, rings and
windows, waits on jobs, and hints.
-/
namespace Sys2Proof.Machine

/-- ST_NOP (R72). -/
def execStNop (s : State) : Out := .next s

/-! ## Issue checks -/

/-- The check of several that fails with the smallest cause, the first listed of equal causes (log entry 17). -/
def firstFault (fs : List (Cause × Nat)) : Option (Cause × Nat) :=
  fs.foldl (fun best f =>
    if f.1 = .none then best
    else
      match best with
      | none => some f
      | some b => if f.1.code < b.1.code then some f else best) none

/-- A check as an entry of a list: the cause where it fails. -/
def failsWith (ok : Bool) (c : Cause) (addr : Nat) : Cause × Nat := if ok then (.none, 0) else (c, addr)

/-- The bundle fails with the first fault of the checks, or goes on. -/
def checked (s : State) (fs : List (Cause × Nat)) (act : State) : State :=
  match firstFault fs with
  | some (c, a) => slotFail s c a
  | none => act

/-- F0, F1, F2 and F3 of hs[m] at issue (R206). -/
def hsField (s : State) (m f : Nat) : Nat := ((curCore s).regs.readShape 2 m f).toNat

/-- ROWS of F0 (Table 9.2). -/
def f0Rows (f0 : Nat) : Nat := f0 / 2 ^ 16
/-- COLS of F0. -/
def f0Cols (f0 : Nat) : Nat := f0 % 2 ^ 16
/-- ACT of F1. -/
def f1Act (f1 : Nat) : Nat := field f1 4 2
/-- FSPACE of F1. -/
def f1Space (f1 : Nat) : Nat := field f1 6 2
/-- TRANS of F1. -/
def f1Trans (f1 : Nat) : Bool := bitAt f1 3
/-- MODE of F1. -/
def f1Mode (f1 : Nat) : Nat := f1 % 8

/-- F0 and F1 hold no reserved value, and F2 none under ACT 2 (R207, Table 9.2). -/
def f0Ok (f0 : Nat) : Bool := f0Rows f0 != 0 && f0Cols f0 != 0

/-- F1 holds no reserved value; FSPACE is read when a flag word is used. -/
def f1Ok (f1 : Nat) (flagUsed : Bool) : Bool :=
  f1 / 2 ^ 8 == 0 && f1Mode f1 != 5 && f1Mode f1 != 7 && f1Act f1 != 3 && !(flagUsed && f1Space f1 == 0)

/-- The address of a flag word. -/
def flagAddr (f1 off : Nat) : Nat := spaceBase (spaceOfCode (f1Space f1)) + off

/-- A flag word is aligned and lies inside its memory and the chip scratchpad allocation (R210). -/
def flagWordFault (s : State) (f1 off : Nat) : Cause × Nat :=
  let sp := spaceOfCode (f1Space f1)
  if off % 4 ≠ 0 then (.align, flagAddr f1 off)
  else if spaceSize sp < off + 4 ∨ (sp = .chip ∧ !chipAllowed (ctxOfCore s s.issue.core) off 4) then (.protect, flagAddr f1 off)
  else (.none, 0)

/-- The checks of a completion action (R207, R210). -/
def actionFault (s : State) (f1 f2 : Nat) : Cause × Nat :=
  match f1Act f1 with
  | 1 => flagWordFault s f1 f2
  | 2 => if 2 ^ 24 ≤ f2 then (.illegal, 0) else failsWith (nameOk s f2) .bounds f2
  | _ => (.none, 0)

/-- The checks of the shape fields that a copy or ring job reads. -/
def shapeFaults (s : State) (f0 f1 f2 : Nat) : List (Cause × Nat) :=
  [failsWith (f0Ok f0 && f1Ok f1 (f1Act f1 == 1)) .illegal 0, actionFault s f1 f2]

/-- A record's check by R26. -/
def recordFault (s : State) (n : BitVec 6) : Cause × Nat :=
  let g := (curCore s).regs
  failsWith (!(recordOf (g.readRec n.toNat)).malformed) .illegal (g.readRecAddr n.toNat)

/-- A record's check by R26 where its FMT is not read (R224). -/
def fieldsFault (s : State) (n : BitVec 6) : Cause × Nat :=
  let g := (curCore s).regs
  failsWith (!({ recordOf (g.readRec n.toNat) with fmt := 0 } : Record).malformed) .illegal (g.readRecAddr n.toNat)

/-- A record of the issuing core. -/
def recAt (s : State) (n : BitVec 6) : Record := recordOf ((curCore s).regs.readRec n.toNat)

/-! ## Tiles and units (R214 to R216) -/

/-- TileOffset(b, k, i, j) (R214). -/
def Record.tileOffset (b : Record) (k i j : Nat) : Int :=
  if b.rowlen = 0 then b.offset ((k + j : Nat) : Int) 0 + (i : Int) * b.stride1
  else b.offset ((k + i * b.rowlen + j : Nat) : Int) 0

/-- The bytes of one whole unit of a format (Table 6.2). -/
def unitBytes (f : Nat) : Nat := if isBlockFmt f then blockBytes f else fmtUnit f * fmtBits f / 8

/-- The bytes of n elements of a format in a ring slot (R216). -/
def slotBytes (f n : Nat) : Nat := if isBlockFmt f then (n + 31) / 32 * blockBytes f else (n * fmtBits f + 7) / 8

/-- Two formats that one job may carry: equal, or both element formats (R215). -/
def fmtPairOk (a b : Nat) : Bool := a == b || (isElementFmt a && isElementFmt b)

/-- The unit rule of packed and block tiles (R215): BOUNDS for a block format, ALIGN for a packed one. -/
def unitFault2 (b : Record) (counts : List Nat) (addr : Nat) : Cause × Nat :=
  if counts.all (fun n => n % fmtUnit b.fmt == 0) then (.none, 0)
  else (if isBlockFmt b.fmt then .bounds else .align, addr)

/-- The range of a record for footprints (R209): a local space by its offsets. -/
def Record.range (b : Record) : Range := ⟨b.space, b.base, b.base + b.extent⟩

/-! ## Posting (R208) -/

/-- A tag names a job in flight (R208). -/
def tagBusy (c : Core) (t : Nat) : Bool := c.jobs.any (fun j => j.tag == some t)

/-- The issuing core's job posted under its identifier, with the task that posts it; what its engine does comes after what the core
has done (R235). -/
def postJob (s : State) (j : Job) : State :=
  let t := curTask s
  modCur (follows s (.engine s.issue.core) (.core s.issue.core)) (fun c =>
    { c with
      nextId := c.nextId + 1
      jobs := c.jobs ++ [{ j with
        id := c.nextId, bundle := c.ctl.pc, launch := (t.map (fun k => k.launch)).getD 0, run := (t.map (fun k => k.run)).getD false
        slot := ((t.bind (fun k => k.slot))).getD mergedSlot }] })

/-- A posting instruction: held while its tag is in flight, then checked, then posted (R208). -/
def posting (s : State) (t : BitVec 5) (fs : List (Cause × Nat)) (act : State) : Out :=
  .next (if tagBusy (curCore s) t.toNat then slotHold s else checked s fs act)

/-- The origin in the low half of a register. -/
def lowHalf (x : Word) : Nat := x.toNat % 2 ^ 32

/-- CPY (R215). -/
def execCpy (m : BitVec 2) (bs bd : BitVec 6) (x : BitVec 5) (t : BitVec 5) (s : State) : Out :=
  let f0 := hsField s m.toNat 0
  let f1 := hsField s m.toNat 1
  let f2 := hsField s m.toNat 2
  let src := recAt s bs
  let dst := recAt s bd
  let kA := lowHalf (rx s x.toNat)
  let kB := (rx s x.toNat).toNat / 2 ^ 32
  let first := src.address (src.tileOffset kA 0 0)
  let whole := !isElementFmt src.fmt
  posting s t
    (recordFault s bs :: recordFault s bd :: shapeFaults s f0 f1 f2 ++
      [failsWith (fmtPairOk src.fmt dst.fmt) .illegal 0, failsWith (!(whole && f1Trans f1)) .illegal first,
       unitFault2 src [f0Cols f0, kA, kB] first,
       failsWith (!(src.range.meets dst.range)) .bounds (spaceBase (spaceOfCode dst.space) + dst.base)])
    (postJob s { id := 0, tag := some t.toNat, kind := .cpy, bundle := 0, src := (curCore s).regs.readRec bs.toNat
                 dst := (curCore s).regs.readRec bd.toNat, f0 := BitVec.ofNat 32 f0, f1 := BitVec.ofNat 32 f1
                 f2 := BitVec.ofNat 32 f2, orgA := kA, orgB := kB, rows := f0Rows f0, reads := [src.range], writes := [dst.range] })

/-- The slots that a ring job claims: ROWS, or COLS when TRANS. -/
def ringSlots (f0 f1 : Nat) : Nat := if f1Trans f1 then f0Cols f0 else f0Rows f0

/-- The elements that one slot carries. -/
def slotElems (f0 f1 : Nat) : Nat := if f1Trans f1 then f0Rows f0 else f0Cols f0

/-- The RING checks of a ring job (R217): enabled, the row fits, the format pair is allowed. -/
def ringFault (r : Ring) (fmt elems : Nat) : Cause × Nat :=
  failsWith (r.cap != 0 && decide (slotBytes r.fmt elems ≤ r.slot) && fmtPairOk fmt r.fmt) .ring 0

/-- TRANS is ILLEGAL with a packed or block format (R217). -/
def transFault (r : Ring) (fmt f1 : Nat) : Cause × Nat :=
  failsWith (!(f1Trans f1 && (!isElementFmt fmt || !isElementFmt r.fmt))) .illegal 0

/-- CPYQ (R216, R217). -/
def execCpyq (q : BitVec 4) (bs : BitVec 6) (m : BitVec 2) (x : BitVec 5) (t : BitVec 5) (s : State) : Out :=
  let f0 := hsField s m.toNat 0
  let f1 := hsField s m.toNat 1
  let f2 := hsField s m.toNat 2
  let src := recAt s bs
  let r := (curCore s).regs.ring q.toNat
  let kA := lowHalf (rx s x.toNat)
  posting s t
    (recordFault s bs :: shapeFaults s f0 f1 f2 ++
      [transFault r src.fmt f1, unitFault2 src [f0Cols f0, kA] (src.address (src.tileOffset kA 0 0)),
       ringFault r src.fmt (slotElems f0 f1)])
    (postJob s { id := 0, tag := some t.toNat, kind := .cpyq, bundle := 0, src := (curCore s).regs.readRec bs.toNat
                 f0 := BitVec.ofNat 32 f0, f1 := BitVec.ofNat 32 f1, f2 := BitVec.ofNat 32 f2, orgA := kA, ring := q.toNat
                 rows := ringSlots f0 f1, cols := slotElems f0 f1, reads := [src.range] })

/-- CPYO (R216, R217). Its unit check reports the destination address of element (0, 0), since it has no source record, whose address R215
gives for CPY (DEDUCED; log entry 18). -/
def execCpyo (q : BitVec 4) (m : BitVec 2) (bd : BitVec 6) (x : BitVec 5) (t : BitVec 5) (s : State) : Out :=
  let f0 := hsField s m.toNat 0
  let f1 := hsField s m.toNat 1
  let f2 := hsField s m.toNat 2
  let dst := recAt s bd
  let r := (curCore s).regs.ring q.toNat
  let kB := lowHalf (rx s x.toNat)
  posting s t
    (recordFault s bd :: shapeFaults s f0 f1 f2 ++
      [transFault r dst.fmt f1, unitFault2 dst [f0Cols f0, kB] (dst.address (dst.tileOffset kB 0 0)),
       ringFault r dst.fmt (slotElems f0 f1)])
    (postJob s { id := 0, tag := some t.toNat, kind := .cpyo, bundle := 0, dst := (curCore s).regs.readRec bd.toNat
                 f0 := BitVec.ofNat 32 f0, f1 := BitVec.ofNat 32 f1, f2 := BitVec.ofNat 32 f2, orgB := kB, ring := q.toNat
                 rows := ringSlots f0 f1, cols := slotElems f0 f1, writes := [dst.range] })

/-! ## Waits (R221, R222) -/

/-- CWAIT (R221). -/
def execCwait (a : BitVec 1) (t : BitVec 5) (s : State) : Out :=
  let c := curCore s
  .next (if a = 1 then (if c.jobs.isEmpty then s else slotHold s)
         else if tagBusy c t.toNat then slotHold s else s)

/-- Chunk c of a collective is complete at its rank (R226). -/
def chunkDone (s : State) (k c : Nat) (key : Nat × Nat) : Bool :=
  match getCtx s k with
  | none => false
  | some x => x.colls.any (fun q => q.k == key.1 && q.seq == key.2 && q.flagged.contains c)

/-- KWAIT (R222). -/
def execKwait (x : BitVec 5) (t : BitVec 5) (s : State) : Out :=
  let c := curCore s
  .next (
    match c.jobs.find? (fun j => j.tag == some t.toNat) with
    | none => s
    | some j =>
      match j.coll with
      | some key =>
        if chunkDone s (slotOfCore s s.issue.core) (rx s x.toNat).toNat key then follows s (.core s.issue.core) .chorus
        else slotHold s
      | none => slotHold s)

/-! ## Rings and windows (R218 to R220) -/

/-- Something of the core holds a claim on a ring or waits for one (R218). -/
def ringClaimed (c : Core) (q : Nat) : Bool :=
  c.mx.queue.any (fun o =>
    match o.kind with
    | .mwl | .mma | .mmz | .msm | .mout => o.ring == q
    | .mmg => o.ring == q || o.wring == q
    | .mtl => o.ring == q || (o.reload && o.wring == q)
    | _ => false) ||
  c.pend.any (fun e =>
    match e.what with
    | .ringFilled k => k == q
    | .ringFreed k => k == q
    | .ringSet k _ => k == q
    | _ => false) ||
  c.jobs.any (fun j => (j.kind == .cpyq || j.kind == .cpyo || j.kind == .wset || j.kind == .wadv) && j.ring == q)

/-- The descriptor of RINGI's operand holds no reserved value (R218, Table 9.3). -/
def ringOperandOk (w : Nat) : Bool :=
  w / 2 ^ 54 == 0 && field w 19 5 == 0 && field w 0 6 == 0 && !fmtReserved (field w 48 6) && decide (field w 24 8 ≤ 64) &&
    !(field w 24 8 == 0 && field w 32 16 != 0)

/-- The descriptor as a landing carries it: base, slot bytes, capacity and format. -/
def ringWord (w : Nat) : Word :=
  BitVec.ofNat 64 (field w 0 19 + 2 ^ 20 * (64 * field w 24 8) + 2 ^ 40 * field w 32 16 + 2 ^ 56 * field w 48 6)

/-- RINGI (R218): the descriptor takes effect at issue + 1. -/
def execRingi (q : BitVec 4) (x : BitVec 5) (s : State) : Out :=
  let w := (rx s x.toNat).toNat
  let base := field w 0 19
  .next (if ringClaimed (curCore s) q.toNat then slotHold s
    else checked s
      [failsWith (ringOperandOk w) .illegal 0,
       failsWith (decide (base + field w 32 16 * 64 * field w 24 8 ≤ 524288)) .bounds (spaceBase .core + base)]
      (postFixed s none 1 0 (.ringSet q.toNat (ringWord w))))

/-- The jobs of a ring's window are in flight (R219). -/
def windowBusy (c : Core) (q : Nat) : Bool := c.jobs.any (fun j => (j.kind == .wset || j.kind == .wadv) && j.ring == q)

/-- WSET (R219). TRANS with element formats has no effect: the slots carry COLS elements (DESIGN CHOICE: the spec gives it none; log
entry 71). -/
def execWset (q : BitVec 4) (bs : BitVec 6) (m : BitVec 2) (x : BitVec 5) (t : BitVec 5) (s : State) : Out :=
  let f0 := hsField s m.toNat 0
  let f1 := hsField s m.toNat 1
  let f2 := hsField s m.toNat 2
  let src := recAt s bs
  let r := (curCore s).regs.ring q.toNat
  let row := lowHalf (rx s x.toNat)
  let raw := (curCore s).regs.readRec bs.toNat
  if windowBusy (curCore s) q.toNat then .next (slotHold s)
  else posting s t
    (recordFault s bs :: shapeFaults s f0 f1 f2 ++
      [transFault r src.fmt f1, unitFault2 src [f0Cols f0] (src.address (src.tileOffset 0 row 0)),
       ringFault r src.fmt (f0Cols f0), failsWith (src.fmt == r.fmt && decide (f0Rows f0 ≤ r.cap)) .ring 0])
    (postJob
      (modRegs s (fun g => g.setRing q.toNat { r with win := some ⟨raw, f0Cols f0, row + f0Rows f0⟩ }))
      { id := 0, tag := some t.toNat, kind := .wset, bundle := 0, src := raw, f0 := BitVec.ofNat 32 f0
        f1 := BitVec.ofNat 32 f1, f2 := BitVec.ofNat 32 f2, first := row, ring := q.toNat, rows := f0Rows f0
        cols := f0Cols f0, reads := [src.range] })

/-- WADV (R220). -/
def execWadv (q : BitVec 4) (x : BitVec 5) (t : BitVec 5) (s : State) : Out :=
  let r := (curCore s).regs.ring q.toNat
  let v := (rx s x.toNat).toNat
  posting s t
    [failsWith (decide (v < 2 ^ 16)) .illegal 0, failsWith r.win.isSome .ring 0]
    (match r.win with
     | none => s
     | some w =>
       if v = 0 then s
       else postJob (modRegs s (fun g => g.setRing q.toNat { r with win := some { w with next := w.next + v } }))
         { id := 0, tag := some t.toNat, kind := .wadv, bundle := 0, src := w.record, first := w.next, ring := q.toNat
           rows := v, cols := w.cols, reads := [(recordOf w.record).range] })

/-! ## Collectives (R223 to R225) -/

/-- The fields of KPOST's parameter register (Table 9.4). -/
structure Params where
  seq : Nat
  fh : Nat
  flags : Bool
  chunk : Nat
  root : Nat
  ord : Bool
  op : Nat
  kind : Nat
  reserved : Bool
deriving DecidableEq, Repr

/-- The parameters in a register (Table 9.4). -/
def paramsOf (w : Nat) : Params :=
  { seq := field w 48 16, fh := field w 41 2, flags := bitAt w 40, chunk := field w 32 8, root := field w 16 16
    ord := bitAt w 8, op := field w 4 4, kind := field w 0 4, reserved := field w 43 5 != 0 || field w 9 7 != 0 }

/-- A reducing kind (R224). -/
def Params.reduces (p : Params) : Bool := p.kind == 2 || p.kind == 3 || p.kind == 4

/-- The pairs of operation and format that R224 allows. -/
def opFmtOk (op fmt : Nat) : Bool :=
  match op with
  | 0 | 4 | 5 | 6 => fmt == 0x04 || fmt == 0x05
  | 1 => fmt == 0x08
  | 2 | 3 => fmt == 0x04 || fmt == 0x05 || fmt == 0x08
  | _ => false

/-- The send record is read at this rank (R223). -/
def usesSend (p : Params) (pos : Nat) : Bool := p.kind != 0 && !(p.kind == 1 && pos != p.root)

/-- The receive record is used at this rank (R223). -/
def usesRecv (p : Params) (pos : Nat) : Bool := p.kind != 0 && !(p.kind == 2 && pos != p.root)

/-- The parameters hold no reserved value or combination (R223, Table 9.4). -/
def paramsOk (p : Params) (size : Nat) : Bool :=
  !p.reserved && decide (12 ≤ p.chunk) && decide (p.chunk ≤ 20) && decide (p.kind ≤ 5) &&
    (if p.kind = 1 ∨ p.kind = 2 then decide (p.root < size) else p.root == 0) &&
    (!p.reduces || (decide (p.op ≤ 6) && (!p.ord || p.op == 1)))

/-- The size rule of Table 9.5 on this rank's own records. -/
def sizeOk (p : Params) (n pos : Nat) (send recv : Record) : Bool :=
  match p.kind with
  | 0 => true
  | 1 => pos != p.root || recv.extent == send.extent
  | 2 => send.extent % 4 == 0 && (pos != p.root || recv.extent == send.extent)
  | 3 => recv.extent == send.extent && send.extent % 4 == 0
  | 4 => send.extent == n * recv.extent && recv.extent % 4 == 0
  | _ => recv.extent == n * send.extent

/-- The number of chunks of a receive range (R226). -/
def chunkCount (p : Params) (pos : Nat) (recv : Record) : Nat :=
  if usesRecv p pos then (recv.extent + 2 ^ p.chunk - 1) / 2 ^ p.chunk else 0

/-- The checks of the flag array (R226): the lowest-numbered word that fails. -/
def flagArrayFault (s : State) (f1 f3 count : Nat) : Cause × Nat :=
  ((upTo count).map (fun c => flagWordFault s f1 (f3 + 4 * c))).find? (fun f => f.1 != .none) |>.getD (.none, 0)

/-- A collective of this launch that the rank has already posted under (k, SEQ) (R225). -/
def joins (c : Ctx) (k seq launch : Nat) (run : Bool) : Bool :=
  c.colls.any (fun q => q.k == k && q.seq == seq && q.launch == launch && q.run == run)

/-- KPOST posts its job (R225): it joins, posts a collective, or, behind NEXTSEQ, posts a job that faults. -/
def postCollective (s : State) (k : Nat) (bs br : BitVec 6) (p : Params) (prm : Nat) (t : BitVec 5) : State :=
  let n := slotOfCore s s.issue.core
  let c := ctxOfCore s s.issue.core
  let cm : Comm := spGet {} c.comms k
  let g := (curCore s).regs
  let launch := ((curTask s).map (fun q => q.launch)).getD 0
  let run := ((curTask s).map (fun q => q.run)).getD false
  let f := fun (i : Nat) => BitVec.ofNat 32 (hsField s p.fh i)
  let job : Job := { id := 0, tag := some t.toNat, kind := .kpost, bundle := 0, src := g.readRec bs.toNat
                     dst := g.readRec br.toNat, f1 := f 1, f2 := f 2, coll := some (k, p.seq), setsFlags := p.flags }
  if joins c k p.seq launch run then postJob s job
  else if (p.seq + 2 ^ 16 - cm.nextSeq) % 2 ^ 16 < 2 ^ 15 then
    let col : Coll := { k := k, seq := p.seq, prm := prm, send := g.readRec bs.toNat, recv := g.readRec br.toNat, f1 := f 1
                        f2 := f 2, f3 := f 3, launch := launch, run := run, core := (curCore s).logical
                        slot := ((curTask s).bind (fun q => q.slot)).getD mergedSlot, bundle := (curCore s).ctl.pc }
    let rd := if usesSend p cm.pos then [(recAt s bs).range] else []
    let wr := if usesRecv p cm.pos then [(recAt s br).range] else []
    postJob (modCtx s n (fun x => { x with
      colls := x.colls.filter (fun q => !(q.k == k && q.seq == p.seq && q.done)) ++ [col] })) { job with reads := rd, writes := wr }
  else postJob s { job with coll := none }

/-- KPOST (R223, R306, R268). -/
def execKpost (k : BitVec 4) (bs br : BitVec 6) (x : BitVec 5) (t : BitVec 5) (s : State) : Out :=
  let c := ctxOfCore s s.issue.core
  let cm : Comm := spGet {} c.comms k.toNat
  let prm := (rx s x.toNat).toNat
  let p := paramsOf prm
  let send := recAt s bs
  let recv := recAt s br
  let f1 := hsField s p.fh 1
  let us := usesSend p cm.pos
  let ur := usesRecv p cm.pos
  let exactTask := ((curTask s).map (fun q => q.exact)).getD false
  let judge := if p.reduces then recordFault s else fieldsFault s
  posting s t
    [failsWith (cm.en && paramsOk p cm.size) .illegal 0,
     failsWith (!(p.reduces && p.op == 1 && !p.ord && exactTask)) .illegal 0,
     failsWith (!rehearsing s (whoIs s s.issue.core)) .illegal 0,
     failsWith (p.kind != 0 || (bs == 0 && br == 0)) .illegal 0,
     (if us then judge bs else (.none, 0)), (if ur then judge br else (.none, 0)),
     failsWith (!p.reduces || (opFmtOk p.op send.fmt && (!ur || recv.fmt == send.fmt))) .illegal 0,
     failsWith (f1Ok f1 (f1Act f1 == 1 || p.flags)) .illegal 0,
     failsWith (sizeOk p cm.size cm.pos send recv) .bounds recv.base,
     actionFault s f1 (hsField s p.fh 2),
     (if p.flags then flagArrayFault s f1 (hsField s p.fh 3) (chunkCount p cm.pos recv) else (.none, 0))]
    (postCollective s k.toNat bs br p prm t)

/-! ## Overlays (R227) -/

/-- The code object of the issuing task. -/
def curObject (s : State) : Option CodeObj :=
  match curTask s with
  | some t => codeOf (ctxOfCore s s.issue.core) t.code
  | none => none

/-- OVL (R227): ILLEGAL at or above the overlay count; the regions' valid bits become 0 at issue + 1. -/
def execOvl (x : BitVec 5) (t : BitVec 5) (s : State) : Out :=
  let i := (rx s x.toNat).toNat
  let count := ((curTask s).map (fun k => k.ovls)).getD 0
  let e := ((curTask s).map (fun k => k.firstOvl)).getD 0 + i
  match curObject s with
  | none => .next s
  | some o =>
    let first := o.overlayFirst e
    let n := o.overlayCount e
    let overlap := (curCore s).jobs.any (fun j => j.kind == .ovl && decide (j.first < first + n) && decide (first < j.first + j.rows))
    if decide (i < count) && overlap then .next (slotHold s)
    else posting s t [failsWith (decide (i < count)) .illegal 0]
      (postJob (postFixed s none 1 0 (.regionsClear first n))
        { id := 0, tag := some t.toNat, kind := .ovl, bundle := 0, first := first, image := e, rows := n, regions := (upTo n).map (fun k => first + k) })

/-! ## Hints (R228) -/

/-- The distinct 128-byte lines of a list of global addresses. -/
def hintLines (as_ : List Nat) : List Nat := as_.foldl (fun acc a => insertNat (a / 128) acc) []

/-- The first and last bytes of every unit of a tile that a hint covers, in the record's range (R214, R228). -/
def tileAddrs (b : Record) (f0 k : Nat) : List Nat :=
  if b.space ≠ 0 then []
  else
    (upTo (f0Rows f0)).flatMap (fun i => (upTo (f0Cols f0 / fmtUnit b.fmt)).flatMap (fun j =>
      match b.resolve (b.tileOffset k i (j * fmtUnit b.fmt)) (unitBytes b.fmt) with
      | .at o => [b.address o, b.address o + unitBytes b.fmt - 1]
      | _ => []))

/-- A line that is unmapped or protected. -/
def lineDropped (s : State) (line : Nat) : Bool :=
  match classify (128 * line) with
  | some (.global, va) =>
    match xlatCtx s (ctxOfCore s s.issue.core) va with
    | .pkg _ rd _ => !rd
    | .remote _ _ _ rd _ => !rd
    | _ => true
  | _ => true

/-- PREF (R228): nothing changes but the page-table events of its walks (R348) and the hint-drop counter. -/
def execPref (bs : BitVec 6) (m : BitVec 2) (x : BitVec 5) (s : State) : Out :=
  let f0 := hsField s m.toNat 0
  let lines := hintLines (tileAddrs (recAt s bs) f0 (lowHalf (rx s x.toNat)))
  .next (checked s [recordFault s bs, failsWith (f0Ok f0) .illegal 0]
    (countDrops (reportHints s (lines.map (fun l => 128 * l))) (lines.filter (lineDropped s)).length))

/-- The home line of a global line of the issuing core's context, in package memory. -/
def homeLine (s : State) (line : Nat) : Option Nat :=
  match xlatCtx s (ctxOfCore s s.issue.core) (128 * line) with
  | .pkg p _ _ => some (lineOf p)
  | _ => none

/-- A line kept under the residency allowance of its die, or counted as dropped (R228). -/
def keepLine (s : State) (line : Nat) : State :=
  let n := slotOfCore s s.issue.core
  if lineDropped s line then countDrops s 1
  else
    match homeLine s line, getCtx s n with
    | some h, some c =>
      let die := placeDie (128 * h)
      if c.kept.contains h then s
      else if c.keepAllow ≤ (c.kept.filter (fun q => placeDie (128 * q) == die)).length then countDrops s 1
      else setCtx s n { c with kept := insertNat h c.kept }
    | _, _ => s

/-- RES (R228): KEEP, or FREE. -/
def execRes (k : BitVec 1) (bs : BitVec 6) (s : State) : Out :=
  let b := recAt s bs
  let lines :=
    if b.space ≠ 0 ∨ b.extent = 0 then []
    else (upTo ((b.base + b.extent - 1) / 128 + 1 - b.base / 128)).map (fun i => b.base / 128 + i)
  .next (checked s [recordFault s bs]
    (let s1 := reportHints s (lines.map (fun l => 128 * l))
     if k = 1 then lines.foldl keepLine s1
     else
       let homes := lines.filterMap (homeLine s)
       modCtx s1 (slotOfCore s s.issue.core) (fun c => { c with kept := c.kept.filter (fun h => !homes.contains h) })))

end Sys2Proof.Machine
end

