-- ==== Sys2Proof/Machine/Jobs.lean ====
section
/-!
DEFINITION. The stream engines at work (R208 to R220, R227): the events that start a job, move its elements, rows and regions,
and complete or fault it.
-/
namespace Sys2Proof.Machine

/-! ## Jobs of a core -/

/-- The job of a core with an identifier. -/
def findJob (c : Core) (id : Nat) : Option Job := c.jobs.find? (fun j => j.id == id)

/-- The job with a function applied to it. -/
def modJob (s : State) (n id : Nat) (f : Job → Job) : State :=
  modCore s n (fun c => { c with jobs := c.jobs.map (fun j => if j.id = id then f j else j) })

/-- The job is gone from its core. -/
def dropJob (s : State) (n id : Nat) : State := modCore s n (fun c => { c with jobs := c.jobs.filter (fun j => decide (j.id ≠ id)) })

/-- On whose behalf a job of core n accesses memory (R211). -/
def jobWho (s : State) (n : Nat) (j : Job) : Who := ⟨slotOfCore s n, j.launch, j.run, j.slot⟩

/-- Two footprints conflict (R209). -/
def Job.conflicts (a b : Job) : Bool :=
  let meet := fun (xs ys : List Range) => xs.any (fun x => ys.any (fun y => x.meets y))
  meet a.reads b.writes || meet a.writes b.reads || meet a.writes b.writes

/-- The jobs of a list before the one with an identifier. -/
def jobsBefore (id : Nat) : List Job → List Job
  | [] => []
  | j :: js => if j.id = id then [] else j :: jobsBefore id js

/-- An earlier job that conflicts has not completed (R209). -/
def jobBlocked (c : Core) (j : Job) : Bool := (jobsBefore j.id c.jobs).any (fun e => e.conflicts j)

/-- An instruction that waits, of a bundle up to the one that posted a job, has not been performed (R184, R235). -/
def behindWait (c : Core) (j : Job) : Bool := c.sync.any (fun o => decide (o.id < j.id))

/-- The core's own access to bytes of a job's footprint is on its way to another package: a load of bytes that the job writes, or a store
or atomic of bytes that it reads or writes (R235, R239). -/
def behindAccess (s : State) (n : Nat) (j : Job) : Bool :=
  s.link.requests.any (fun r => r.core == n && r.job.isNone && some r.ctx == (getCore s n).ctx &&
    (if r.kind = 0x02 then j.writes else j.writes ++ j.reads).any (fun q => q.meets (rangeOf r.va r.size)))

/-- Every earlier job that conflicts has completed, and every access that the job follows has been performed (R209, R235). -/
def jobMayStart (s : State) (n : Nat) (j : Job) : Bool :=
  j.phase == .posted && !jobBlocked (getCore s n) j && !behindWait (getCore s n) j && !behindAccess s n j

/-- An earlier job of the same window is still in flight (R220). -/
def windowBefore (c : Core) (j : Job) : Bool :=
  (j.kind == .wset || j.kind == .wadv) &&
    (jobsBefore j.id c.jobs).any (fun e => (e.kind == .wset || e.kind == .wadv) && e.ring == j.ring)

/-! ## Units (R214 to R216, R219) -/

/-- One unit that a job moves: the tile position, the offset it is read at and the offset it is written at. -/
structure TileUnit where
  row : Nat
  col : Nat
  src : Int
  dst : Int
deriving DecidableEq, Repr

/-- The element columns of a tile row that begin a unit of a format. -/
def unitCols (fmt cols : Nat) : List Nat := (upTo ((cols + fmtUnit fmt - 1) / fmtUnit fmt)).map (fun u => u * fmtUnit fmt)

/-- The units of row i of a CPY (R215). -/
def copyRow (j : Job) (i : Nat) : List TileUnit :=
  let a := recordOf j.src
  let b := recordOf j.dst
  (unitCols a.fmt (f0Cols j.f0.toNat)).map (fun c =>
    { row := i, col := c, src := a.tileOffset j.orgA i c
      dst := if f1Trans j.f1.toNat then b.tileOffset j.orgB c i else b.tileOffset j.orgB i c })

/-- The units of row r of a ring job, by their offsets in its record (R216, R219, R220). -/
def ringRowOffsets (j : Job) (r : Nat) : List Int :=
  let b := recordOf (if j.kind = .cpyo then j.dst else j.src)
  let k := if j.kind = .cpyo then j.orgB else j.orgA
  (unitCols b.fmt j.cols).map (fun c =>
    match j.kind with
    | .cpyq | .cpyo => if f1Trans j.f1.toNat then b.tileOffset k c r else b.tileOffset k r c
    | _ => b.tileOffset 0 (j.first + r) c)

/-- The alignment that a unit of a format needs: its size for an element format, else a byte. -/
def unitAlign (fmt : Nat) : Nat := if isElementFmt fmt then fmtSize fmt else 1

/-- The checks of a unit that a job reads (R145, R212). ALIGN is one of them, though R212's list of a job's causes leaves it out
(DEDUCED from its last sentence; log entry 72). -/
def readUnit (s : State) (n : Nat) (j : Job) (b : Record) (o : Int) : UnitCheck :=
  checkUnitBy (pageBits s (ctxOfCore s n)) (fun va len => checkEngine s n (jobWho s n j) va len true false 1 b.region) b o (unitBytes b.fmt) (unitAlign b.fmt)
    false

/-- The checks of a unit that a job writes, of class copy engine (R145, R211, R212). -/
def writeUnit (s : State) (n : Nat) (j : Job) (b : Record) (o : Int) : UnitCheck :=
  checkUnitBy (pageBits s (ctxOfCore s n)) (fun va len => checkEngine s n (jobWho s n j) va len false true 1 b.region) b o (unitBytes b.fmt) (unitAlign b.fmt)
    false

/-- A unit that a check does not stop: none of its parts lies in a prepared line. -/
def UnitCheck.waits : UnitCheck → Bool
  | .go parts => parts.any (fun q => match q.acc with
      | .prepared _ => true
      | _ => false)
  | _ => false

/-- The failing check of a unit. -/
def UnitCheck.fault : UnitCheck → Option (Cause × Nat)
  | .fails c a _ => some (c, a)
  | _ => none

/-! ## Accesses of an engine (R211, R232) -/

/-- The parts of a unit as read: package memory at its home, remote parts from the bytes that came back. -/
def engineRead (s : State) (n : Nat) (j : Job) : List UnitPart → State × Nat
  | [] => (s, 0)
  | q :: rest =>
    let (s1, here) :=
      match q.acc with
      | .here p =>
        let (s2, bytes) := readAt s (jobWho s n j) p q.len
        (loads s2 (.engine n) p q.len, ofBytes bytes)
      | _ => (s, packElems 8 q.len (fun i => (spGet 0 j.data (q.va + i)).toNat))
    let (s4, more) := engineRead s1 n j rest
    (s4, here * 2 ^ (8 * q.off) + more)

/-- The parts of a unit as written; the address beside the state when the spill area ran out. -/
def engineWrite (s : State) (n : Nat) (j : Job) (data : List Byte) : List UnitPart → State × Option Nat
  | [] => (s, none)
  | q :: rest =>
    let bytes := (data.drop q.off).take q.len
    let w := jobWho s n j
    match q.acc with
    | .here p =>
      let (s1, f) := storeAt s (.engine n) w q.va p bytes
      if f then (s1, some q.va) else engineWrite s1 n j data rest
    | .away tgt node addr =>
      engineWrite ((cutKinds (fun i => byteKind s w (q.va + i)) 0 bytes).foldl (fun st c =>
        sendStore st n w (remoteNode tgt node) (addr + c.1) (q.va + c.1) c.2.1 (some j.id) 7 j.bundle c.2.2) s) n j data rest
    | _ => engineWrite s n j data rest

/-- A unit as read: 0 where the bounds mode reads nothing (R215). -/
def readValue (s : State) (n : Nat) (j : Job) : UnitCheck → State × Nat
  | .go parts => engineRead s n j parts
  | _ => (s, 0)

/-- A unit converted between two formats of R215; a unit of a packed or block format is unchanged. -/
def convertUnit (src dst mode v : Nat) : Nat :=
  if src = dst then v
  else
    match fmtOfCode src, fmtOfCode dst with
    | some a, some b => (convertFmt a b mode false 0 v).1
    | _, _ => v

/-- A unit written, unless the bounds mode drops it. -/
def writeValue (s : State) (n : Nat) (j : Job) (data : List Byte) : UnitCheck → State × Option Nat
  | .go parts => engineWrite s n j data parts
  | _ => (s, none)

/-- Units of a CPY moved in order; the address beside the state when the spill area ran out. -/
def moveUnits (n : Nat) (j : Job) : List TileUnit → State → State × Option Nat
  | [], s => (s, none)
  | u :: us, s =>
    let a := recordOf j.src
    let b := recordOf j.dst
    let (s1, v) := readValue s n j (readUnit s n j a u.src)
    let x := convertUnit a.fmt b.fmt (f1Mode j.f1.toNat) v
    match writeValue s1 n j (bytesOf (unitBytes b.fmt) x) (writeUnit s1 n j b u.dst) with
    | (s2, some va) => (s2, some va)
    | (s2, none) => moveUnits n j us s2

/-! ## What a job's next step meets -/

/-- A ring job's next row may claim its slot: a free one for a producer, a filled one for CPYO, the jobs of one ring in
posting order (R217, R220). -/
def slotReady (c : Core) (j : Job) : Bool :=
  let r := c.regs.ring j.ring
  let turn := !(jobsBefore j.id c.jobs).any (fun e =>
    e.ring == j.ring && decide (e.doneRows < e.rows) &&
      (if j.kind = .cpyo then e.kind == .cpyo else e.kind == .cpyq || e.kind == .wset || e.kind == .wadv))
  decide (j.doneRows < j.rows) && turn && (if j.kind = .cpyo then decide (0 < r.filled) else decide (0 < r.free))

/-- The bytes that one slot of a ring carries for a job. -/
def Job.slotLength (j : Job) (r : Ring) : Nat := slotBytes r.fmt j.cols

/-- The check of the ring slot that a CPYO reads next, once it may claim it: an uncorrectable error (R212, R338). -/
def slotCheck (s : State) (n : Nat) (j : Job) : List UnitCheck :=
  let r := (getCore s n).regs.ring j.ring
  let off := r.slotOffset r.head
  if slotReady (getCore s n) j && isDamaged s (corePlace n off) (j.slotLength r) then
    [.fails .eccUncorr (spaceBase .core + off) (j.slotLength r)]
  else []

/-- What a job's next row reads and writes, with its checks. -/
def nextChecks (s : State) (n : Nat) (j : Job) : List UnitCheck :=
  if j.rows ≤ j.doneRows then []
  else
    match j.kind with
    | .cpy =>
      (copyRow j j.doneRows).flatMap (fun u =>
        [readUnit s n j (recordOf j.src) u.src, writeUnit s n j (recordOf j.dst) u.dst])
    | .cpyq | .wset | .wadv => (ringRowOffsets j j.doneRows).map (readUnit s n j (recordOf j.src))
    | .cpyo => slotCheck s n j ++ (ringRowOffsets j j.doneRows).map (writeUnit s n j (recordOf j.dst))
    | _ => []

/-- The collective that a job posted or joined. -/
def collOf (s : State) (n : Nat) (j : Job) : Option Coll :=
  match j.coll, getCtx s (slotOfCore s n) with
  | some (k, q), some c => c.colls.find? (fun x => x.k == k && x.seq == q)
  | _, _ => none

/-- The fault that a job meets next (R212, R225, R227). That of a collective is raised once it has been retired. A SEQ behind NEXTSEQ
fails with BOUNDS at the receive record's BASE, as R225 gives for a mismatch between ranks (DESIGN CHOICE: it names no address for
this one; log entry 70). An overlay that cannot be read fails at address 0 (DESIGN CHOICE: R227 gives none; log entry 93). -/
def jobFaultOf (s : State) (n : Nat) (j : Job) : Option (Cause × Nat) :=
  if j.phase ≠ .running then none
  else
    match j.kind with
    | .kpost =>
      let base := (recordOf j.dst).base
      match j.coll with
      | none => some (.bounds, base)
      | some _ =>
        match collOf s n j with
        | some c => if c.done then c.fault else none
        | none => none
    | .ovl =>
      match (getCore s n).task with
      | some t => if (codeOf (ctxOfCore s n) t.code).isNone then some (.eccUncorr, 0) else none
      | none => none
    | _ =>
      let us := nextChecks s n j
      if j.waits ≠ 0 ∨ us.any UnitCheck.waits then none else us.findSome? UnitCheck.fault

/-- The bytes of the unit that a job's next step faults at. -/
def faultSpan (s : State) (n : Nat) (j : Job) : Nat :=
  ((nextChecks s n j).findSome? (fun u => match u with
    | .fails _ _ size => some size
    | _ => none)).getD 1

/-- The next step of a copy or ring job may be made: its bytes are here and no line is prepared. -/
def jobReady (s : State) (n : Nat) (j : Job) : Bool :=
  j.phase == .running && j.waits == 0 && (jobFaultOf s n j).isNone && !(nextChecks s n j).any UnitCheck.waits

/-! ## JOB_START (R209) -/

/-- A load request of a job to the home of a remote page (R239). -/
def requestJobLoad (s : State) (n : Nat) (j : Job) (tgt node addr va size : Nat) : State :=
  let w := jobWho s n j
  let tag := s.link.nextTag
  let s1 := sendPacket s (inView s w (memPacket s w.ctx 0x02 4 (remoteNode tgt node) addr tag 0 (List.replicate size 0)))
  let s2 := openRequest s1 { tag := tag, kind := 0x02, ctx := w.ctx, core := n, id := 0, off := 0, size := size, signed := false,
                             launch := w.launch, job := some j.id, va := va, slot := 7, bundle := j.bundle, stamp := stampOf s w }
  modJob s2 n j.id (fun q => { q with waits := q.waits + 1 })

/-- Every remote part that a job will read is requested when it starts. -/
def requestSources (s : State) (n : Nat) (j : Job) : State :=
  let b := recordOf j.src
  let offs : List Int :=
    match j.kind with
    | .cpy => (upTo j.rows).flatMap (fun i => (copyRow j i).map (fun u => u.src))
    | .cpyq | .wset | .wadv => (upTo j.rows).flatMap (ringRowOffsets j)
    | _ => []
  offs.foldl (fun st o =>
    match readUnit s n j b o with
    | .go parts => parts.foldl (fun q p =>
        match p.acc with
        | .away tgt node addr => requestJobLoad q n j tgt node addr p.va p.len
        | _ => q) st
    | _ => st) s

/-- A collective may begin once its job has started (R209); its accesses follow what its core has done (R235). -/
def startColl (s : State) (n k : Nat) (key : Nat × Nat) : State :=
  modCtx (follows s .chorus (.engine n)) k (fun c => { c with colls := c.colls.map (fun q =>
    if q.k = key.1 ∧ q.seq = key.2 then { q with started := true } else q) })

/-- JOB_START (R209, R235). -/
def execJobStart (core job : Nat) (s : State) : Out :=
  let c := getCore s core
  .next (
    match findJob c job with
    | none => s
    | some j =>
      if jobMayStart s core j then
        let s1 := requestSources (modJob s core job (fun q => { q with phase := .running })) core j
        match j.coll with
        | some key => startColl s1 core (slotOfCore s core) key
        | none => s1
      else s)

/-! ## RING_SLOT_CLAIM (R216, R217) -/

/-- A producer's row: its units read, converted and packed from byte 0 of the slot, the rest 0; then the slot is filled. -/
def produceRow (s : State) (n : Nat) (j : Job) : State :=
  let c := getCore s n
  let r := c.regs.ring j.ring
  let b := recordOf j.src
  let off := r.slotOffset r.tail
  let step := unitBytes r.fmt
  let (s1, row, _) := (ringRowOffsets j j.doneRows).foldl (fun (acc : State × Nat × Nat) o =>
    let (st, v, i) := acc
    let (st1, x) := readValue st n j (readUnit st n j b o)
    (st1, v + convertUnit b.fmt r.fmt (f1Mode j.f1.toNat) x * 2 ^ (8 * step * i), i + 1)) (s, 0, 0)
  let (s2, _) := storeAt s1 (.engine n) (jobWho s1 n j) (spaceBase .core + off) (corePlace n off) (bytesOf r.slot row)
  modCore s2 n (fun k =>
    let q := k.regs.ring j.ring
    { k with regs := k.regs.setRing j.ring { q.claimFree with filled := q.filled + 1 } })

/-- A CPYO row: the oldest filled slot read, converted and written; then the slot is free. -/
def consumeRow (s : State) (n : Nat) (j : Job) : State × Option Nat :=
  let c := getCore s n
  let r := c.regs.ring j.ring
  let b := recordOf j.dst
  let p := corePlace n (r.slotOffset r.head)
  let step := unitBytes r.fmt
  let (s1, bytes) := readAt s (jobWho s n j) p r.slot
  let row := ofBytes bytes
  let s3 := loads s1 (.engine n) p r.slot
  let (s4, fail, _) := (ringRowOffsets j j.doneRows).foldl (fun (acc : State × Option Nat × Nat) o =>
    let (st, f, i) := acc
    if f.isSome then acc
    else
      let x := convertUnit r.fmt b.fmt (f1Mode j.f1.toNat) (field row (8 * step * i) (8 * step))
      let (st1, g) := writeValue st n j (bytesOf (unitBytes b.fmt) x) (writeUnit st n j b o)
      (st1, g, i + 1)) (s3, none, 0)
  (modCore s4 n (fun k =>
    let q := k.regs.ring j.ring
    { k with regs := k.regs.setRing j.ring { q.claimFilled with free := q.free + 1 } }), fail)

/-- RING_SLOT_CLAIM (R217): the next row of a ring job claims its slot and is moved. -/
def execRingSlotClaim (core job : Nat) (s : State) : Out :=
  let c := getCore s core
  .next (
    match findJob c job with
    | none => s
    | some j =>
      let ring : Bool := j.kind == .cpyq || j.kind == .cpyo || j.kind == .wset || j.kind == .wadv
      if !ring || !slotReady c j || !jobReady s core j then s
      else
        let (s1, fail) := if j.kind = .cpyo then consumeRow s core j else (produceRow s core j, none)
        let s2 := awaitedPulse (modJob s1 core job (fun q => { q with doneRows := q.doneRows + 1 })) (slotOfCore s core)
        match fail with
        | some va => stageTrap s2 core .shadowFull 0x80 j.bundle va
        | none => s2)

/-! ## JOB_COMPLETE (R208, R210) -/

/-- A flag word set full by an agent, as R187 gives SETF, with its waiters served (R210). -/
def setFlagWord (s : State) (a : Agent) (n : Nat) (f1 off : Nat) : State :=
  let p := localPlace n (spaceOfCode (f1Space f1)) off
  settle (setTag (stores s a p 4) p true)

/-- One arrival at a barrier by an agent, with its waiters served (R190, R210). -/
def arriveBarrier (s : State) (a : Agent) (k name : Nat) : State :=
  settle (modCtx (barTime s k name a true) k (fun c =>
    c.setBarrier name (let b := c.barrier name
                       ({ b with count := (b.count + 1) % 2 ^ 32 } : Barrier).complete)))

/-- A completion action, a release of its agent after its writes (R210, R226, R235): context k, the core n whose memory is meant. -/
def completionAction (s : State) (a : Agent) (n k f1 f2 : Nat) : State :=
  match f1Act f1 with
  | 1 => setFlagWord s a n f1 f2
  | 2 => arriveBarrier s a k f2
  | _ => s

/-- A job completes: its completion action, then it is gone, and what the core does next may follow it (R208, R235). The action of
a collective is the chorus's (R226). A KPOST that only joins one performs none of its own (DESIGN CHOICE: R226 gives one action per
collective and does not speak of a second; log entry 69). -/
def finishJob (s : State) (n : Nat) (j : Job) : State :=
  let act : Bool := j.kind == .cpy || j.kind == .cpyq || j.kind == .cpyo || j.kind == .wset
  let s1 := if act then completionAction s (.engine n) n (slotOfCore s n) j.f1.toNat j.f2.toNat else s
  let s2 := if j.kind = .kpost then follows s1 (.engine n) .chorus else s1
  settle (dropJob (follows s2 (.core n) (.engine n)) n j.id)

/-- Every write of a job has been made and acknowledged, nothing of it is still to come (R208, R225, R227), and the earlier jobs of
its window have completed (R220). -/
def jobDone (s : State) (n : Nat) (j : Job) : Bool :=
  j.phase == .running && j.acks == 0 && j.waits == 0 && !windowBefore (getCore s n) j &&
    (match j.kind with
     | .cpy | .cpyq | .cpyo | .wset | .wadv => decide (j.rows ≤ j.doneRows)
     | .ovl => j.regions.isEmpty
     | .kpost =>
       match collOf s n j with
       | some c => c.done && c.fault.isNone && c.acks == 0
       | none => j.coll.isSome)

/-- A CPY that has its bytes and meets no fault moves its next row. -/
def copyReady (s : State) (n : Nat) (j : Job) : Bool := j.kind == .cpy && decide (j.doneRows < j.rows) && jobReady s n j

/-- A job of a core completes if nothing of it is still to come. -/
def completeIfDone (s : State) (n id : Nat) : State :=
  match findJob (getCore s n) id with
  | some j => if jobDone s n j then finishJob s n j else s
  | none => s

/-- The next row of a CPY is moved, with its progress pulse (R208, R215). -/
def copyNextRow (s : State) (n : Nat) (j : Job) : State :=
  match moveUnits n j (copyRow j j.doneRows) s with
  | (s1, some va) => stageTrap s1 n .shadowFull 0x80 j.bundle va
  | (s1, none) => awaitedPulse (modJob s1 n j.id (fun q => { q with doneRows := q.doneRows + 1 })) (slotOfCore s n)

/-- JOB_COMPLETE (R208): a copy's next row is moved; once every row is, and all is acknowledged, the job completes. -/
def execJobComplete (core job : Nat) (s : State) : Out :=
  .next (
    match findJob (getCore s core) job with
    | none => s
    | some j => completeIfDone (if copyReady s core j then copyNextRow s core j else s) core job)

/-! ## JOB_FAULT (R212) -/

/-- The units of a CPY's row before the first one that fails. -/
def unitsBeforeFault (s : State) (n : Nat) (j : Job) : List TileUnit → List TileUnit
  | [] => []
  | u :: us =>
    if (readUnit s n j (recordOf j.src) u.src).fault.isSome || (writeUnit s n j (recordOf j.dst) u.dst).fault.isSome then []
    else u :: unitsBeforeFault s n j us

/-- The fault of a collective has been raised: it counts as completed for a KPOST that joins it (R225). -/
def clearFault (s : State) (k : Nat) (j : Job) : State :=
  match j.coll with
  | some key => modCtx s k (fun c => { c with colls := c.colls.map (fun q =>
      if q.k = key.1 ∧ q.seq = key.2 then { q with fault := none } else q) })
  | none => s

/-- JOB_FAULT (R212): the job stops where it is; the fault is a trap of the posting task with slot mask 0x80. -/
def execJobFault (core job : Nat) (s : State) : Out :=
  .next (
    match findJob (getCore s core) job with
    | none => s
    | some j =>
      match jobFaultOf s core j with
      | none => s
      | some (cause, addr) =>
        let s1 := if j.kind = .cpy then (moveUnits core j (unitsBeforeFault s core j (copyRow j j.doneRows)) s).1 else s
        let s2 := clearFault (modJob s1 core job (fun q => { q with phase := .faulted })) (slotOfCore s core) j
        stageTrap (if cause = .protect then reportWalk s2 (slotOfCore s core) addr (faultSpan s core j) else s2) core cause 0x80 j.bundle addr)

/-! ## OVL_REGION_WRITTEN (R227) -/

/-- OVL_REGION_WRITTEN: one region of the overlay is written, with its valid bit and tag. -/
def execOvlRegionWritten (core tag region : Nat) (s : State) : Out :=
  let c := getCore s core
  .next (
    match c.jobs.find? (fun j => j.tag == some tag && j.kind == .ovl), c.task with
    | some j, some t =>
      match codeOf (ctxOfCore s core) t.code with
      | some o =>
        if j.phase = .running ∧ j.regions.contains region then
          let s1 := modCore s core (fun k => k.loadRegion o j.image (region - j.first) region)
          awaitedPulse (modJob s1 core j.id (fun q => { q with regions := q.regions.filter (fun r => decide (r ≠ region)) }))
            (slotOfCore s core)
        else s
      | none => s
    | _, _ => s)

end Sys2Proof.Machine
end

