-- ==== Sys2Proof/Machine/Chorus.lean ====
section
/-!
DEFINITION. The chorus (R225, R226, R365 to R372): matching of collectives, the canonical tree, chunk steps on the lanes, staging
slots and their grants, and the completion of chunks and collectives. How the ranks match their posts and cut the traffic is
the model's own (log entry 19).
-/
namespace Sys2Proof.Machine

/-! ## Members (R365) -/

/-- Virtual rank and node of position i (Table 16.5). -/
def memberAt (s : State) (cm : Comm) (i : Nat) : Nat × Nat :=
  let e := rawNat s (cm.map + 4 * i) 4
  (e % 65536, e / 65536)

/-- The resident slot of a member on this package, if its node is this one. -/
def memberHere (s : State) (job : Nat) (cm : Comm) (i : Nat) : Option Nat :=
  let m := memberAt s cm i
  if m.2 = s.link.node then residentOf s job m.1 else none

/-- The position of a virtual rank in a communicator. -/
def positionOf (s : State) (cm : Comm) (rank : Nat) : Nat := ((upTo cm.size).find? (fun i => (memberAt s cm i).1 == rank)).getD 0

/-- The communicator of a collective. -/
def commOf (c : Ctx) (k : Nat) : Comm := spGet {} c.comms k

/-- A collective of a context by its name; one that is not done before one that is. -/
def findColl (c : Ctx) (k seq : Nat) : Option Coll := c.colls.find? (fun q => q.k == k && q.seq == seq)

/-- A function applied to a collective of a context. -/
def modColl (s : State) (n k seq : Nat) (f : Coll → Coll) : State :=
  modCtx s n (fun c => { c with colls := c.colls.map (fun q => if q.k = k ∧ q.seq = seq then f q else q) })

/-! ## The shape of a collective (R224, R226) -/

/-- Its parameters. -/
def Coll.params (q : Coll) : Params := paramsOf q.prm

/-- The bytes of the send record. -/
def Coll.sendLen (q : Coll) : Nat := (recordOf q.send).extent

/-- The bytes of the receive record. -/
def Coll.recvLen (q : Coll) : Nat := (recordOf q.recv).extent

/-- How many pieces of a size cover a length. -/
def pieces (len size : Nat) : Nat := (len + size - 1) / size

/-- The chunk size of a collective. -/
def Params.size (p : Params) : Nat := 2 ^ p.chunk

/-- The ordered form of a reduction (R224, R371). -/
def Coll.ordered (q : Coll) : Bool := q.params.reduces && q.params.ord

/-- An up phase that combines in any tree: a reduction of the unordered form, and a BARRIER, whose chunk is empty (R371, R421). -/
def Coll.anyTree (q : Coll) : Bool := q.params.kind == 0 || (q.params.reduces && !q.params.ord)

/-- The chunks of the vector that a reducing kind combines, numbered slice after slice for REDUCESCATTER; a BARRIER has one (R421). -/
def Coll.vectorChunks (q : Coll) (n : Nat) : Nat :=
  if q.params.kind = 0 then 1
  else if q.params.kind = 4 then n * pieces q.recvLen q.params.size else pieces q.sendLen q.params.size

/-- The offset and length of a vector chunk in a rank's send range. -/
def Coll.chunkBytes (q : Coll) (g : Nat) : Nat × Nat :=
  let z := q.params.size
  if q.params.kind = 0 then (0, 0)
  else if q.params.kind = 4 then
    let per := pieces q.recvLen z
    let o := g % per * z
    (g / per * q.recvLen + o, min z (q.recvLen - o))
  else (g * z, min z (q.sendLen - g * z))

/-- What the rank at `src` delivers for a chunk: receive offset, length and the offset in its send bytes; nothing for length 0
(Table 9.5). -/
def Coll.piece (q : Coll) (src g : Nat) : Nat × Nat × Nat :=
  let z := q.params.size
  match q.params.kind with
  | 0 => (0, 0, 0)
  | 1 => (g * z, min z (q.recvLen - g * z), g * z)
  | 4 => let o := g % pieces q.recvLen z * z
    (o, min z (q.recvLen - o), 0)
  | 5 =>
    let lo := max (src * q.sendLen) (g * z)
    let hi := min ((src + 1) * q.sendLen) ((g + 1) * z)
    (lo, hi - lo, lo - src * q.sendLen)
  | _ => (g * z, min z (q.sendLen - g * z), 0)

/-- The positions that receive a chunk of the result. -/
def Coll.targets (q : Coll) (n g : Nat) : List Nat :=
  match q.params.kind with
  | 2 => [q.params.root]
  | 4 => [g / pieces q.recvLen q.params.size]
  | _ => upTo n

/-- The lowest position on the package of a position: its leader, which stands for the package in the unordered form and in the down
phase. -/
def leaderOf (s : State) (cm : Comm) (i : Nat) : Nat :=
  ((upTo cm.size).find? (fun j => (memberAt s cm j).2 == (memberAt s cm i).2)).getD i

/-- A position is one of this node's. -/
def isHere (s : State) (cm : Comm) (i : Nat) : Bool := (memberAt s cm i).2 == s.link.node

/-- The position at which a chunk of a reduction, or of a BARRIER, is complete: position 0 in the ordered form, else the leader of a
package that needs it (which roots are used is not architectural, R366). -/
def Coll.homeOf (s : State) (cm : Comm) (q : Coll) (g : Nat) : Nat :=
  if q.ordered then 0 else leaderOf s cm ((q.targets cm.size g).headD 0)

/-- The chunks that the rank at a position delivers. -/
def Coll.deliverChunks (s : State) (cm : Comm) (q : Coll) : List Nat :=
  let p := q.params
  match p.kind with
  | 1 => if cm.pos = p.root then upTo (pieces q.recvLen p.size) else []
  | 5 => (upTo (pieces q.recvLen p.size)).filter (fun g => decide ((q.piece cm.pos g).2.1 ≠ 0))
  | _ => (upTo (q.vectorChunks cm.size)).filter (fun g => q.homeOf s cm g == cm.pos)

/-- The packages that a chunk goes to, each by the lowest position there that receives it. -/
def Coll.hops (s : State) (cm : Comm) (q : Coll) (g : Nat) : List Nat :=
  let ts := q.targets cm.size g
  ts.filter (fun t => ts.all (fun u => decide (t ≤ u) || (memberAt s cm u).2 != (memberAt s cm t).2))

/-- The deliver steps of a chunk: one for each other package, the first of which also writes the memories here, or one for these
alone. -/
def Coll.deliverSteps (s : State) (cm : Comm) (q : Coll) (g : Nat) : List Nat :=
  match (q.hops s cm g).filter (fun t => !isHere s cm t) with
  | [] => q.hops s cm g
  | ts => ts

/-- A deliver step writes the memories of this package. -/
def Coll.writesHere (s : State) (cm : Comm) (q : Coll) (g t : Nat) : Bool := (q.deliverSteps s cm g).head? == some t

/-- The positions here that receive a chunk. -/
def Coll.targetsHere (s : State) (cm : Comm) (q : Coll) (g : Nat) : List Nat := (q.targets cm.size g).filter (isHere s cm)

/-! ## The canonical tree (R370, R371) -/

/-- Op of R370 on two 32-bit elements (R224). -/
def collectOp (op fmt a b : Nat) : Nat :=
  match op with
  | 0 => reduceOp 0 4 a b
  | 1 => (addFp32 a b).1
  | 2 => if fmt = 0x08 then minFp32 a b else reduceOp (if fmt = 0x04 then 4 else 6) 4 a b
  | 3 => if fmt = 0x08 then maxFp32 a b else reduceOp (if fmt = 0x04 then 5 else 7) 4 a b
  | 4 => reduceOp 1 4 a b
  | 5 => reduceOp 2 4 a b
  | _ => reduceOp 3 4 a b

/-- Two lists of little-endian words combined element by element. -/
def combineBytes (op fmt : Nat) : Nat → List Byte → List Byte → List Byte
  | 0, _, _ => []
  | n + 1, a, b =>
    bytesOf 4 (collectOp op fmt (ofBytes (a.take 4)) (ofBytes (b.take 4))) ++ combineBytes op fmt n (a.drop 4) (b.drop 4)

/-- The levels of the canonical tree of n members. -/
def treeLevels (n : Nat) : Nat := ceilLog2 n

/-- The number of nodes at a level. -/
def nodesAt (n level : Nat) : Nat := pieces n (2 ^ level)

/-- The highest level whose node is formed at a position: position 0 forms the root. -/
def topLevel (n pos : Nat) : Nat :=
  if pos = 0 then treeLevels n else ((upTo 17).find? (fun j => decide (pos % 2 ^ (j + 1) ≠ 0))).getD 0

/-- The position at which a node is formed: that of its leftmost leaf. -/
def nodeHome (level index : Nat) : Nat := index * 2 ^ level

/-! ## Node values -/

/-- The bytes of a packet's payload (R361). -/
def packetBytes : Nat := 4096

/-- The key of block b of a node value. -/
def nodeKey (g level index b : Nat) : Nat := ((g * 17 + level) * 65536 + index) * 256 + b

/-- The blocks of a chunk: an empty one is one packet (R421). -/
def Coll.blocks (q : Coll) (g : Nat) : Nat := max 1 (pieces (q.chunkBytes g).2 packetBytes)

/-- Every block of a node value is here. -/
def Coll.hasNode (q : Coll) (g level index : Nat) : Bool :=
  (upTo (q.blocks g)).all (fun b => (spFind q.nodes (nodeKey g level index b)).isSome)

/-- A node value from its blocks. -/
def Coll.nodeValue (q : Coll) (g level index : Nat) : List Byte :=
  (upTo (q.blocks g)).flatMap (fun b => (spFind q.nodes (nodeKey g level index b)).getD [])

/-- A list cut into packets: offset and bytes. -/
def cutPackets : Nat → Nat → List Byte → List (Nat × List Byte)
  | 0, _, _ => []
  | n + 1, off, bs => if bs.isEmpty then [] else (off, bs.take packetBytes) :: cutPackets n (off + packetBytes) (bs.drop packetBytes)

/-- A list cut into as many packets as it needs. -/
def packetsOf (bs : List Byte) : List (Nat × List Byte) := cutPackets (pieces bs.length packetBytes) 0 bs

/-- A chunk cut into packets; an empty one is one packet. -/
def chunkPackets (bs : List Byte) : List (Nat × List Byte) := if bs.isEmpty then [(0, [])] else packetsOf bs

/-- A node value kept. -/
def Coll.setNode (q : Coll) (g level index : Nat) (bs : List Byte) : Coll :=
  { q with nodes := (chunkPackets bs).foldl (fun m e => spPut m (nodeKey g level index (e.1 / packetBytes)) e.2) q.nodes }

/-- A node value dropped. -/
def Coll.dropNode (q : Coll) (g level index : Nat) : Coll :=
  { q with nodes := spClear q.nodes (nodeKey g level index 0) (nodeKey g level index 0 + 256)
           counts := spClear q.counts (nodeKey g level index 0) (nodeKey g level index 0 + 256) }

/-- The contributions that a block of the unordered form combines (R372). -/
def Coll.weight (q : Coll) (g index b : Nat) : Nat := spGet 0 q.counts (nodeKey g 0 index b) + 1

/-! ## A rank's memory (R213, R369) -/

/-- The home of a byte of a rank's memory as its posting core reaches it; a saved context's core and cluster memory lie in its
save area under their logical numbers. -/
def rankPlace (c : Ctx) (logical : Nat) (sp : Space) (off : Nat) : Nat :=
  match sp with
  | .global => off
  | .chip => chipPlace off
  | .core => corePlace (if c.part.isEmpty then logical else physCore c.part logical) off
  | .cluster => clusterPlace (if c.part.isEmpty then logical / 16 else c.part.getD (logical / 16) 0) off

/-- A place of a rank's memory lies in its save area. -/
def rankSaved (c : Ctx) (p : Nat) : Bool := c.part.isEmpty && decide (2 ^ 41 ≤ p)

/-- Bytes of a saved context's memory. -/
def savedBytes (c : Ctx) (p n : Nat) : List Byte := (upTo n).map (fun i => spGet restByte c.imgMem (p + i))

/-- Bytes put into a saved context's memory. -/
def putSaved (c : Ctx) (p : Nat) (bs : List Byte) : Ctx :=
  { c with imgMem := ((upTo bs.length).zip bs).foldl (fun m e => spSet restByte m (p + e.1) e.2) c.imgMem }

/-- On whose behalf a collective accesses memory: its launch itself (R225). -/
def collWho (k : Nat) (q : Coll) : Who := ⟨k, q.launch, q.run, mergedSlot⟩

/-- The checks of an access of a collective, of class collective engine (R211, R145). -/
def collCheck (s : State) (k : Nat) (q : Coll) (b : Record) (va n : Nat) (read write : Bool) : Access :=
  let w := collWho k q
  let c := (getCtx s k).getD blankCtx
  match classify va with
  | none => .fails .protect
  | some (.global, _) => checkXlat s 256 w va n read write 2 b.region (xlatCtx s c va)
  | some (sp, off) =>
    let p := rankPlace c q.core sp off
    if spaceSize sp < off + n ∨ (sp = .chip ∧ !chipAllowed c off n) then .fails .protect
    else if read && isDamaged s p n then .fails .eccUncorr
    else .here p

/-- A range cut at 64 KiB: offset and length. -/
def cutPages (va : Nat) : Nat → Nat → Nat → List (Nat × Nat)
  | 0, _, _ => []
  | fuel + 1, off, len =>
    let n := min len (65536 - (va + off) % 65536)
    if len = 0 then [] else (off, n) :: cutPages va fuel (off + n) (len - n)

/-- A failing answer. -/
def Access.failing : Access → Bool
  | .fails _ => true
  | _ => false

/-- A part of a range with its check; where it fails, its address and answer are those of its first element that does
(R212). -/
def checkedPart (z va : Nat) (check : Nat → Nat → Access) (e : Nat × Nat) : UnitPart :=
  let whole : UnitPart := { off := e.1, len := e.2, va := va + e.1, acc := check (va + e.1) e.2 }
  if whole.acc.failing then
    match (upTo (e.2 / z)).find? (fun i => (check (va + e.1 + z * i) z).failing) with
    | some i => { whole with va := va + e.1 + z * i, acc := check (va + e.1 + z * i) z }
    | none => whole
  else whole

/-- The parts of a range of a record with their checks: offset, length, address and answer. -/
def rangeParts (s : State) (k : Nat) (q : Coll) (b : Record) (off len : Nat) (read write : Bool) : List UnitPart :=
  let va := spaceBase (spaceOfCode b.space) + b.base + off
  (cutPages va (len / 65536 + 2) 0 len).map
    (checkedPart (max 1 (unitAlign b.fmt)) va (fun a n => collCheck s k q b a n read write))

/-- The first fault of a list of parts. -/
def partsFault (ps : List UnitPart) : Option (Cause × Nat) :=
  ps.findSome? (fun q =>
    match q.acc with
    | .fails c => some (c, q.va)
    | _ => none)

/-- The bytes of a part of a rank's memory as its launch sees them. -/
def collReadPart (s : State) (k : Nat) (q : Coll) (u : UnitPart) : State × List Byte :=
  let c := (getCtx s k).getD blankCtx
  match u.acc with
  | .here p =>
    if rankSaved c p then (s, savedBytes c p u.len)
    else
      let (s1, bytes) := readAt s (collWho k q) p u.len
      (loads s1 .chorus p u.len, bytes)
  | _ => (s, (upTo u.len).map (fun i => spGet 0 q.data (u.va + i)))

/-- Bytes of a rank's send range. -/
def collRead (s : State) (k : Nat) (q : Coll) (off len : Nat) : State × List Byte :=
  (rangeParts s k q (recordOf q.send) off len true false).foldl (fun r u =>
    let (s1, bs) := collReadPart r.1 k q u
    (s1, r.2 ++ bs)) (s, [])

/-- Bytes counted into the barriers that cover them (R191). -/
def countBytes (s : State) (k p n : Nat) : State := (upTo n).foldl (fun st i => countByte st k (p + i) .chorus) s

/-- An aborted launch's writes to its transactional regions are dropped (R266). -/
def keptRuns (s : State) (w : Who) (va : Nat) (bytes : List Byte) : List (Nat × Nat × List Byte) :=
  let dead := ((getLaunch s w.ctx w.launch).map (fun l => l.ended)).getD true
  (cutKinds (fun i => byteKind s w (va + i)) 0 bytes).filter (fun r => !(dead && r.2.1 == 2))

/-- A packet of a remote write of a collective, acknowledged to it (R239, R260); core 256 marks the chorus as the sender. -/
def sendCollPacket (s : State) (k : Nat) (q : Coll) (node addr va kind : Nat) (bytes : List Byte) : State :=
  let w := collWho k q
  let tag := s.link.nextTag
  let plain := memPacket s k 0x01 5 node addr tag 0 bytes
  let s1 := sendPacket s (if kind = 2 then inView s w plain else plain)
  let s2 := openRequest s1 { tag := tag, kind := 0x01, ctx := k, core := 256, id := q.k, off := 0, size := bytes.length,
                             signed := false, launch := w.launch, job := none, va := va, slot := q.seq, bundle := q.bundle, stamp := 0 }
  let s3 := modLaunch s2 k w.launch (fun l =>
    { l with acks := l.acks + 1, peers := if kind = 2 then insertNat (peerKey node addr) l.peers else l.peers })
  modColl s3 k q.k q.seq (fun x => { x with acks := x.acks + 1 })

/-- A remote write of a collective, in packets (R239, R361). -/
def sendCollStore (s : State) (k : Nat) (q : Coll) (node addr va kind : Nat) (bytes : List Byte) : State :=
  (packetsOf bytes).foldl (fun st e => sendCollPacket st k q node (addr + e.1) (va + e.1) kind e.2) s

/-- The bytes of a part of a rank's memory written; the fault beside the state when the spill area ran out. -/
def collWritePart (s : State) (k : Nat) (q : Coll) (u : UnitPart) (bytes : List Byte) : State × Option (Cause × Nat) :=
  let c := (getCtx s k).getD blankCtx
  let w := collWho k q
  match u.acc with
  | .here p =>
    if rankSaved c p then (countBytes (setCtx s k (putSaved c p bytes)) k p bytes.length, none)
    else
      (keptRuns s w u.va bytes).foldl (fun r e =>
        if r.2.isSome then r
        else
          let (s1, f) := storeAt r.1 .chorus w (u.va + e.1) (p + e.1) e.2.2
          if f then (s1, some (.shadowFull, u.va + e.1)) else (settle (countBytes s1 k (p + e.1) e.2.2.length), none)) (s, none)
  | .away tgt node addr =>
    ((keptRuns s w u.va bytes).foldl (fun st e =>
      sendCollStore st k q (remoteNode tgt node) (addr + e.1) (u.va + e.1) e.2.1 e.2.2) s, none)
  | _ => (s, none)

/-- A collective meets a fault on its rank (R212, R225). -/
def failColl (s : State) (k : Nat) (q : Coll) (f : Cause × Nat) : State :=
  modColl s k q.k q.seq (fun x => if x.done ∨ x.fault.isSome then x else { x with fault := some f })

/-- Final bytes arrive in a rank's receive range (R226). -/
def collWrite (s : State) (k : Nat) (q : Coll) (off : Nat) (bytes : List Byte) : State :=
  if q.done ∨ q.fault.isSome then s
  else
  let ps := rangeParts s k q (recordOf q.recv) off bytes.length false true
  match partsFault ps with
  | some f => failColl s k q f
  | none =>
    let (s1, f) := ps.foldl (fun r u =>
      if r.2.isSome then r else collWritePart r.1 k q u ((bytes.drop u.off).take u.len)) (s, none)
    match f with
    | some x => failColl s1 k q x
    | none => modColl s1 k q.k q.seq (fun x => { x with got := x.got ++ [(off, off + bytes.length)] })

/-! ## Packets (Table 16.3) -/

/-- The ADDR of a chorus packet. -/
def chorusAddr (seq k level index chunk : Nat) : Nat :=
  seq * 2 ^ 48 + k * 2 ^ 44 + level % 16 * 2 ^ 40 + index % 2 ^ 16 * 2 ^ 24 + chunk % 2 ^ 24

/-- The chunk number that marks the packets by which ranks match their posts (log entry 19). -/
def matchChunk : Nat := 2 ^ 24 - 1

/-- A chorus packet from a rank of this package to the member at a position. -/
def chorusPacket (s : State) (c : Ctx) (cm : Comm) (pos kind vc addr tag : Nat) (payload : List Byte) : Packet :=
  let m := memberAt s cm pos
  { kind := kind, vc := vc, src := s.link.node, dst := m.2, job := c.job, rank := m.1, srank := c.rank, addr := addr, tag := tag
    launch := 0, stamp := 0, payload := payload }

/-! ## Matching (R225) -/

/-- What the ranks compare: kind, CHUNK, OP, ORD and FMT of a reducing kind, ROOT where it is read, and the size. -/
def Coll.description (q : Coll) : Nat :=
  let p := q.params
  let fmt := if p.reduces then (recordOf q.send).fmt else 0
  let len := if p.kind = 0 then 0 else if p.kind = 1 then q.recvLen else q.sendLen
  p.kind + 2 ^ 4 * p.chunk + (if p.reduces then 2 ^ 12 * p.op + 2 ^ 16 * ofBool p.ord else 0) + 2 ^ 17 * fmt + 2 ^ 24 * p.root +
    2 ^ 40 * len

/-- A job of a collective is on a core that runs the context, or in a save area (R212, R213). -/
def collPosted (s : State) (k : Nat) (c : Ctx) (q : Coll) : Bool :=
  let posts := fun (x : Core) => x.jobs.any (fun j => j.coll == some (q.k, q.seq))
  s.cores.any (fun e => e.2.ctx == some k && posts e.2) || (c.part.isEmpty && c.images.any (fun e => posts e.2))

/-- It is the turn of a collective: its SEQ is the next expected one of its communicator (R225, Table 16.5), and its job has
started or has left its core (R209). DEDUCED (log entry 25). -/
def collTurn (s : State) (k : Nat) (c : Ctx) (q : Coll) : Bool :=
  let cm := commOf c q.k
  q.draining || (!q.done && q.fault.isNone && (q.started || !collPosted s k c q) && q.seq == cm.nextSeq)

/-- A description reaches position 0: kept with its collective, or until its own rank posts it. -/
def noteDescription (s : State) (k kk seq pos text : Nat) : State :=
  modCtx s k (fun c => { c with notices := c.notices ++ [⟨kk, seq, pos, text⟩] })

/-- The descriptions that position 0 has of a collective. -/
def descriptionsOf (c : Ctx) (q : Coll) : List Notice := c.notices.filter (fun x => x.k == q.k && x.seq == q.seq)

/-- The verdict reaches a rank: it may go on, or faults with BOUNDS (R225). -/
def giveVerdict (s : State) (k kk seq : Nat) (alike : Bool) : State :=
  modColl s k kk seq (fun q =>
    if q.done then q else if alike then { q with go := true } else { q with fault := some (.bounds, (recordOf q.recv).base) })

/-- A rank sends its description to position 0. -/
def announceColl (s : State) (k : Nat) (c : Ctx) (q : Coll) : State :=
  let cm := commOf c q.k
  let s1 := modColl s k q.k q.seq (fun x => { x with sent := x.sent ++ [(0, .announce)] })
  match memberHere s c.job cm 0 with
  | some k0 => noteDescription s1 k0 q.k q.seq cm.pos q.description
  | none =>
    sendPacket s1 (chorusPacket s c cm 0 0x13 0 (chorusAddr q.seq q.k 0 0 matchChunk) 0 (bytesOf 16 q.description))

/-- Position 0 judges once it has every rank's description, and tells every rank. -/
def judgeColl (s : State) (k : Nat) (c : Ctx) (q : Coll) : State :=
  let cm := commOf c q.k
  let ds := descriptionsOf c q
  let alike := ds.all (fun d => d.text == q.description)
  let s1 := modCtx s k (fun x => { x with notices := x.notices.filter (fun n => !(n.k == q.k && n.seq == q.seq)) })
  (upTo cm.size).foldl (fun st i =>
    match memberHere st c.job cm i with
    | some t => giveVerdict st t q.k q.seq alike
    | none =>
      sendPacket st (chorusPacket st c cm i 0x14 0 (chorusAddr q.seq q.k 0 0 matchChunk) 0 [if alike then 0 else 1])) s1

/-! ## The steps of a rank -/

/-- The steps of a rank for a collective, chunk by chunk. In the unordered form the leader of a package makes the leaves of all its
ranks in one step, and sends what they combine to the chunk's home. -/
def ownSteps (s : State) (cm : Comm) (q : Coll) : List (Nat × StepKind) :=
  let pos := cm.pos
  let top := topLevel cm.size pos
  let gs := upTo (q.vectorChunks cm.size)
  let tree :=
    if q.ordered then
      gs.flatMap (fun g =>
        [(g, StepKind.leaf)] ++ (upTo top).map (fun j => (g, StepKind.combine (j + 1) (pos / 2 ^ (j + 1)))) ++
          (if pos = 0 then [] else [(g, StepKind.up top (pos / 2 ^ top))]))
    else if q.anyTree then
      gs.flatMap (fun g =>
        (g, StepKind.leaf) :: (if leaderOf s cm pos = pos ∧ !isHere s cm (q.homeOf s cm g) then [(g, StepKind.up 0 pos)] else []))
    else []
  tree ++ (q.deliverChunks s cm).flatMap (fun g => (q.deliverSteps s cm g).map (fun t => (g, StepKind.deliver t)))

/-- The contributions that the partials of block b of a chunk combine, its own and those that have arrived (R372). -/
def Coll.gathered (q : Coll) (n pos g b : Nat) : Nat :=
  (upTo n).foldl (fun a i => a + ((spFind q.staged (2 * nodeKey g 0 i b)).map (fun v => v.1 + 1)).getD 0)
    (if (spFind q.nodes (nodeKey g 0 pos b)).isSome then q.weight g pos b else 0)

/-- Everything that a reduced chunk is made of is at its home: in the ordered form its root, as the node named by the pair; in the
unordered form, under the home's position, as many contributions of every block as there are members. -/
def rootOf (q : Coll) (n pos g : Nat) : Option (Nat × Nat) :=
  if q.ordered then
    if q.hasNode g (treeLevels n) 0 then some (treeLevels n, 0) else none
  else if q.hasNode g 0 pos && (upTo (q.blocks g)).all (fun b => q.gathered n pos g b == n) then some (0, pos)
  else none

/-- A range of a rank's memory is not held by a prepared line. -/
def rangeFree (ps : List UnitPart) : Bool := !(UnitCheck.go ps).waits

/-- The receive range of the member at a position can take a piece now. -/
def targetFree (s : State) (t : Nat) (q : Coll) (off len : Nat) : Bool :=
  match (getCtx s t).bind (fun c => findColl c q.k q.seq) with
  | some x => rangeFree (rangeParts s t x (recordOf x.recv) off len false true)
  | none => false

/-- The key of a staged block of a phase. -/
def stagedKey (phase g level index b : Nat) : Nat := 2 * nodeKey g level index b + phase

/-- The staged blocks of a piece of a phase: number, contributions beyond one, and bytes. -/
def Coll.stagedOf (q : Coll) (phase g level index : Nat) : List (Nat × Nat × List Byte) :=
  (upTo 256).filterMap (fun b => (spFind q.staged (stagedKey phase g level index b)).map (fun v => (b, v)))

/-- The number of bytes of a list of blocks. -/
def blocksLength (bs : List (Nat × Nat × List Byte)) : Nat := bs.foldl (fun a e => a + e.2.2.length) 0

/-- What arrived whole in slots and a lane may receive: nodes of the ordered form, and pieces of final bytes (R366). Partials of the
unordered form stay in their slots until the chunk is complete. -/
def arrivedSteps (q : Coll) : List (Nat × StepKind) :=
  let names := q.staged.foldl (fun acc e => insertNat (e.1 / 2 / 256 * 2 + e.1 % 2) acc) []
  names.filterMap (fun x =>
    let phase := x % 2
    let g := x / 2 / 65536 / 17
    let level := x / 2 / 65536 % 17
    let index := x / 2 % 65536
    let want := if phase = 0 then (q.chunkBytes g).2 else (q.piece index g).2.1
    if (phase = 1 ∨ q.ordered) ∧ want ≤ blocksLength (q.stagedOf phase g level index) then some (g, .receive phase level index)
    else none)

/-- The collectives of the ranks here at some positions, by their contexts; none where one of them is not posted. -/
def collsHere (s : State) (job : Nat) (cm : Comm) (k seq : Nat) : List Nat → Option (List (Nat × Coll))
  | [] => some []
  | i :: is =>
    match (memberHere s job cm i).bind (fun h => ((getCtx s h).bind (fun c => findColl c k seq)).map (fun x => (h, x))) with
    | none => none
    | some e => (collsHere s job cm k seq is).map (fun es => e :: es)

/-- Every rank of this package may give its part of a chunk: each has posted the collective, and its bytes can be read. A BARRIER has no
bytes, and needs only the posts (R421). -/
def gatherReady (s : State) (c : Ctx) (q : Coll) (g : Nat) : Bool :=
  let cm := commOf c q.k
  match collsHere s c.job cm q.k q.seq ((upTo cm.size).filter (isHere s cm)) with
  | none => false
  | some es =>
    es.all (fun e =>
      let r := e.2.chunkBytes g
      ((getCtx s e.1).map (fun x => collTurn s e.1 x e.2)).getD false && e.2.description == q.description &&
        (q.params.kind == 0 || (e.2.go && e.2.fetched && e.2.waits == 0 &&
          rangeFree (rangeParts s e.1 e.2 (recordOf e.2.send) r.1 r.2 true false))))

/-- The positions here whose memories a piece in this rank's slot is for. -/
def Coll.heirs (s : State) (cm : Comm) (q : Coll) : List Nat :=
  if q.params.kind = 2 ∨ q.params.kind = 4 then [cm.pos] else (upTo cm.size).filter (isHere s cm)

/-- The receive ranges of the members here at some positions can take a piece now. -/
def targetsFree (s : State) (c : Ctx) (q : Coll) (ts : List Nat) (off len : Nat) : Bool :=
  ts.all (fun t =>
    match memberHere s c.job (commOf c q.k) t with
    | some h => targetFree s h q off len
    | none => true)

/-- The inputs of a step are here (R366). -/
def stepReady (s : State) (k : Nat) (c : Ctx) (q : Coll) (e : Nat × StepKind) : Bool :=
  let cm := commOf c q.k
  let n := cm.size
  let g := e.1
  match e.2 with
  | .announce => false
  | .leaf =>
    if q.anyTree then gatherReady s c q g
    else
      let r := q.chunkBytes g
      q.waits == 0 && rangeFree (rangeParts s k q (recordOf q.send) r.1 r.2 true false)
  | .combine j i =>
    q.hasNode g (j - 1) (2 * i) && (decide (nodesAt n (j - 1) ≤ 2 * i + 1) || q.hasNode g (j - 1) (2 * i + 1))
  | .receive phase _ index => phase == 0 || targetsFree s c q (q.heirs s cm) (q.piece index g).1 (q.piece index g).2.1
  | .up j i => q.hasNode g j i
  | .deliver t =>
    let r := q.piece cm.pos g
    (if q.ordered || q.anyTree then (rootOf q n cm.pos g).isSome
     else q.waits == 0 && rangeFree (rangeParts s k q (recordOf q.send) r.2.2 r.2.1 true false)) &&
      (!q.writesHere s cm g t || targetsFree s c q (q.targetsHere s cm g) r.1 r.2.1)

/-- The position that a step sends to, if it sends anything: in the ordered form the one that forms the node's parent. -/
def stepTarget (s : State) (cm : Comm) (q : Coll) (e : Nat × StepKind) : Option Nat :=
  match e.2 with
  | .up j i => some (if q.ordered then nodeHome (j + 1) (i / 2) else q.homeOf s cm e.1)
  | .deliver t => some t
  | _ => none

/-- A step needs a grant: it sends to another package (R367). -/
def needsGrant (s : State) (c : Ctx) (q : Coll) (e : Nat × StepKind) : Bool :=
  match stepTarget s (commOf c q.k) q e with
  | some t => (memberHere s c.job (commOf c q.k) t).isNone
  | none => false

/-- The step is one of this collective's. -/
def ChunkStep.isOf (x : ChunkStep) (k : Nat) (q : Coll) : Bool := x.ctx == k && x.k == q.k && x.seq == q.seq

/-- A step is made, granted or asked for already. -/
def stepKnown (s : State) (k : Nat) (q : Coll) (e : Nat × StepKind) : Bool :=
  q.sent.contains e || (s.chorus.steps ++ s.chorus.asking).any (fun x => x.isOf k q && x.chunk == e.1 && x.kind == e.2)

/-- A step's grant may be asked for before its inputs are here: an up step of the unordered form, whose inputs wait for no other
package (R367). -/
def asksEarly (q : Coll) (e : Nat × StepKind) : Bool :=
  q.anyTree && (match e.2 with
    | .up _ _ => true
    | _ => false)

/-- A step that another rank of the package makes: a leaf of the unordered form, unless this rank leads. -/
def ledByOther (s : State) (cm : Comm) (q : Coll) (e : Nat × StepKind) : Bool :=
  q.anyTree && e.2 == .leaf && leaderOf s cm cm.pos != cm.pos

/-- The next steps of a collective whose inputs are here, or that ask for their grant. -/
def readySteps (s : State) (k : Nat) (c : Ctx) (q : Coll) : List (Nat × StepKind) :=
  let cm := commOf c q.k
  (ownSteps s cm q ++ arrivedSteps q).filter (fun e =>
    !stepKnown s k q e && !ledByOther s cm q e && (asksEarly q e || stepReady s k c q e))

/-- The pool of a class and phase (R366): phase 0 up, 1 down. -/
def poolOf (cls phase : Nat) : Nat := 4 * phase + cls

/-- The phase of a step. -/
def StepKind.phase : StepKind → Nat
  | .deliver _ => 1
  | .receive phase _ _ => phase
  | _ => 0

/-- The level and index that name a step's node. -/
def StepKind.node : StepKind → Nat × Nat
  | .up j i => (j, i)
  | .deliver t => (0, t)
  | .receive _ j i => (j, i)
  | _ => (0, 0)

/-- A step becomes a granted step of the lanes, or asks its next hop for a slot (R367). -/
def enterStep (k : Nat) (c : Ctx) (q : Coll) (s : State) (e : Nat × StepKind) : State :=
  let cm := commOf c q.k
  let x : ChunkStep := { ctx := k, k := q.k, seq := q.seq, chunk := e.1, kind := e.2, cls := cm.cls, waited := 0, since := s.clock }
  if needsGrant s c q e then
    let nd := e.2.node
    sendPacket { s with chorus := { s.chorus with asking := s.chorus.asking ++ [x] } }
      (chorusPacket s c cm ((stepTarget s cm q e).getD 0) 0x13 0 (chorusAddr q.seq q.k nd.1 nd.2 e.1) 0 (bytesOf 1 e.2.phase))
  else { s with chorus := { s.chorus with steps := s.chorus.steps ++ [x] } }

/-- A load request of the chorus for a part of a send range on a remote page (R239). -/
def requestCollLoad (s : State) (k : Nat) (q : Coll) (tgt node addr va size : Nat) : State :=
  let tag := s.link.nextTag
  let plain := memPacket s k 0x02 4 (remoteNode tgt node) addr tag 0 (List.replicate size 0)
  let s1 := sendPacket s (inView s (collWho k q) plain)
  let s2 := openRequest s1 { tag := tag, kind := 0x02, ctx := k, core := 256, id := q.k, off := 0, size := size, signed := false,
                             launch := q.launch, job := none, va := va, slot := q.seq, bundle := q.bundle, stamp := 0 }
  modColl s2 k q.k q.seq (fun x => { x with waits := x.waits + 1 })

/-- The length that a rank reads of its send range. -/
def readLen (q : Coll) (pos : Nat) : Nat := if usesSend q.params pos then q.sendLen else 0

/-- The remote parts of a send range are asked for, and a faulting part faults the collective. -/
def fetchColl (s : State) (k : Nat) (c : Ctx) (q : Coll) : State :=
  let s1 := modColl s k q.k q.seq (fun x => { x with fetched := true })
  let ps := rangeParts s k q (recordOf q.send) 0 (readLen q (commOf c q.k).pos) true false
  match partsFault ps with
  | some f => failColl s1 k q f
  | none => ps.foldl (fun st u =>
      match u.acc with
      | .away tgt node addr =>
        (cutPackets (u.len / packetBytes + 1) 0 (List.replicate u.len 0)).foldl (fun r e =>
          requestCollLoad r k q tgt node (addr + e.1) (u.va + e.1) e.2.length) st
      | _ => st) s1

/-- What the chorus does next for one collective: announce, judge, fetch, or enter steps; none where there is nothing. -/
def planColl (s : State) (k : Nat) (q : Coll) : Option State :=
  match getCtx s k with
  | none => none
  | some c =>
    let cm := commOf c q.k
    if !collTurn s k c q then none
    else if !q.sent.contains (0, .announce) then some (announceColl s k c q)
    else if !q.go then
      if cm.pos = 0 ∧ (descriptionsOf c q).length = cm.size then some (judgeColl s k c q)
      else
        match (if q.params.kind = 0 then (readySteps s k c q).filter (fun e => e.2 == .leaf) else []) with
        | [] => none
        | es => some (es.foldl (enterStep k c q) s)
    else if !q.fetched then some (fetchColl s k c q)
    else
      match readySteps s k c q with
      | [] => none
      | es => some (es.foldl (enterStep k c q) s)

/-- The collectives of all contexts. -/
def allColls (s : State) : List (Nat × Coll) := s.ctxs.flatMap (fun e => e.2.colls.map (fun q => (e.1, q)))

/-- The first thing that the chorus can plan. -/
def planNext (s : State) : Option State := (allColls s).findSome? (fun e => planColl s e.1 e.2)

/-- Everything that can be planned is planned. -/
def planFuel : Nat → State → State
  | 0, s => s
  | n + 1, s =>
    match planNext s with
    | some s1 => planFuel n s1
    | none => s

/-! ## Making a step (R366 to R368) -/

/-- The staging slots of a node value become free again in a pool (R367). -/
def releaseStaging (s : State) (k : Nat) (q : Coll) (g level index : Nat) (cls phase : Nat) : State :=
  let key := nodeKey g level index 0
  let held := spGet 0 q.slots key
  let pool := poolOf cls phase
  let s1 := modColl s k q.k q.seq (fun x => { x with slots := spSet 0 x.slots key 0 })
  { s1 with chorus := { s1.chorus with used := spSet 0 s1.chorus.used pool (spGet 0 s1.chorus.used pool - held) } }

/-- A node value moves to the rank that forms its parent, in the co-resident region or by packets under a grant (R371). An
unordered packet says in INDEX how many contributions beyond its own it combines (R372; log entry 19). -/
def sendUp (s : State) (k : Nat) (c : Ctx) (q : Coll) (g level index : Nat) : State :=
  let cm := commOf c q.k
  let t := (stepTarget s cm q (g, .up level index)).getD 0
  let v := q.nodeValue g level index
  let s1 :=
    match memberHere s c.job cm t with
    | some h => modColl s h q.k q.seq (fun x => x.setNode g level index v)
    | none =>
      let ps := chunkPackets v
      let s2 := ps.foldl (fun st e =>
        sendPacket st (chorusPacket st c cm t (if q.ordered then 0x10 else 0x11) (8 + 2 * cm.cls)
          (chorusAddr q.seq q.k level (if q.ordered then index else q.weight g index 0 - 1) g) e.1 e.2)) s
      modColl s2 k q.k q.seq (fun x => { x with acks := x.acks + ps.length })
  modColl (releaseStaging s1 k q g level index cm.cls 0) k q.k q.seq (fun x => x.dropNode g level index)

/-- The final bytes that a rank delivers for a chunk. -/
def finalBytes (s : State) (k : Nat) (c : Ctx) (q : Coll) (g : Nat) : State × List Byte :=
  let cm := commOf c q.k
  let r := q.piece cm.pos g
  if q.ordered || q.anyTree then
    match rootOf q cm.size cm.pos g with
    | some (j, i) => (s, q.nodeValue g j i)
    | none => (s, [])
  else collRead s k q r.2.2 r.2.1

/-- Final bytes written into the memories of the members here at some positions. -/
def writeMembers (s : State) (c : Ctx) (q : Coll) (ts : List Nat) (off : Nat) (v : List Byte) : State :=
  ts.foldl (fun st t =>
    match (memberHere st c.job (commOf c q.k) t).bind (fun h =>
        ((getCtx st h).bind (fun x => findColl x q.k q.seq)).map (fun x => (h, x))) with
    | some (h, x) => collWrite st h x off v
    | none => st) s

/-- Final bytes of a chunk go to the package of a position, by packets under a grant, and by the first such step into the memories here
(R366, R423). -/
def deliverTo (s : State) (k : Nat) (c : Ctx) (q : Coll) (g t : Nat) : State :=
  let cm := commOf c q.k
  let off := (q.piece cm.pos g).1
  let (s0, v) := finalBytes s k c q g
  let s1 := if q.writesHere s cm g t then writeMembers s0 c q (q.targetsHere s cm g) off v else s0
  if isHere s cm t then s1
  else
    let z := q.params.size
    let ps := chunkPackets v
    let s2 := ps.foldl (fun st e =>
      sendPacket st (chorusPacket st c cm t 0x12 (9 + 2 * cm.cls) (chorusAddr q.seq q.k 0 cm.pos (off / z)) (off % z + e.1) e.2)) s1
    modColl s2 k q.k q.seq (fun x => { x with acks := x.acks + ps.length })

/-- A leaf: the rank's own bytes of a chunk as its launch sees them. -/
def readLeaf (s : State) (k : Nat) (c : Ctx) (q : Coll) (g : Nat) : State :=
  let r := q.chunkBytes g
  match partsFault (rangeParts s k q (recordOf q.send) r.1 r.2 true false) with
  | some f => failColl s k q f
  | none =>
    let (s1, v) := collRead s k q r.1 r.2
    modColl s1 k q.k q.seq (fun x => x.setNode g 0 (commOf c q.k).pos v)

/-- Two node values of a collective combined, left first, into a node; their staging slots stay with the result. -/
def combineNodes (q : Coll) (g : Nat) (a b into : Nat × Nat) : Coll :=
  let n := (q.chunkBytes g).2 / 4
  let v := combineBytes q.params.op (recordOf q.send).fmt n (q.nodeValue g a.1 a.2) (q.nodeValue g b.1 b.2)
  let key := fun (x : Nat × Nat) => nodeKey g x.1 x.2 0
  let held := spGet 0 q.slots (key a) + spGet 0 q.slots (key b)
  let q1 := ((q.dropNode g a.1 a.2).dropNode g b.1 b.2).setNode g into.1 into.2 v
  { q1 with slots := spSet 0 (spSet 0 (spSet 0 q1.slots (key a) 0) (key b) 0) (key into) held }

/-- Values combined two at a time, in an order that is a free choice (R224, R371); n is their number. -/
def combineAny (op fmt : Nat) : Nat → Nat → List (List Byte) → List Byte
  | 0, _, xs => xs.headD []
  | n + 1, f, xs =>
    if xs.length < 2 then xs.headD []
    else
      let i := Config.combinePick f % xs.length
      let a := xs.getD i []
      let rest := xs.eraseIdx i
      let j := Config.combinePick (f + 1) % rest.length
      combineAny op fmt n (f + 2) (combineBytes op fmt (a.length / 4) a (rest.getD j []) :: rest.eraseIdx j)

/-- A leaf of the unordered form: the bytes of a chunk of every rank of the package as its launch sees them, combined (R371). A rank whose
bytes cannot be read faults, and nothing is formed. -/
def gatherLeaf (s : State) (k : Nat) (c : Ctx) (q : Coll) (g : Nat) : State :=
  let cm := commOf c q.k
  let es := (collsHere s c.job cm q.k q.seq ((upTo cm.size).filter (isHere s cm))).getD []
  let bad := es.filterMap (fun e =>
    let r := e.2.chunkBytes g
    (partsFault (rangeParts s e.1 e.2 (recordOf e.2.send) r.1 r.2 true false)).map (fun f => (e, f)))
  let s1 := es.foldl (fun st e =>
    modColl st e.1 q.k q.seq (fun x => { x with sent := if x.sent.contains (g, .leaf) then x.sent else x.sent ++ [(g, .leaf)] })) s
  if !bad.isEmpty then bad.foldl (fun st e => failColl st e.1.1 e.1.2 e.2) s1
  else
    let (s2, vs) := es.foldl (fun (r : State × List (List Byte)) e =>
      let (st, v) := collRead r.1 e.1 e.2 (e.2.chunkBytes g).1 (e.2.chunkBytes g).2
      (st, r.2 ++ [v])) (s1, [])
    let v := combineAny q.params.op (recordOf q.send).fmt es.length s2.fresh vs
    modColl { s2 with fresh := s2.fresh + 2 * es.length } k q.k q.seq (fun x =>
      let y := x.setNode g 0 cm.pos v
      { y with counts := (upTo (q.blocks g)).foldl (fun m b => spSet 0 m (nodeKey g 0 cm.pos b) (es.length - 1)) y.counts })

/-- The partials of a chunk of the unordered form that are at its home are combined, block by block (R224, R372). -/
def combineRoot (s : State) (k : Nat) (q : Coll) (n pos g : Nat) : State :=
  let held := fun (b : Nat) => (upTo n).filterMap (fun i => spFind q.staged (2 * nodeKey g 0 i b))
  if (upTo (q.blocks g)).all (fun b => (held b).isEmpty) then s
  else
    let one := fun (x : Coll) (b : Nat) =>
      let key := nodeKey g 0 pos b
      let vs := (spFind q.nodes key).getD [] :: (held b).map (fun v => v.2)
      { x with
        nodes := spPut x.nodes key (combineAny q.params.op (recordOf q.send).fmt vs.length (s.fresh + 2 * (n + 1) * b) vs)
        counts := spSet 0 x.counts key (n - 1), staged := (upTo n).foldl (fun m i => spErase m (2 * nodeKey g 0 i b)) x.staged }
    modColl { s with fresh := s.fresh + 2 * (n + 1) * q.blocks g } k q.k q.seq (fun x => (upTo (q.blocks g)).foldl one x)

/-- The staged blocks of a piece have left the staging area. -/
def Coll.unstage (q : Coll) (phase g level index : Nat) (bs : List (Nat × Nat × List Byte)) : Coll :=
  { q with staged := bs.foldl (fun m e => spErase m (stagedKey phase g level index e.1)) q.staged }

/-- A down-phase slot of a class is free again (R367). -/
def freeDownSlot (s : State) (cls : Nat) : State :=
  let pool := poolOf cls 1
  { s with chorus := { s.chorus with used := spSet 0 s.chorus.used pool (spGet 0 s.chorus.used pool - 1) } }

/-- A lane receives what has arrived (R366): blocks of a node, or final bytes, which it writes into the memories of this package's ranks;
an empty chunk had no slot (R421). -/
def receiveStep (s : State) (k : Nat) (c : Ctx) (q : Coll) (g phase level index : Nat) : State :=
  let bs := q.stagedOf phase g level index
  let q1 := q.unstage phase g level index bs
  let s1 := modColl s k q.k q.seq (fun _ => q1)
  if phase = 0 then
    modColl s1 k q.k q.seq (fun x => bs.foldl (fun y e =>
      { y with nodes := spPut y.nodes (nodeKey g level index e.1) e.2.2, counts := spSet 0 y.counts (nodeKey g level index e.1) e.2.1 }) x)
  else
    let s2 := writeMembers s1 c q1 (q.heirs s (commOf c q.k)) (q.piece index g).1 (bs.flatMap (fun e => e.2.2))
    if q.params.kind = 0 then s2 else freeDownSlot s2 (commOf c q.k).cls

/-- A carried node moves up unchanged (R370). -/
def carryNode (q : Coll) (g : Nat) (a into : Nat × Nat) : Coll :=
  let held := spGet 0 q.slots (nodeKey g a.1 a.2 0)
  let q1 := (q.dropNode g a.1 a.2).setNode g into.1 into.2 (q.nodeValue g a.1 a.2)
  { q1 with slots := spSet 0 (spSet 0 q1.slots (nodeKey g a.1 a.2 0) 0) (nodeKey g into.1 into.2 0) held }

/-- Once a reduced chunk has gone to every target the staging slots that it took are free. -/
def rootConsumed (s : State) (k : Nat) (c : Ctx) (q : Coll) (g : Nat) : State :=
  let cm := commOf c q.k
  if (q.deliverSteps s cm g).any (fun t => !q.sent.contains (g, .deliver t)) then s
  else
    let mine := fun (e : Nat × Nat) => e.1 / (17 * 65536 * 256) == g
    let held := (q.slots.filter mine).foldl (fun a e => a + e.2) 0
    let pool := poolOf cm.cls 0
    let s1 := modColl s k q.k q.seq (fun x => { x with slots := x.slots.filter (fun e => !mine e) })
    { s1 with chorus := { s1.chorus with used := spSet 0 s1.chorus.used pool (spGet 0 s1.chorus.used pool - held) } }

/-- A reduced chunk is complete at its home, and its final bytes go out (R366). -/
def deliverStep (s : State) (k : Nat) (c : Ctx) (q : Coll) (g t : Nat) : State :=
  let cm := commOf c q.k
  let s1 := if q.anyTree then combineRoot s k q cm.size cm.pos g else s
  let q1 := (((getCtx s1 k).bind (fun x => findColl x q.k q.seq))).getD q
  rootConsumed (deliverTo s1 k c q1 g t) k c q1 g

/-- One chunk step is made by a lane. -/
def makeStep (s : State) (x : ChunkStep) : State :=
  match getCtx s x.ctx with
  | none => s
  | some c =>
    match findColl c x.k x.seq with
    | none => s
    | some q =>
      if (q.done ∧ !q.draining) ∨ q.fault.isSome then s
      else
        let q1 := { q with sent := q.sent ++ [(x.chunk, x.kind)] }
        let s1 := modColl s x.ctx x.k x.seq (fun _ => q1)
        let g := x.chunk
        match x.kind with
        | .announce => s1
        | .leaf => if q.anyTree then gatherLeaf s1 x.ctx c q1 g else readLeaf s1 x.ctx c q1 g
        | .combine j i =>
          let q2 := if nodesAt (commOf c q.k).size (j - 1) ≤ 2 * i + 1 then carryNode q1 g (j - 1, 2 * i) (j, i)
            else combineNodes q1 g (j - 1, 2 * i) (j - 1, 2 * i + 1) (j, i)
          modColl s1 x.ctx x.k x.seq (fun _ => q2)
        | .receive phase j i => receiveStep s1 x.ctx c q1 g phase j i
        | .up j i => sendUp s1 x.ctx c q1 g j i
        | .deliver t => deliverStep s1 x.ctx c q1 g t

/-- One step goes before another of its class: the older grant, then the lower communicator, SEQ and chunk (R368, R421). -/
def ChunkStep.before (x y : ChunkStep) : Bool :=
  decide (x.since < y.since) || (x.since == y.since && (decide (x.k < y.k) || (x.k == y.k && (decide (x.seq < y.seq) ||
    (x.seq == y.seq && decide (x.chunk < y.chunk))))))

/-- The step of a list that goes first. -/
def firstStep (before : ChunkStep → ChunkStep → Bool) (xs : List ChunkStep) : Option ChunkStep :=
  xs.foldl (fun best x =>
    match best with
    | none => some x
    | some b => if before x b then some x else some b) none

/-- The step that a lane takes of those that are ready (R368): one that has waited through 16 boundaries, else the highest class. -/
def takeStep (xs : List ChunkStep) : Option ChunkStep :=
  match firstStep ChunkStep.before (xs.filter (fun x => decide (16 ≤ x.waited))) with
  | some x => some x
  | none => firstStep (fun x y => decide (y.cls < x.cls) || (x.cls == y.cls && x.before y)) xs

/-- A granted step can be made now: its inputs are here, and none of the memory that it reads or writes is held by a prepared line
(R263, R421). One whose collective has ended is taken off. -/
def stepCan (s : State) (x : ChunkStep) : Bool :=
  match getCtx s x.ctx with
  | none => true
  | some c =>
    match findColl c x.k x.seq with
    | none => true
    | some q => (q.done && !q.draining) || (q.fault.isNone && stepReady s x.ctx c q (x.chunk, x.kind))

/-- LANE_BOUNDARY (R368): what can be planned is planned, and the lane takes and makes the next granted step. -/
def execLaneBoundary (lane : Nat) (s : State) : Out :=
  let s1 := planFuel (4 * (allColls s).length + 4) s
  .next (
    if 8 ≤ lane then s
    else
      match takeStep (s1.chorus.steps.filter (stepCan s1)) with
      | none => s1
      | some x =>
        let rest := (s1.chorus.steps.filter (fun y => decide (y ≠ x))).map (fun y =>
          if stepCan s1 y then { y with waited := y.waited + 1 } else y)
        makeStep { s1 with chorus := { s1.chorus with steps := rest } } x)

/-- A lane has something to do. -/
def laneWork (s : State) : Bool := s.chorus.steps.any (stepCan s) || (planNext s).isSome

/-! ## Grants (R367) -/

/-- A request that its own rank has posted. -/
def requestPosted (s : State) (r : SlotRequest) : Bool :=
  match getCtx s r.ctx with
  | some c => (findColl c r.k r.seq).isSome
  | none => false

/-- The keys of the nodes of a chunk that this hop's own step combines and receives from other packages: in the unordered form one for
each of them (R367, R370). -/
def childKeys (s : State) (c : Ctx) (q : Coll) (g : Nat) : List Nat :=
  let cm := commOf c q.k
  if q.anyTree then
    ((upTo cm.size).filter (fun i => leaderOf s cm i == i && !isHere s cm i)).map (fun i => nodeKey g 0 i 0)
  else (upTo (topLevel cm.size cm.pos)).filterMap (fun j =>
    let i := cm.pos / 2 ^ j + 1
    if nodeHome j i < cm.size ∧ (memberHere s c.job cm (nodeHome j i)).isNone then some (nodeKey g j i 0) else none)

/-- The slots that the grant of a request takes, by the node that each is for: all that the hop's own step for the chunk needs, so
that the children of a combining node have theirs together; none where an earlier grant took it, and none for a BARRIER (R367, R421). -/
def slotsFor (s : State) (r : SlotRequest) (phase : Nat) : List Nat :=
  let key := nodeKey r.chunk r.level r.index 0
  match getCtx s r.ctx with
  | none => [key]
  | some c =>
    match findColl c r.k r.seq with
    | none => [key]
    | some q =>
      if q.params.kind = 0 then []
      else if phase = 1 then [key]
      else if spGet 0 q.slots key ≠ 0 then []
      else insertNat key ((childKeys s c q r.chunk).filter (fun x => spGet 0 q.slots x == 0 && !q.nodes.any (fun e => e.1 / 256 == x / 256) &&
        !q.staged.any (fun e => e.1 % 2 == 0 && e.1 / 2 / 256 == x / 256)))

/-- The request of a pool that is granted next: one whose slot is held for it, else the oldest that its rank has posted, once its
slots are free (R367). -/
def nextGrant (s : State) (pool : Nat) : Option SlotRequest :=
  let rs := (spGet [] s.chorus.requests pool).filter (requestPosted s)
  match rs.find? (fun r => (slotsFor s r (pool / 4)).isEmpty), rs with
  | some r, _ => some r
  | none, r :: _ => if spGet 0 s.chorus.used pool + (slotsFor s r (pool / 4)).length ≤ 32 then some r else none
  | none, [] => none

/-- HOP_GRANT (R367): a request of a pool whose rank has posted the collective gets its slot. -/
def execHopGrant (cls phase : Nat) (s : State) : Out :=
  let pool := poolOf cls phase
  .next (
    match nextGrant s pool with
    | none => s
    | some r =>
      let rest := (spGet [] s.chorus.requests pool).erase r
      let keys := slotsFor s r phase
      let s1 := { s with chorus := { s.chorus with
        requests := spSet [] s.chorus.requests pool rest, used := spSet 0 s.chorus.used pool (spGet 0 s.chorus.used pool + keys.length) } }
      match getCtx s1 r.ctx with
      | none => s1
      | some c =>
        let s2 := if phase = 0 then
            modColl s1 r.ctx r.k r.seq (fun q => { q with slots := keys.foldl (fun m x => spSet 0 m x 1) q.slots })
          else s1
        sendPacket s2 { kind := 0x14, vc := 0, src := s2.link.node, dst := r.node, job := c.job, rank := r.rank, srank := c.rank
                        addr := chorusAddr r.seq r.k r.level r.index r.chunk, tag := 0, launch := 0, stamp := 0, payload := bytesOf 1 phase })

/-- A request enters its pool: in arrival order, and those of one cycle by resident slot and communicator (R367). -/
def enterRequest (r : SlotRequest) : List SlotRequest → List SlotRequest
  | [] => [r]
  | q :: qs =>
    if q.since = r.since ∧ (r.ctx < q.ctx ∨ (r.ctx = q.ctx ∧ r.k < q.k)) then r :: q :: qs else q :: enterRequest r qs

/-! ## CHUNK_COMPLETE and COLLECTIVE_COMPLETE (R225, R226) -/

/-- All bytes of [lo, hi) hold their final values. -/
def coveredFuel (got : List (Nat × Nat)) : Nat → Nat → Nat → Bool
  | 0, lo, hi => decide (hi ≤ lo)
  | n + 1, lo, hi =>
    if hi ≤ lo then true
    else
      match got.find? (fun r => decide (r.1 ≤ lo) && decide (lo < r.2)) with
      | some r => coveredFuel got n r.2 hi
      | none => false

/-- Chunk c of a rank's receive range holds its final values. -/
def Coll.chunkThere (q : Coll) (c : Nat) : Bool :=
  coveredFuel q.got q.got.length (c * q.params.size) (min ((c + 1) * q.params.size) q.recvLen)

/-- The chunks of the receive range of a collective at its rank. -/
def Coll.chunks (q : Coll) (pos : Nat) : Nat := chunkCount q.params pos (recordOf q.recv)

/-- The running collective of a communicator. -/
def runningColl (c : Ctx) (k : Nat) : Option Coll := c.colls.find? (fun q => q.k == k && q.go && !q.done)

/-- A write of a collective into a chunk of its receive range is not acknowledged yet (R226, R239). -/
def chunkOpen (s : State) (k : Nat) (q : Coll) (chunk : Nat) : Bool :=
  let b := recordOf q.recv
  let lo := spaceBase (spaceOfCode b.space) + b.base + chunk * q.params.size
  s.link.requests.any (fun r => r.core == 256 && r.kind == 0x01 && r.ctx == k && r.id == q.k && r.slot == q.seq &&
    decide (r.va < lo + q.params.size) && decide (lo < r.va + r.size))

/-- A chunk of the running collective that holds its final values at the rank and is not yet complete. -/
def chunkDue (s : State) (k : Nat) (c : Ctx) (q : Coll) (chunk : Nat) : Bool :=
  decide (chunk < q.chunks (commOf c q.k).pos) && !q.flagged.contains chunk && q.chunkThere chunk && q.fault.isNone &&
    !chunkOpen s k q chunk

/-- The flag word at an offset of a rank's memory set full, a release of the chorus (R226, R235). -/
def setRankFlag (s : State) (k : Nat) (c : Ctx) (q : Coll) (off : Nat) : State :=
  let p := rankPlace c q.core (spaceOfCode (f1Space q.f1.toNat)) off
  if rankSaved c p then modCtx s k (fun x => { x with imgTags := insertNat (p / 4) x.imgTags })
  else settle (setTag (stores s .chorus p 4) p true)

/-- CHUNK_COMPLETE (R226). -/
def execChunkComplete (ctx comm chunk : Nat) (s : State) : Out :=
  .next (
    match getCtx s ctx with
    | none => s
    | some c =>
      match runningColl c comm with
      | none => s
      | some q =>
        if chunkDue s ctx c q chunk then
          let s1 := modColl s ctx q.k q.seq (fun x => { x with flagged := insertNat chunk x.flagged })
          pulse (if q.params.flags then setRankFlag s1 ctx c q (q.f3.toNat + 4 * chunk) else s1) ctx
        else s)

/-- The completion action of a collective (R226). -/
def collAction (s : State) (k : Nat) (c : Ctx) (q : Coll) : State :=
  match f1Act q.f1.toNat with
  | 1 => setRankFlag s k c q q.f2.toNat
  | 2 => arriveBarrier s .chorus k q.f2.toNat
  | _ => s

/-- A rank has nothing more to do for a collective (R226); a BARRIER's down phase has reached it (R421). -/
def collFinished (s : State) (c : Ctx) (q : Coll) : Bool :=
  let cm := commOf c q.k
  q.go && !q.done && q.fault.isNone && q.acks == 0 && q.waits == 0 && (q.params.kind != 0 || !q.got.isEmpty) &&
    (ownSteps s cm q).all (fun e => q.sent.contains e) && (upTo (q.chunks cm.pos)).all (fun i => q.flagged.contains i)

/-- The chunk steps and staging slots of a retired collective are given up. -/
def dropSteps (s : State) (k : Nat) (q : Coll) : State :=
  let keep := fun (x : ChunkStep) => !x.isOf k q
  let held := q.slots.foldl (fun a e => a + e.2) 0
  let cls := ((getCtx s k).map (fun c => (commOf c q.k).cls)).getD 0
  let pool := poolOf cls 0
  { s with chorus := { s.chorus with
      steps := s.chorus.steps.filter keep, asking := s.chorus.asking.filter keep
      used := spSet 0 s.chorus.used pool (spGet 0 s.chorus.used pool - held) } }

/-- A collective that met a fault is retired at its rank: NEXTSEQ advances past it, its own writes stop, and it goes on
serving the other ranks, which are not to be held (R212, R225, R266; log entry 25). -/
def retireFaulted (s : State) (k : Nat) (q : Coll) : State :=
  modCtx (modColl s k q.k q.seq (fun x => { x with done := true, draining := x.go })) k
    (fun c => { c with comms := spSet {} c.comms q.k { commOf c q.k with nextSeq := (q.seq + 1) % 2 ^ 16 } })

/-- A collective is retired at its rank, and NEXTSEQ advances (R225). -/
def retireColl (s : State) (k : Nat) (q : Coll) : State :=
  modCtx (modColl (dropSteps s k q) k q.k q.seq (fun x => { x with done := true, nodes := [], staged := [], counts := [], slots := [], data := [] })) k
    (fun c => { c with comms := spSet {} c.comms q.k { commOf c q.k with nextSeq := (q.seq + 1) % 2 ^ 16 } })

/-- A faulted collective whose job has gone with its task ends its launch, with any cause (R212, R225; DESIGN CHOICE: no task is left
to trap, and the spec does not say what such a fault does; log entry 90). One whose task is saved raises its fault there, after the
restore. -/
def faultWithoutJob (s : State) (k : Nat) (c : Ctx) (q : Coll) (f : Cause × Nat) : State :=
  if collPosted s k c q then s else modColl (abortLaunch s k q.launch f.1) k q.k q.seq (fun x => { x with fault := none })

/-- COLLECTIVE_COMPLETE (R225, R226): the finished or faulted collective of a communicator is retired. -/
def execCollectiveComplete (ctx comm : Nat) (s : State) : Out :=
  .next (
    match getCtx s ctx with
    | none => s
    | some c =>
      match c.colls.find? (fun q => q.k == comm && !q.done && (q.fault.isSome || collFinished s c q)) with
      | none => s
      | some q =>
        match q.fault with
        | some f => faultWithoutJob (retireFaulted (if q.go then s else dropSteps s ctx q) ctx q) ctx c q f
        | none => settle (retireColl (collAction s ctx c q) ctx q))

/-! ## Chorus packets (R362, R367, R372) -/

/-- The fields of a chorus ADDR: SEQ, communicator, level, index and chunk. -/
def chorusFields (a : Nat) : Nat × Nat × Nat × Nat × Nat := (field a 48 16, field a 44 4, field a 40 4, field a 24 16, field a 0 24)

/-- An acknowledgement of a chorus packet; its payload marks it as one (log entry 19). -/
def ackChorus (s : State) (p : Packet) : State :=
  sendPacket s { p with kind := 0x04, vc := 1, src := s.link.node, dst := p.src, rank := p.srank, srank := p.rank, payload := [1] }

/-- A chorus packet is dealt with by the rank it names, refused where that is not resident (R362). -/
def withRank (s : State) (p : Packet) (act : Nat → Ctx → State → State) : State :=
  match residentOf s p.job p.rank with
  | some k =>
    match getCtx s k with
    | some c => act k c (pulse s k)
    | none => refusePacket s p
  | none => refusePacket s p

/-- A block arrives in its slot; a lane receives it (R366). -/
def stageBlock (s : State) (k kk seq key count : Nat) (bytes : List Byte) : State :=
  modColl s k kk seq (fun q => if q.done && !q.draining then q else { q with staged := spPut q.staged key (count, bytes) })

/-- A block of a node value arrives in its slot and is acknowledged; one of the unordered form goes by the position of its sender. -/
def receiveUp (ordered : Bool) (p : Packet) (s : State) : State :=
  withRank s p (fun k c s =>
    let (seq, kk, level, index, g) := chorusFields p.addr
    let b := p.tag / packetBytes
    let s1 := if ordered then stageBlock s k kk seq (stagedKey 0 g level index b) 0 p.payload
      else stageBlock s k kk seq (stagedKey 0 g 0 (positionOf s (commOf c kk) p.srank) b) index p.payload
    ackChorus s1 p)

/-- CHORUS_UP_ORDERED (R366, R372): the model's own router forwards, it does not combine; what another has combined is taken as
it is. -/
def execChorusUpOrdered (p : Packet) (s : State) : Out := .next (arrival s p 0x10 (receiveUp true p))

/-- CHORUS_UP_UNORDERED (R366, R372). -/
def execChorusUpUnordered (p : Packet) (s : State) : Out := .next (arrival s p 0x11 (receiveUp false p))

/-- CHORUS_DOWN (R366): final bytes arrive in their slot; once the piece is whole a lane writes it into the rank's memory. -/
def execChorusDown (p : Packet) (s : State) : Out :=
  .next (arrival s p 0x12 (fun s => withRank s p (fun k c s =>
    let (seq, kk, _, src, g) := chorusFields p.addr
    match findColl c kk seq with
    | none => ackChorus s p
    | some q =>
      let r := q.piece src g
      let off := g * q.params.size + p.tag
      let s1 := stageBlock s k kk seq (stagedKey 1 g 0 src ((off - r.1) / packetBytes)) 0 p.payload
      let last := q.done && !q.draining && q.params.kind != 0 && decide (r.1 + r.2.1 ≤ off + p.payload.length)
      ackChorus (if last then freeDownSlot s1 (commOf c kk).cls else s1) p)))

/-- RESERVATION_REQUEST (R367): it joins its pool's requests; one for the matching of posts brings a description. -/
def execReservationRequest (p : Packet) (s : State) : Out :=
  .next (arrival s p 0x13 (fun s => withRank s p (fun k c s =>
    let (seq, kk, level, index, g) := chorusFields p.addr
    let cm := commOf c kk
    if g = matchChunk then noteDescription s k kk seq (positionOf s cm p.srank) (ofBytes p.payload)
    else
      let pool := poolOf cm.cls (ofBytes p.payload % 2)
      let r : SlotRequest :=
        { node := p.src, rank := p.srank, ctx := k, k := kk, seq := seq, chunk := g, level := level, index := index, since := s.clock }
      { s with chorus := { s.chorus with requests := spSet [] s.chorus.requests pool (enterRequest r (spGet [] s.chorus.requests pool)) } })))

/-- A step that a grant names. -/
def grantNames (s : State) (c : Ctx) (p : Packet) (k : Nat) (x : ChunkStep) : Bool :=
  let (seq, kk, level, index, g) := chorusFields p.addr
  x.ctx == k && x.k == kk && x.seq == seq && x.chunk == g && x.kind.phase == ofBytes p.payload % 2 &&
    (match x.kind with
     | .up j i => j == level && i == index
     | .deliver t => (memberAt s (commOf c kk) t).1 == p.srank
     | _ => false)

/-- GRANT (R367): the step that asked becomes a granted step; one for the matching of posts brings the verdict. -/
def execGrant (p : Packet) (s : State) : Out :=
  .next (arrival s p 0x14 (fun s => withRank s p (fun k c s =>
    let (seq, kk, _, _, g) := chorusFields p.addr
    if g = matchChunk then giveVerdict s k kk seq (ofBytes p.payload == 0)
    else
      let (mine, rest) := s.chorus.asking.partition (grantNames s c p k)
      { s with chorus := { s.chorus with asking := rest, steps := s.chorus.steps ++ mine.map (fun x => { x with since := s.clock }) } })))

end Sys2Proof.Machine
end

