-- ==== Sys2Proof/Machine/Tasks.lean ====
section
/-!
DEFINITION. The life of tasks as events: results that land (R80, R81, R316), base regions loaded (R426), idle cores finding work
(R303, R304), task starts and completions (R16, R106, R107), and merges (R255).
-/
namespace Sys2Proof.Machine

/-! ## Landings -/

/-- RESULT_LAND (R80): the fixed-latency results of a core that are due in its current cycle. -/
def execResultLand (core : Nat) (s : State) : Out := .next (modCore s core (fun c => c.landWhere (fun e => !e.replay)))

/-- A result is to land in an accumulator that an unfinished matrix instruction of its own bundle still reads, which sees it as it
stood at issue (R80, R138, R166). -/
def landsLater (c : Core) (id : Nat) : Bool :=
  c.pend.any (fun e => e.id == id &&
    (match e.dest with
     | some (.acc k) => c.mx.queue.any (fun o => o.usesAcc k)
     | _ => false))

/-- INTERLOCKED_RESULT_LAND (R81). -/
def execInterlockedResultLand (core id : Nat) (s : State) : Out :=
  if landsLater (getCore s core) id then .next s
  else
    let landed := modCore s core (fun c => c.landId id)
    .next (if landed = s then s else savePulse landed (slotOfCore s core))

/-- LWB_REPLAY_LAND (R316): the replayed results that are due in the current cycle. -/
def execLwbReplayLand (core : Nat) (s : State) : Out := .next (modCore s core (fun c => c.landWhere (fun e => e.replay)))

/-! ## Base regions (R426) -/

/-- The code object of a core's task. -/
def taskObject (s : State) (n : Nat) : Option CodeObj :=
  match (getCore s n).task with
  | some t => codeOf (ctxOfCore s n) t.code
  | none => none

/-- The base region that a loading task still lacks first. -/
def nextBase (s : State) (n : Nat) : Option Nat :=
  match (getCore s n).task, taskObject s n with
  | some t, some o => if t.phase = .loading then (missingBase (getCore s n).imem o).map (fun j => o.overlayFirst 0 + j) else none
  | _, _ => none

/-- BASE_REGION_LOAD (R426): a base region of the task's object becomes valid with its tag. -/
def execBaseRegionLoad (core region : Nat) (s : State) : Out :=
  .next (
    match (getCore s core).task, taskObject s core with
    | some t, some o =>
      let first := o.overlayFirst 0
      let base := decide (first ≤ region) && decide (region < first + o.overlayCount 0)
      if t.phase = .loading ∧ base ∧ spFind (getCore s core).imem.tags region ≠ some o.tag then
        pulse (modCore s core (fun c => c.loadRegion o 0 (region - first) region)) (slotOfCore s core)
      else s
    | _, _ => s)

/-! ## Finding work (R303, R304) -/

/-- The cores of a context take work: it runs and no decision, save or restore is under way (R303, R320). -/
def ctxTakes (c : Ctx) : Bool := !ctxFrozen c

/-- The resident program of a run still has to start on a logical core (R304), or to start again, and waits for no page (R329). -/
def residentDue (c : Ctx) (l : Launch) (run : Bool) (logical : Nat) : Bool :=
  l.desc.mode == 2 && l.phase == .running && (l.runOf run).started && !(l.runOf run).halted.contains logical &&
    !c.residents.any (fun w => w.launch == l.handle && w.run == run && w.logical == logical)

/-- The resident programs due on a core, run A before run B. -/
def residentFor (c : Ctx) (logical : Nat) : Option (Launch × Bool) :=
  c.launches.findSome? (fun l =>
    if residentDue c l false logical then some (l, false)
    else if residentDue c l true logical then some (l, true)
    else none)

/-- A core's task is the work of an entry, held until it starts (R253). -/
def holdWork (s : State) (n k : Nat) (e : Entry) : State :=
  let t := match e.work with
    | .point i => heldTask (entryMode s k e) e.launch e.run .point i
    | .block a => heldTask (entryMode s k e) e.launch e.run .block a
  modCore s n (fun q => { q with task := some t })

/-- An idle core takes work: a resident program that is due, else an entry by one pass of R303. -/
def takeWork (s : State) (n k : Nat) (c : Ctx) : State :=
  let logical := (getCore s n).logical
  match residentFor c logical with
  | some (l, run) => modCore s n (fun q => { q with task := some (heldTask 2 l.handle run .resident 0) })
  | none =>
    match findWork s ⟨k, logical, none⟩ false with
    | some f => holdWork f.after n k f.entry
    | none => announcePages s k

/-- The TGET that a core waits in. -/
def waitingTget (c : Core) : Option SyncOp :=
  c.sync.find? (fun o => match o.kind with
    | .tget _ _ _ => true
    | _ => false)

/-- One pass of a core (R303): an idle one, or one that waits in TGET (R200). Neither takes while a decision, save or restore is under
way, or the core drains (R320, R321; log entry 14). -/
def idlePass (s : State) (n : Nat) : State :=
  let c := getCore s n
  match c.ctx.bind (fun k => (getCtx s k).map (fun x => (k, x))) with
  | none => s
  | some (k, x) =>
    let takes := ctxTakes x && c.outcome == .nothing
    match c.task, waitingTget c with
    | none, _ => if takes ∧ c.status = .idle then takeWork s n k x else s
    | some _, some o => if c.status = .running then tgetPass s n o takes else s
    | some _, none => s

/-- IDLE_CORE_PASS (R303). -/
def execIdleCorePass (core : Nat) (s : State) : Out := .next (idlePass s core)

/-- TASK_START (R16, R253): work that a core holds starts once it has a slot. -/
def execTaskStart (core : Nat) (s : State) : Out :=
  .next (if ctxTakes (ctxOfCore s core) then startTask s core else s)

/-! ## Ends (R106, R107, R255) -/

/-- A block of a run that is WAITING or READY. -/
def openBlock (s : State) (k h : Nat) (run : Bool) (l : Launch) : Bool :=
  (l.runOf run).blocks.any (fun a => decide (blockField s (hwWho k h run) a 0x34 1 ≤ 1))

/-- Every core of the partition has completed a HALT or DONE of a run (R107). -/
def allHalted (c : Ctx) (l : Launch) (run : Bool) : Bool := decide (16 * c.clusters ≤ (l.runOf run).halted.length)

/-- A persistent launch whose cores have all ended with a block READY or WAITING aborts with BOUNDS (R297). -/
def checkHalted (s : State) (k h : Nat) (run : Bool) : State :=
  match getCtx s k, getLaunch s k h with
  | some c, some l =>
    if l.desc.mode = 2 ∧ !l.ended ∧ allHalted c l run ∧ openBlock s k h run l then abortLaunch s k h .bounds else s
  | _, _ => s

/-- A core whose task has ended is idle (R106). -/
def releaseCore (c : Core) : Core :=
  { c with status := .idle, task := none, regs := { c.regs with loop := [] }, outcome := .nothing, drainBy := none
           ctl := { c.ctl with wait := none } }

/-- TASK_COMPLETE (R106, R107): a task that has issued DONE or HALT and has drained completes. -/
def execTaskComplete (core : Nat) (s : State) : Out :=
  let c := getCore s core
  .next (
    match c.ctx, c.task with
    | some k, some t =>
      match t.phase with
      | .ending _ =>
        if !drained c then s
        else
          let s1 := modCore s core releaseCore
          match t.kind, t.mode, t.slot with
          | _, 2, _ =>
            checkHalted (modRun (managerFollows s1 core) k t.launch t.run (fun r => { r with halted := insertNat c.logical r.halted })) k t.launch t.run
          | _, _, some sl => completeSlot (managerFollows s1 core) k t.launch t.run sl
          | _, _, none => s1
      | _ => s
    | _, _ => s)

/-- The run of a launch that has a slot open. -/
def runOfSlot (l : Launch) (k : Nat) : Bool := !(l.a.slots.any (fun t => t.num == k))

/-- SUBVERSION_MERGE (R255). -/
def execSubversionMerge (ctx launch slot : Nat) (s : State) : Out :=
  .next (
    match getLaunch s ctx launch with
    | none => s
    | some l =>
      let run := runOfSlot l slot
      checkHalted (tryMerge s ctx launch run slot) ctx launch run)

end Sys2Proof.Machine
end

