-- ==== Sys2Proof/Machine/Launches.lean ====
section
/-!
DEFINITION. The life of launches as events: records read by admission (R376), admission (R249, R252, R259, R288), completion
(R260), the curtain (R261 to R264), rehearsal (R267 to R270) and version entries (R252).
-/
namespace Sys2Proof.Machine

/-! ## ADMISSION_READ (R374, R376) -/

/-- The virtual address of the record at HEAD. -/
def Queue.recordVa (q : Queue) : Nat := q.base + 512 * (q.head % 2 ^ q.logSize)

/-- Admission reads the queues of a context that has not been killed and does not fly. -/
def ctxAdmits (c : Ctx) : Bool := c.state != .killed && c.state != .flying

/-- The queue whose host record reaches admission next, in the order of TAIL writes among enabled queues (R249). -/
def nextRung (c : Ctx) : Option Nat := c.rung.find? (fun q => (spGet {} c.queues q : Queue).en)

/-- A record of the host has been read: it reaches admission, and HEAD rises. -/
def takeHostRecord (s : State) (k queue record : Nat) : State :=
  match getCtx s k with
  | none => s
  | some c =>
    let q : Queue := spGet {} c.queues queue
    let s1 := setCtx s k { c with
      rung := c.rung.erase queue, queues := spSet {} c.queues queue { q with head := (q.head + 1) % 2 ^ 32, asked := false } }
    (placeRecord s1 k queue record (.host q.head)).1

/-- A page that hardware of a context needs is announced to system software once (R295, R329), or its malformed walk is (R348). -/
def announcePage (s : State) (k page : Nat) : State :=
  match getCtx s k with
  | none => s
  | some c =>
    if c.faults.contains page then s
    else
      post (setCtx s k { c with faults := insertNat page c.faults })
        (match walkTable s c.root (65536 * page) with
         | .malformed => .pageTable k page
         | _ => .pageFault k page)

/-- A request of the chip itself for a record on a remote page; core 257 marks admission as the reader. -/
def requestRecord (s : State) (k queue tgt node addr va : Nat) : State :=
  let tag := s.link.nextTag
  let s1 := sendPacket s (memPacket s k 0x02 4 (remoteNode tgt node) addr tag 0 (List.replicate 512 0))
  let s2 := openRequest s1 { tag := tag, kind := 0x02, ctx := k, core := 257, id := queue, off := 0, size := 512, signed := false,
                             launch := 0, job := none, va := va, slot := 0, bundle := 0, stamp := 0 }
  modCtx s2 k (fun c => { c with queues := spSet {} c.queues queue { (spGet {} c.queues queue : Queue) with asked := true } })

/-- Admission can read a queue: enabled, not empty, and not already reading it. -/
def queueReadable (c : Ctx) (queue : Nat) : Bool :=
  let q : Queue := spGet {} c.queues queue
  ctxAdmits c && q.en && decide (q.head ≠ q.tail) && !q.asked && nextRung c == some queue

/-- ADMISSION_READ (R376). -/
def execAdmissionRead (ctx queue : Nat) (s : State) : Out :=
  .next (
    match getCtx s ctx with
    | none => s
    | some c =>
      if !queueReadable c queue then s
      else
        let va := (spGet {} c.queues queue : Queue).recordVa
        match xlatCtx s c va with
        | .pkg p true _ =>
          if heldByPrepared s ⟨ctx, 0, false, mergedSlot⟩ p 512 then s
          else
            let s1 := readDirect s p 512
            takeHostRecord s1 ctx queue (rawNat s1 p 512)
        | .remote tgt node addr true _ => requestRecord s ctx queue tgt node addr va
        | _ => announcePage s ctx (va / 65536))

/-! ## Order and conflicts (R249, R259) -/

/-- The handles of the ancestors of a launch. -/
def ancestorsFuel (c : Ctx) : Nat → Launch → List Nat
  | 0, _ => []
  | n + 1, l =>
    match l.origin with
    | .host _ => []
    | .child p _ _ =>
      match findLaunch c p with
      | some q => p :: ancestorsFuel c n q
      | none => [p]

/-- The handles of the ancestors of a launch. -/
def ancestorsOf (c : Ctx) (l : Launch) : List Nat := ancestorsFuel c (c.launches.length + 1) l

/-- The launches that reached admission before one. -/
def launchesBefore (h : Nat) : List Launch → List Launch
  | [] => []
  | l :: ls => if l.handle = h then [] else l :: launchesBefore h ls

/-- The earlier launches of its queue against which a launch is ordered: for a child, the descendants of its parent (R249). -/
def queueBefore (c : Ctx) (l : Launch) : List Launch :=
  (launchesBefore l.handle c.launches).filter (fun x =>
    x.queue == l.queue &&
      (match l.origin, x.origin with
       | .host _, .host _ => true
       | .host _, .child _ _ _ => false
       | .child p _ _, _ => (ancestorsOf c x).contains p))

/-- Two launches conflict (R249). -/
def launchesConflict (a b : LaunchRec) : Bool :=
  let meet := fun (x y : LaunchRec) =>
    x.foot.any (fun e => e.writes && y.foot.any (fun q => q.kind != 0 && e.overlaps q))
  meet a b || meet b a

/-- A launch is admitted and has not ended. -/
def Launch.live (l : Launch) : Bool := l.phase == .running || l.phase == .complete || l.phase == .preparing

/-- One launch may hold another back (R249): a child neither holds back nor is held back by a launch that is no descendant of its
parent. -/
def mayHold (c : Ctx) (a b : Launch) : Bool :=
  (match b.origin with
   | .host _ => true
   | .child p _ _ => (ancestorsOf c a).contains p) &&
  (match a.origin with
   | .host _ => true
   | .child p _ _ => (ancestorsOf c b).contains p)

/-- Nothing admitted, and nothing earlier that waits, holds a launch back (R249, R259). -/
def orderAdmits (c : Ctx) (l : Launch) : Bool :=
  let others := c.launches.filter (fun x => x.handle != l.handle)
  (queueBefore c l).all (fun x => x.phase != .waiting || !mayHold c x l) &&
  (launchesBefore l.handle c.launches).all (fun x => x.phase != .waiting || !mayHold c x l || !launchesConflict x.desc l.desc) &&
  others.all (fun x => !x.live || !mayHold c x l || !launchesConflict x.desc l.desc) &&
  (!l.desc.flag 2 || others.all (fun x => !x.live || !mayHold c x l)) &&
  others.all (fun x => !(x.live && x.desc.flag 2) || !mayHold c x l)

/-! ## Version tables and frontier stores (R252, R267, R288) -/

/-- How many versions a launch takes: one for each run (R267). -/
def versionsNeeded (l : Launch) : Nat := if l.desc.flag 1 then 2 else 1

/-- The bytes of frontier store that a launch takes (R288), for each run of a rehearsal (DESIGN CHOICE: each run has heights of its
own, and the rule speaks of one launch; log entry 74). -/
def frontierBytes (l : Launch) : Nat :=
  if l.desc.mode ≠ 0 ∨ l.desc.ndep = 0 then 0 else versionsNeeded l * ((2 * l.desc.rows + 255) / 256 * 256)

/-- The frontier store that a context's live launches need (R288). -/
def frontierNeed (c : Ctx) : Nat := (c.launches.filter (fun l => l.live)).foldl (fun a l => a + frontierBytes l) 0

/-- The tables have room for a launch. That of a context without clusters takes no store yet: it waits until the context's own
frontiers fit one store, which the restore then waits for (DESIGN CHOICE: the rule names no die before the restore; log entry
75). -/
def roomFor (s : State) (c : Ctx) (l : Launch) : Bool :=
  decide (versionsNeeded l ≤ (freeVersions s.hw.versions0 2).length) &&
  decide (versionsNeeded l ≤ (freeVersions s.hw.versions1 2).length) &&
  decide ((if c.part.isEmpty then frontierNeed c else frontierUsed s (boardDie c)) + frontierBytes l ≤ 65536)

/-- A waiting launch can be admitted now. -/
def admissible (s : State) (c : Ctx) (l : Launch) : Bool :=
  l.phase == .waiting && ctxAdmits c && orderAdmits c l && roomFor s c l

/-- A launch takes its version entries on both dies, for each run (R252, R267), and its frontier store. -/
def takeResources (s : State) (k : Nat) (c : Ctx) (l : Launch) : State :=
  let s1 := takeVersion s (.launch k l.handle false)
  let s2 := if l.desc.flag 1 then takeVersion s1 (.launch k l.handle true) else s1
  let die := boardDie c
  let held : Nat := if c.part.isEmpty then 0 else frontierBytes l
  modLaunch (setFrontier s2 die (frontierUsed s2 die + held)) k l.handle (fun q => { q with frontier := held })

/-- A run of a launch starts: the blocks of its array join it in index order, and its grid begins (R282, R286, R296). -/
def startRun (s : State) (k h : Nat) (run : Bool) : State :=
  let s1 := modRun s k h run (fun r => { r with started := true })
  match getLaunch s1 k h with
  | none => s1
  | some l =>
    let s2 :=
      if l.desc.mode = 0 then s1
      else (upTo l.desc.ntcb).foldl (fun st i =>
        if ((getLaunch st k h).map (fun q => q.ended)).getD true then st
        else joinBlock st k h run (l.desc.tcb + 64 * i) 0 true) s1
    advanceGrid s2 k h run

/-- ADMISSION (R249, R252, R259, R288). -/
def execAdmission (ctx launch : Nat) (s : State) : Out :=
  .next (
    match getCtx s ctx, getLaunch s ctx launch with
    | some c, some l =>
      if !admissible s c l then s
      else
        let s1 := modLaunch (takeResources s ctx c l) ctx launch (fun q => { q with phase := .running, newcomer := c.state != .running })
        let s2 := startRun s1 ctx launch false
        settle (if l.desc.flag 1 then startRun s2 ctx launch true else s2)
    | _, _ => s)

/-! ## Completion (R260) -/

/-- Every block of a run is DONE. -/
def blocksDone (s : State) (k h : Nat) (run : Bool) (l : Launch) : Bool :=
  (l.runOf run).blocks.all (fun a => blockField s (hwWho k h run) a 0x34 1 == 3)

/-- Every point of a grid run is complete (R282, R287). -/
def pointsDone (l : Launch) (run : Bool) : Bool :=
  let u := l.runOf run
  u.points.isEmpty &&
    (if l.desc.ndep = 0 then decide (l.desc.points ≤ u.cursor)
     else (upTo l.desc.rows).all (fun r => decide (l.desc.eLast ≤ spGet 0 u.heights r)))

/-- Every task of a run has completed and merged (R260). -/
def runDone (s : State) (k : Nat) (c : Ctx) (l : Launch) (run : Bool) : Bool :=
  let u := l.runOf run
  let halted : Bool := l.desc.mode != 2 || allHalted c l run
  u.started && u.slots.isEmpty && halted && !c.heldBlocks.any (fun b => b.launch == l.handle && b.run == run) &&
    (if l.desc.mode = 0 then pointsDone l run else blocksDone s k l.handle run l)

/-- A core still works for a launch: a task of it, or a job. -/
def coresWork (s : State) (k h : Nat) : Bool :=
  s.cores.any (fun e => e.2.ctx == some k &&
    ((e.2.task.map (fun t => t.launch)) == some h || e.2.jobs.any (fun j => j.launch == h)))

/-- A child of a launch has not ended. -/
def childrenLive (c : Ctx) (h : Nat) : Bool :=
  c.launches.any (fun x => !x.ended && (match x.origin with
    | .child p _ _ => p == h
    | .host _ => false))

/-- Everything of R260 but the comparison of a rehearsal. -/
def otherwiseComplete (s : State) (k : Nat) (c : Ctx) (l : Launch) : Bool :=
  l.phase == .running && runDone s k c l false && (!l.desc.flag 1 || runDone s k c l true) && !coresWork s k l.handle &&
    c.colls.all (fun q => q.launch != l.handle || q.done) && l.acks == 0 && (writesAway s k l.handle).isEmpty &&
    !s.hw.seqs.any (fun q => q.held.any (fun e => e.reply.isNone && e.ctx == k && e.launch == l.handle)) &&
    !childrenLive c l.handle

/-- A launch becomes complete. -/
def completeNow (s : State) (k h : Nat) : State := modLaunch s k h (fun l => { l with phase := .complete, completeAt := s.clock })

/-- LAUNCH_COMPLETE (R260). -/
def execLaunchComplete (ctx launch : Nat) (s : State) : Out :=
  .next (
    match getCtx s ctx, getLaunch s ctx launch with
    | some c, some l => if !l.desc.flag 1 && otherwiseComplete s ctx c l then completeNow s ctx launch else s
    | _, _ => s)

/-! ## Rehearsal (R269, R270) -/

/-- The bytes of a run's final shadow, the newest of each address. -/
def finalShadow (l : Launch) (run : Bool) : List ShadowByte :=
  (l.shadow.filter (fun b => b.run == run)).foldl (fun acc b => if acc.any (fun q => q.va == b.va) then acc else acc ++ [b]) []

/-- One doubleword's part of a digest (R269). One that straddles the edge of an entry counts whole, with the shadow bytes outside the
entry (DESIGN CHOICE: the rule speaks of doublewords in the entry only; log entry 73). -/
def digestWord (bs : List ShadowByte) (a : Nat) : Nat :=
  let at_ := fun (i : Nat) => bs.find? (fun b => b.va == a + i)
  let v := packElems 8 8 (fun i => ((at_ i).map (fun b => b.byte.toNat)).getD 0)
  let m := packElems 1 8 (fun i => ofBool (at_ i).isSome)
  let w := philox (a % 2 ^ 32) (a / 2 ^ 32) (v % 2 ^ 32) (v / 2 ^ 32) m 0x52454853
  w.w0 + w.w1 * 2 ^ 32

/-- Digest(run, e) (R269). -/
def digestOf (l : Launch) (run : Bool) (e : FootEntry) : Nat :=
  let bs := finalShadow l run
  let words := bs.foldl (fun acc b =>
    if e.base ≤ b.va ∧ b.va < e.base + e.size then insertNat (b.va / 8 * 8) acc else acc) []
  words.foldl (fun d a => (d + digestWord bs a) % 2 ^ 64) 0

/-- The lowest write entry whose digests differ. -/
def firstMismatch (l : Launch) : Option Nat :=
  (upTo l.desc.foot.length).find? (fun i =>
    match l.desc.foot[i]? with
    | some e => e.kind == 2 && decide (digestOf l false e ≠ digestOf l true e)
    | none => false)

/-- REHEARSAL_COMPARE (R270). -/
def execRehearsalCompare (ctx launch : Nat) (s : State) : Out :=
  .next (
    match getCtx s ctx, getLaunch s ctx launch with
    | some c, some l =>
      if !l.desc.flag 1 || !otherwiseComplete s ctx c l then s
      else
        match firstMismatch l with
        | none =>
          completeNow (modLaunch s ctx launch (fun q => { q with shadow := q.shadow.filter (fun b => !b.run) })) ctx launch
        | some i =>
          let region := ((l.desc.foot[i]?).map (fun e => e.region)).getD 0
          post (abortLaunch s ctx launch .none) (.rehearsal ctx launch i region)
    | _, _ => s)

/-! ## The curtain (R261 to R264) -/

/-- Its queue and its LWAITs let a complete launch commit (R261). -/
def unbound (c : Ctx) (l : Launch) : Bool :=
  (queueBefore c l).all (fun x => x.ended) && l.lwaits.all (fun h => ((findLaunch c h).map (fun x => x.ended)).getD true)

/-- A complete launch's curtain is next: among the complete ones that nothing binds, by the time of completion and then by
queue; curtains of one context follow one another (R261). -/
def mayCommit (c : Ctx) (l : Launch) : Bool :=
  l.phase == .complete && unbound c l && !c.launches.any (fun x => x.phase == .preparing) &&
    !c.launches.any (fun x => x.handle != l.handle && x.phase == .complete && unbound c x &&
      (decide (x.completeAt < l.completeAt) || (x.completeAt == l.completeAt && decide (x.queue < l.queue))))

/-- The holders that must prepare: 65,537 for die 1, and the peers (R262). -/
def holdersOf (l : Launch) : List Nat :=
  (if l.shadow.any (fun b => placeDie b.place == 1) then [65537] else []) ++ l.peers

/-- The version entries of a launch's runs with a function applied (R252, R262). -/
def modVersions (s : State) (k h : Nat) (f : Version → Version) : State :=
  modVersion (modVersion s (.launch k h false) f) (.launch k h true) f

/-- The lines of shadow bytes. -/
def shadowLineList (bs : List ShadowByte) : List Nat := bs.foldl (fun acc b => insertNat (lineOf b.place) acc) []

/-- Lines are written at one logical time of the stage manager: later than every lease of them (R232, R243). -/
def stampLines (s : State) (ls : List Nat) : State :=
  let t := storeTime s ls s.hw.pts
  setClock (ls.foldl (fun st l => setLineTime st l { wts := t, rts := t }) s) .manager t

/-- The bytes of a launch version become committed, oldest first, at one logical time (R243, R254). -/
def foldBack (s : State) (l : Launch) : State :=
  let ls := shadowLineList l.shadow
  let s1 := (l2WriteAll (mergeLines s ls) (ls.map (fun x => ⟨x, .committed, false⟩))).1
  l.shadow.reverse.foldl (fun st b => putByte st b.place b.byte) (stampLines s1 ls)

/-- The end of a launch that commits: status COMMITTED, its completion reported at the mark (R262). What the hardware wrote into its
blocks outlasts it (R294). -/
def endCommitted (s : State) (k : Nat) (l : Launch) : State :=
  let s1 := endBlockBytes (freeFrontier s k l) k ((getLaunch s k l.handle).getD l)
  let s2 := modLaunch s1 k l.handle (fun q =>
    { q with phase := .ended, status := 0x01, marked := true, shadow := [], holders := [], frontier := 0 })
  let s3 := modVersions (modCtx s2 k (fun c => { c with farLines := c.farLines.filter (fun q => q.launch != l.handle) }))
    k l.handle (fun v => { v with prepared := false, committed := true })
  settle (reportLaunch (l2Sweep s3) k { l with status := 0x01 })

/-- A message about run A of a launch to its peers; run B of a rehearsal is dropped there (R264, R270). -/
def controlBoth (s : State) (k : Nat) (l : Launch) (code stamp into : Nat) : State :=
  let s1 := controlPeers s k l false code stamp into
  if l.desc.flag 1 then controlPeers s1 k l true 3 0 0 else s1

/-- The mark: the one point at which a launch of the host becomes visible (R243, R262). -/
def markLaunch (s : State) (k : Nat) (l : Launch) : State := endCommitted (controlBoth (foldBack s l) k l 2 0 0) k l

/-- A child's version merges into its parent task's slot, its bytes in the order they were written (R246, R256). They are
writes of the parent for its budget and spill area, and where that is full the parent aborts with SHADOW_FULL (DESIGN CHOICE: R256 does
not say; log entry 95). -/
def mergeChild (s : State) (k : Nat) (l : Launch) (p : Nat) (run : Bool) (slot : Nat) : State :=
  let w : Who := ⟨k, p, run, slot⟩
  let s1 := controlBoth s k l 5 (stampOf s w) (launchKey p run)
  let s2 := modLaunch s1 k p (fun q => { q with peers := l.peers.foldl (fun a n => insertNat n a) q.peers })
  let s3 := endCommitted s2 k l
  let ls := shadowLineList l.shadow
  let (s4, full) := l2WriteAll (stampLines s3 ls) (ls.map (fun x => ⟨x, .launch k p run, lineSpilled s3 w x⟩))
  let r := l.shadow.reverse.foldl (fun (acc : State × Bool) b =>
    if acc.2 then acc else shadowWrite acc.1 w b.va b.place b.byte) (s4, full)
  orShadowFull r w 0

/-- LAUNCH_COMMIT (R261, R262): a child merges; else prepare begins, or the mark where no line lies outside die 0. -/
def execLaunchCommit (ctx launch : Nat) (s : State) : Out :=
  .next (
    match getCtx s ctx, getLaunch s ctx launch with
    | some c, some l =>
      if !mayCommit c l then s
      else
        match l.origin with
        | .child p run slot => mergeChild s ctx l p run slot
        | .host _ =>
          match holdersOf l with
          | [] => markLaunch s ctx l
          | hs =>
            let s1 := modLaunch s ctx launch (fun q =>
              { q with phase := .preparing, holders := hs, prepareBy := s.clock + 2 ^ c.wlog })
            controlPeers (modVersions s1 ctx launch (fun v => { v with prepared := true })) ctx l false 1 0 0
    | _, _ => s)

/-- A holder has prepared; the last one brings the mark (R262). -/
def prepareAck (s : State) (k h holder : Nat) : State :=
  match getLaunch s k h with
  | none => s
  | some l =>
    if l.phase ≠ .preparing ∨ !l.holders.contains holder then s
    else
      let l1 := { l with holders := l.holders.filter (fun x => decide (x ≠ holder)) }
      if l1.holders.isEmpty then markLaunch s k l1 else modLaunch s k h (fun _ => l1)

/-- PREPARE_ACKNOWLEDGE (R262). -/
def execPrepareAcknowledge (ctx launch holder : Nat) (s : State) : Out := .next (prepareAck s ctx launch holder)

/-- PREPARE_TIMEOUT (R262): a holder has not acknowledged within the watchdog window. -/
def execPrepareTimeout (ctx launch : Nat) (s : State) : Out :=
  .next (
    match getLaunch s ctx launch with
    | none => s
    | some l => if l.phase = .preparing ∧ l.prepareBy ≤ s.clock then abortLaunch s ctx launch .watchdog else s)

/-- A line is still held by a prepared version for a core's task (R263). -/
def lineHeld (s : State) (n line : Nat) : Bool := heldByPrepared s (whoIs s n) (128 * line) 128

/-- COMMIT_OUTCOME_QUERY (R262): the owner tells a holder what became of a launch. -/
def execCommitOutcomeQuery (ctx launch holder : Nat) (s : State) : Out :=
  .next (
    match getLaunch s ctx launch with
    | none => s
    | some l =>
      if !l.ended ∨ holder = 65537 then s
      else controlPeers s ctx { l with peers := [holder] } false (if l.marked then 2 else 3) 0 0)

/-! ## VERSION_FREE (R252) -/

/-- No line carries the tag of a version whose launch has ended. -/
def versionUnused (s : State) (v : Version) : Bool :=
  match v.owner with
  | .committed => true
  | .launch k h run =>
    match getLaunch s k h with
    | none => true
    | some l => l.ended && !l.shadow.any (fun b => b.run == run)
  | .peer dest node job rank key =>
    !s.link.peers.any (fun q => q.dest == dest && q.node == node && q.job == job && q.rank == rank && q.launch == key)

/-- VERSION_FREE (R252). -/
def execVersionFree (die entry : Nat) (s : State) : Out :=
  let drop := fun (t : Sparse Version) => t.filter (fun e => decide (e.1 ≠ entry))
  .next (
    match spFind (if die = 0 then s.hw.versions0 else s.hw.versions1) entry with
    | none => s
    | some v =>
      if !versionUnused s v then s
      else if die = 0 then { s with hw := { s.hw with versions0 := drop s.hw.versions0 } }
      else { s with hw := { s.hw with versions1 := drop s.hw.versions1 } })

end Sys2Proof.Machine
end

