-- ==== Sys2Proof/Machine/Wipes.lean ====
section
/-!
DEFINITION. Wipes (R350, Table 15.9): what a wipe leaves, and the wipes that come when a core, a cluster, a chip scratchpad range or a
frame passes to a context of another job.
-/
namespace Sys2Proof.Machine

/-- Memory of a range of places wiped: every byte 0, every tag empty (R350). -/
def wipePlaces (s : State) (lo size : Nat) : State :=
  { s with
    mem := spClear s.mem lo (lo + size)
    tags := s.tags.filter (fun t => decide (4 * t < lo) || decide (lo + size ≤ 4 * t)) }

/-- What a wipe also empties: every lease and translation cache, and the wiped memory's L2 lines, shadow, partials, times and
damage. The shadows meant are those of the wiped memory (DEDUCED; log entry 78). -/
def wipeRest (s : State) (lo size : Nat) : State :=
  let out := fun (p : Nat) => decide (p < lo) || decide (lo + size ≤ p)
  { s with
    cores := s.cores.map (fun e => (e.1, { e.2 with tlb := [], lease := [] }))
    ctxs := s.ctxs.map (fun e => (e.1, { e.2 with launches := e.2.launches.map (fun l =>
      { l with shadow := l.shadow.filter (fun b => out b.place) }) }))
    link := { s.link with peers := s.link.peers.map (fun q => { q with bytes := q.bytes.filter (fun b => out b.place) }) }
    hw := { s.hw with
      tlb0 := [], tlb1 := []
      l2 := (s.hw.l2.map (fun e => (e.1, e.2.filter (fun x => out (128 * x.line))))).filter (fun e => !e.2.isEmpty)
      partials := s.hw.partials.filter (fun q => out q.place), damaged := s.hw.damaged.filter out, cached := s.hw.cached.filter out
      order := s.hw.order.filter (fun e => out e.1), lines := s.hw.lines.filter (fun e => out (128 * e.1)) } }

/-- A range of memory wiped with all that R350 empties. -/
def wipeAll (s : State) (lo size : Nat) : State := wipeRest (wipePlaces s lo size) lo size

/-! ## Who used a range last (R350) -/

/-- The parts of a range that another job used last. -/
def usedByOther (s : State) (base size job : Nat) : List (Nat × Nat) :=
  (s.hw.lastUse.filter (fun u => decide (u.base < base + size) && decide (base < u.base + u.size) && u.job != job)).map (fun u =>
    (max base u.base, min (base + size) (u.base + u.size) - max base u.base))

/-- What is left of a range without others. -/
def cutOut : List (Nat × Nat) → Nat → Nat → List (Nat × Nat)
  | [], base, size => if size = 0 then [] else [(base, size)]
  | u :: us, base, size =>
    if u.1 + u.2 ≤ base ∨ base + size ≤ u.1 then cutOut us base size
    else cutOut us base (u.1 - base) ++ cutOut us (max base (u.1 + u.2)) (base + size - max base (u.1 + u.2))

/-- What is left of a range beside another. -/
def LastUse.beside (u : LastUse) (base size : Nat) : List LastUse :=
  let hi := base + size
  (if u.base < base then [{ u with size := min u.size (base - u.base) }] else []) ++
    (if hi < u.base + u.size then [{ u with base := max u.base hi, size := u.base + u.size - max u.base hi }] else [])

/-- A range passes to a context of a job: wiped first where another job used it last and no context uses it, which `uses` tells
(Table 15.9). -/
def claimRange (s : State) (uses : List (Nat × Nat)) (base size job : Nat) : State :=
  if size = 0 then s
  else
    let parts := (usedByOther s base size job).flatMap (fun u => cutOut uses u.1 u.2)
    let s1 := parts.foldl (fun st u => wipeAll st u.1 u.2) s
    { s1 with hw := { s1.hw with lastUse := ⟨base, size, job⟩ :: s1.hw.lastUse.flatMap (fun u => u.beside base size) } }

/-- A cluster and its cores pass to a context of a job. A core that no context has keeps nothing but its scratchpad. -/
def claimCluster (s : State) (job cl : Nat) : State :=
  (upTo 16).foldl (fun st i => claimRange st [] (corePlace (16 * cl + i) 0) (2 ^ 19) job) (claimRange s [] (clusterPlace cl 0) (2 ^ 23) job)

/-- The package-memory frames of a context's pages. -/
def framesOf (s : State) (c : Ctx) : List (Nat × Nat) :=
  (pagesOf s c).filterMap (fun e =>
    match e.2 with
    | .leaf bits 0 _ addr _ _ => some (addr, 2 ^ bits)
    | _ => none)

/-- The frames that the contexts map. -/
def framesUsed (s : State) : List (Nat × Nat) := s.ctxs.flatMap (fun e => framesOf s e.2)

/-- The frames that a context maps pass to its job; those that were in use before the mapping, in state `before`, are not wiped (R330,
R350, Table 15.9). -/
def claimPages (before s : State) (k : Nat) : State :=
  match getCtx s k with
  | none => s
  | some c => (framesOf s c).foldl (fun st u => claimRange st (framesUsed before) u.1 u.2 c.job) s

/-- The 256 MiB of HBM that the pools of the chorus take (R366), which no context may map: the last of die 1 (DESIGN CHOICE: the
rule gives no address; log entry 77). -/
def heldBack (addr size : Nat) : Bool := decide (addr < 0x6000000000) && decide (0x5FF0000000 < addr + size)

end Sys2Proof.Machine
end

