-- ==== Sys2Proof/Machine/Preempt.lean ====
section
/-!
DEFINITION. Pre-emption, saving and restoring (R253, R288 to R292, R318 to R325, R428), the watchdog and kills (R326, R327). The
parts of a save area are kept as structured data (log entry 20).
-/
namespace Sys2Proof.Machine

/-! ## Decisions (R319 to R322) -/

/-- The physical cores of a context with their logical indices. -/
def coresOf (c : Ctx) : List (Nat × Nat) := (upTo (partCores c.part)).map (fun i => (i, physCore c.part i))

/-- Held work goes back as though it had never been taken (R253). -/
def putBackWork (s : State) (n k : Nat) (t : Task) : State :=
  let s1 := modCore s n (fun c => { c with task := none, status := .idle })
  let (s2, ok) :=
    match t.kind with
    | .point => boardPoint s1 k t.launch t.run t.item (((getLaunch s k t.launch).map (fun (l : Launch) => l.desc.traversal t.item)).getD 0)
    | .block => queueBlock s1 k t.launch t.run t.item (getCore s n).logical
    | .resident => (s1, true)
  if ok then s2 else abortLaunch s2 k t.launch .bounds

/-- The kill outcome (R321): the sub-version is discarded; a resident program restarts at ENTRY when its context runs again. -/
def killOutcome (s : State) (n k : Nat) (t : Task) : State :=
  match t.slot with
  | some sl => discardSlot s k sl .kill
  | none => modCore s n clearTask

/-- The core stops at once; its fixed-latency results enter the late-write buffer (R315). -/
def stopCore (c : Core) : Core := { c.toBuffer with status := .stopped, outcome := .checkpoint, drainBy := none }

/-- The remote monitored waits of a stopped core are given up at their homes; they are armed again on resume (R186). -/
def dropAways (s : State) (n : Nat) : State :=
  let c := getCore s n
  if c.status = .stopped ∨ c.status = .held then c.sync.foldl (fun st o => endAway st n o 2) s else s

/-- Table 14.2 applied to one core, once the work that it holds has gone back (R253); `spent` is true for a drain whose window has run
out (R321). -/
def decideCore (s0 : State) (n k tokens : Nat) (spent : Bool) : State :=
  let s := putBackTget s0 n
  let c := getCore s n
  match c.task with
  | none => modCore s n (fun q => { q with outcome := .nothing })
  | some t =>
    match t.phase with
    | .held => putBackWork s n k t
    | .ending _ => modCore s n (fun q => { q with outcome := .drain, drainBy := none })
    | _ =>
      if !spent && decide (c.dev.est.toNat ≤ s.plat.wd) then
        modCore s n (fun q => { q with outcome := .drain, drainBy := some (q.now + s.plat.wd) })
      else if s.plat.tk ≤ tokens || !t.ckpt then killOutcome s n k t
      else modCore s n stopCore

/-- A core of the context is held for the debugger (R334). -/
def ctxHeld (s : State) (k : Nat) : Bool := s.cores.any (fun e => e.2.ctx == some k && e.2.status == .held)

/-- A decision may be made for a context (R322, R428). -/
def mayDecide (s : State) (k : Nat) (c : Ctx) : Bool :=
  c.state == .running && !c.saving && !c.restoring && c.decided.isNone && !ctxHeld s k

/-- Clusters that no context occupies. -/
def freeClusters (s : State) : List Nat := (upTo 16).filter (fun x => !s.ctxs.any (fun e => e.2.part.contains x))

/-- The halves that the groups of four clusters of a partition may take, in ascending order: both halves of one die for eight (R277). -/
def halfLists : Nat → List (List Nat)
  | 1 => [[0], [1], [2], [3]]
  | 2 => [[0, 1], [2, 3]]
  | 3 => [[0, 1, 2], [0, 1, 3]]
  | 4 => [[0, 1, 2, 3]]
  | _ => []

/-- n clusters fit into halves of which each takes four, by the free clusters of a half. -/
def groupsFit (free : Nat → Nat) : List Nat → Nat → Bool
  | [], n => n == 0
  | h :: hs, n => decide (min n 4 ≤ free h) && groupsFit free hs (n - 4)

/-- A partition of n clusters can be placed on free ones (R277, R428). -/
def canPlace (s : State) (n : Nat) : Bool :=
  (halfLists ((n + 3) / 4)).any (fun hs => groupsFit (fun h => ((freeClusters s).filter (fun x => x / 4 == h)).length) hs n)

/-- The newcomer was admitted for a context that does not run, whose partition cannot be placed on free clusters (R428). -/
def needsClusters (s : State) (k h : Nat) : Bool :=
  match getCtx s k, getLaunch s k h with
  | some c, some l => (c.state == .parked || c.state == .green) && l.live && l.newcomer && !canPlace s c.clusters
  | _, _ => false

/-- PREEMPT_DECISION (R319): `ctx` is the victim, `newcomer` and `launch` the launch whose admission needs its clusters. -/
def execPreemptDecision (ctx newcomer launch : Nat) (s : State) : Out :=
  .next (
    match getCtx s ctx with
    | none => s
    | some c =>
      if !mayDecide s ctx c || !needsClusters s newcomer launch then s
      else
        let tokens := ((getLaunch s newcomer launch).map (fun l => l.desc.tokens)).getD 0
        let s0 := modCtx s newcomer (fun x => { x with claim := true })
        let s1 := modCtx s0 ctx (fun x => { x with decided := some tokens, dog := .saving, dogCount := 0 })
        (coresOf c).foldl (fun st e => dropAways (decideCore st e.2 ctx tokens false) e.2) s1)

/-- DRAIN_WINDOW_EXPIRE (R321). -/
def execDrainWindowExpire (core : Nat) (s : State) : Out :=
  let c := getCore s core
  .next (
    match c.ctx, c.drainBy, c.task with
    | some k, some d, some t =>
      let tokens := (((getCtx s k).bind (fun x => x.decided))).getD 0
      match t.phase with
      | .ending _ => s
      | _ => if c.outcome = .drain ∧ d ≤ c.now then dropAways (decideCore s core k tokens true) core else s
    | _, _, _ => s)

/-- A core holds no task that has begun: nothing, or work taken and not yet started (R253). -/
def taskless (c : Core) : Bool := c.task.all (fun t => t.phase == .held)

/-- The work that a core holds goes back. -/
def putBackHeld (s : State) (n k : Nat) : State :=
  match (getCore s n).task with
  | some t => if t.phase = .held then putBackWork s n k t else s
  | none => s

/-- PARK (R428): a running context none of whose cores holds a task begins to be saved; work that none has started goes back. -/
def execPark (ctx : Nat) (s : State) : Out :=
  .next (
    match getCtx s ctx with
    | none => s
    | some c =>
      if mayDecide s ctx c && (coresOf c).all (fun e => taskless (getCore s e.2)) then
        modCtx ((coresOf c).foldl (fun st e => putBackHeld st e.2 ctx) s) ctx (fun x =>
          { x with saving := true, dog := .saving, dogCount := 0 })
      else s)

/-! ## What a save waits for (R181, R213, R318) -/

/-- A job that does not hold up a save: a collective, a ring job held on a claim (R213), or one that cannot start before an instruction
has been performed for which a save does not wait (R186; DEDUCED, log entry 89). -/
def jobSavable (c : Core) (j : Job) : Bool :=
  (j.phase == .posted && behindWait c j) ||
    match j.kind with
    | .kpost => true
    | .cpyq | .cpyo | .wset | .wadv =>
      j.phase == .running && decide (j.doneRows < j.rows) && !slotReady c j && j.acks == 0 && j.waits == 0
    | _ => false

/-- A pending result that belongs to an armed wait, which a save does not wait for (R186). -/
def armedResult (c : Core) (e : Pending) : Bool := c.sync.any (fun o => o.id == e.id)

/-- A request of a waiting instruction whose answer a save awaits: its home may have performed it. That of a monitored wait is dropped
there first (R186). -/
def requestAwaited (c : Core) (n : Nat) (r : Request) : Bool :=
  r.core == n && some r.ctx == c.ctx && c.sync.any (fun o => o.id == r.id)

/-- The core's image can be written (R318). -/
def coreSavable (s : State) (n : Nat) : Bool :=
  let c := getCore s n
  !(c.task.isSome && c.outcome == .drain) && c.pend.all (armedResult c) && c.mx.queue.all (fun o => o.kind == .mtl && !o.stepping) &&
    c.jobs.all (jobSavable c) && c.acks.isEmpty && !s.link.requests.any (requestAwaited c n)

/-- A task of a launch has completed and waits for nothing but its merge (R289). -/
def mergeDue (l : Launch) : Bool := (l.a.slots ++ l.b.slots).any (fun t => t.completed && t.deps.isEmpty)

/-- Every image of a context can be written, and every drained task has merged. -/
def ctxSavable (s : State) (c : Ctx) : Bool :=
  (c.decided.isSome || c.saving) && (coresOf c).all (fun e => coreSavable s e.2) && !c.launches.any mergeDue

/-! ## Moving local memory (R324) -/

/-- The cluster whose memory, or whose core's scratchpad, holds a place. -/
def placeCluster (p : Nat) : Nat := if 2 ^ 42 ≤ p then (p - 2 ^ 42) / 2 ^ 19 / 16 else (p - 2 ^ 41) / 2 ^ 23

/-- A place of cluster memory or core scratchpad in one of some clusters. -/
def inClusters (part : List Nat) (p : Nat) : Bool := decide (2 ^ 41 ≤ p) && part.contains (placeCluster p)

/-- The position of a number in a list. -/
def indexIn (x : Nat) : List Nat → Nat
  | [] => 0
  | y :: ys => if x = y then 0 else 1 + indexIn x ys

/-- A place moved from the clusters of one list to those of another. -/
def relocate (old new : List Nat) (p : Nat) : Nat :=
  if !inClusters old p then p
  else
    let cl := new.getD (indexIn (placeCluster p) old) 0
    if 2 ^ 42 ≤ p then corePlace (cl * 16 + (p - 2 ^ 42) / 2 ^ 19 % 16) ((p - 2 ^ 42) % 2 ^ 19)
    else clusterPlace cl ((p - 2 ^ 41) % 2 ^ 23)

/-- The places that an armed wait names, moved. -/
def SyncOp.relocate (f : Nat → Nat) (o : SyncOp) : SyncOp :=
  { o with place := f o.place, elems := o.elems.map (fun e => { e with place := f e.place }) }

/-- The local ranges that barriers count, moved. -/
def Barrier.relocate (f : Nat → Nat) (b : Barrier) : Barrier :=
  { b with bytes := b.bytes.map (fun r => if r.space = 0 then r else { r with lo := f r.lo, hi := f r.lo + (r.hi - r.lo) }) }

/-- A context's local memory goes into its save area, and the clusters hold none of it. -/
def saveLocal (s : State) (k : Nat) (c : Ctx) : State :=
  let f := relocate c.part (upTo c.clusters)
  let mine := fun (p : Nat) => inClusters c.part p
  let s1 := setCtx s k { c with
    imgMem := (s.mem.filter (fun e => mine e.1)).foldl (fun m e => spSet restByte m (f e.1) e.2) []
    imgTags := (s.tags.filter (fun t => mine (4 * t))).foldl (fun m t => insertNat (f (4 * t) / 4) m) []
    barriers := c.barriers.map (fun e => (e.1, e.2.relocate f)) }
  { s1 with mem := s1.mem.filter (fun e => !mine e.1), tags := s1.tags.filter (fun t => !mine (4 * t)) }

/-- A context's local memory is written onto its new clusters in full; the save area keeps it (R324). -/
def loadLocal (s : State) (k : Nat) (c : Ctx) : State :=
  let f := relocate (upTo c.clusters) c.part
  let mine := fun (p : Nat) => inClusters c.part p
  let s1 := setCtx s k { c with imgBarriers := c.barriers, barriers := c.barriers.map (fun e => (e.1, e.2.relocate f)) }
  { s1 with mem := c.imgMem.foldl (fun m e => spSet restByte m (f e.1) e.2) (s1.mem.filter (fun e => !mine e.1))
            tags := c.imgTags.foldl (fun m t => insertNat (f (4 * t) / 4) m) (s1.tags.filter (fun t => !mine (4 * t))) }

/-! ## Kills (R327) -/

/-- A physical core that serves no context. -/
def freeCore : Core := {}

/-- What the save area keeps of a core beside a position: the rank's own memories, the region tags and DCYC (Table 14.4). -/
def keptImage (c : Core) : Core := { loc := c.loc, imem := c.imem, dev := { dcyc := c.dev.dcyc } }

/-- A context's cores are stopped and its clusters released. -/
def dropCores (s : State) (c : Ctx) : State := (coresOf c).foldl (fun st e => setCore st e.2 freeCore) s

/-- Children of a killed launch that were still waiting abort with it (R266), for the same cause (log entry 64). -/
def abortWaitingChildren (s : State) (k : Nat) (cause : Cause) : State :=
  match getCtx s k with
  | none => s
  | some c => (c.launches.filter (fun l => l.phase == .waiting && (match l.origin with
      | .child _ _ _ => true
      | .host _ => false))).foldl (fun st l => abortOne st k l.handle cause) s

/-! ## Flies at their source (R356) -/

/-- The fly of a context that is still here. -/
def findFly (s : State) (k : Nat) : Option Fly := s.link.flies.find? (fun f => f.ctx == k && f.phase != .forward)

/-- A function applied to the fly of a context that is still here. -/
def modFly (s : State) (k : Nat) (f : Fly → Fly) : State :=
  { s with link := { s.link with flies := s.link.flies.map (fun x => if x.ctx = k ∧ x.phase ≠ .forward then f x else x) } }

/-- The fly of a context that stays here is over. -/
def dropFly (s : State) (k : Nat) : State :=
  { s with link := { s.link with flies := s.link.flies.filter (fun x => decide (x.ctx ≠ k) || x.phase == .forward) } }

/-- A fly control packet to the other end (Table 16.4): its first payload byte is the code: 1 bind, 2 end of SEND, 3 a page's new
frame, 4 parked, 5 given up, 6 bound, 7 refused, 8 switched (log entry 21). -/
def flyControlPacket (s : State) (node job rank id code : Nat) (more : List Byte) : Packet :=
  { kind := 0x30, vc := 2, src := s.link.node, dst := node, job := job, rank := rank, srank := rank, addr := 0, tag := id
    launch := 0, stamp := 0, payload := bytesOf 1 code ++ more }

/-- A fly is given up: the packets held for its context are performed here, and the destination is told (R356, R357). -/
def abandonFly (s : State) (f : Fly) (c : Ctx) : State :=
  let s1 := f.held.foldl (fun st p => holdEvent st p.addr (.packet p)) (dropFly s f.ctx)
  sendPacket s1 (flyControlPacket s1 f.node c.job c.rank f.id 5 [])

/-- A context that flew here is parked, and its source has not switched yet: it does not run, and no doorbell reaches it (R356, R357). -/
def awaitsSwitch (s : State) (k : Nat) : Bool := s.link.arrived.any (fun a => a.ctx == k)

/-- A context is killed with a cause: its live launches abort, its cores stop, its position is lost, and its save area stands as the
last save left it (R324, R327). DCYC is saved there, so it counts on from that save when the context is resumed, from 0 where there
was none (DESIGN CHOICE: the spec does not say what a kill leaves of it; log entry 76). A fly of it is given up (log entry 21). -/
def killContext (s : State) (k : Nat) (cause : Cause) : State :=
  match getCtx s k with
  | none => s
  | some c =>
    let s1 := (c.launches.reverse.filter (fun l => l.live)).foldl (fun st l => abortOne st k l.handle cause) s
    let s2 := abortWaitingChildren s1 k cause
    let s3 := dropCores s2 c
    let s4 := modCtx s3 k (fun x =>
      { x with state := .killed, part := [], images := x.images.map (fun e => (e.1, keptImage e.2)), positions := []
               barriers := if c.part.isEmpty then x.barriers else x.imgBarriers, decided := none, claim := false
               saving := false, restoring := false, dog := .off, dogCount := 0, board := [], deques := [], heldBlocks := [], farLines := [], residents := [] })
    let s5 := { s4 with turn := 0, link := { s4.link with requests := s4.link.requests.filter (fun r => decide (r.ctx ≠ k)) } }
    let s6 := match findFly s5 k with
      | some f => abandonFly s5 f c
      | none => s5
    post s6 (.killed k cause.code)

/-- The bytes of the parts of a context's save area that have a fixed size (Table 14.4). -/
def areaBytes (c : Ctx) : Nat := 16 * c.clusters * (117120 + 65536 + 870400 + 1024) + c.clusters * 8650752

/-- The bad bytes of the save area of a context that has no clusters. -/
def areaDamage (s : State) (c : Ctx) : List Nat :=
  s.hw.damaged.filter (fun p => decide (c.area ≤ p) && decide (p < c.area + areaBytes c) && c.part.isEmpty)

/-- A word of the instruction scratchpad, which a restore loads anew and no save reads (R325, R338). -/
def CoreWord.reloaded : CoreWord → Bool
  | .instr _ => true
  | _ => false

/-- An uncorrectable error lies in what a save or restore of a context reads: its save area, or on its cores and clusters (R338). -/
def imageDamaged (s : State) (c : Ctx) : Bool :=
  !(areaDamage s c).isEmpty || s.hw.damaged.any (inClusters c.part) || (coresOf c).any (fun e => (getCore s e.2).bad.any (fun w => !w.reloaded))

/-- A context whose image cannot be read is killed, and the frames of its area that hold the bad bytes are retired (R338, R343). -/
def killDamaged (s : State) (k : Nat) (c : Ctx) : State :=
  killContext ((areaDamage s c).foldl retireFrame s) k .eccUncorr

/-! ## Positions (R289 to R291) -/

/-- The core image that holds a checkpointed point. -/
def imageOf (c : Ctx) (h : Nat) (run : Bool) (idx : Nat) : Nat :=
  ((c.images.find? (fun e =>
    match e.2.task with
    | some t => t.launch == h && t.run == run && t.kind == .point && t.item == idx
    | none => false)).map (fun e => e.1)).getD 0

/-- OUTCOME of an entry (Table 12.6). -/
def pointOutcome (p : Point) : Nat :=
  match p.st with
  | .saved => 1
  | .pending => 2
  | _ => 0

/-- An entry of a frontier image. -/
def positionEntry (c : Ctx) (l : Launch) (run : Bool) (p : Point) : List Byte :=
  bytesOf 8 (packCoords l.desc p.idx) ++ bytesOf 1 (pointOutcome p) ++ bytesOf 1 p.runs ++
    bytesOf 2 (if p.st = .saved then imageOf c l.handle run p.idx else 0) ++ bytesOf 4 0

/-- A point put into its place by ascending T. -/
def insertPoint (p : Point) : List Point → List Point
  | [] => [p]
  | q :: qs => if p.t < q.t then p :: q :: qs else q :: insertPoint p qs

/-- The points in ascending T. -/
def sortPoints (ps : List Point) : List Point := ps.foldl (fun acc p => insertPoint p acc) []

/-- The frontier image of a run of a grid launch (Table 12.6). -/
def frontierImage (c : Ctx) (l : Launch) (run : Bool) : List Byte :=
  let u := l.runOf run
  let edge := decide (0 < l.desc.ndep)
  let rows := if edge then l.desc.rows else 0
  let ps := sortPoints (u.points.filter (fun p => !edge || p.st == .saved || p.st == .pending))
  let pad := (16 - 2 * rows % 16) % 16
  bytesOf 1 (if edge then 0 else 1) ++ bytesOf 1 0 ++ bytesOf 2 rows ++ bytesOf 2 (if edge then l.desc.eLast else 0) ++
    bytesOf 2 ps.length ++ bytesOf 8 (if edge then 0 else u.cursor) ++
    (upTo rows).flatMap (fun r => bytesOf 2 (spGet 0 u.heights r)) ++ List.replicate pad 0 ++
    ps.flatMap (positionEntry c l run)

/-- The points of a run as a save leaves them: a task's point in a core image is checkpointed, and a fired point that has not
started is fired again later (R290). One that has drained, and cannot
merge because its slot depends on one still open, has no core image: its entry shows it started, with IMAGE 0, and it merges after the
restore (DESIGN CHOICE: R289 does not say how the image shows it; log entry 96). -/
def savePoints (l : Launch) (u : RunState) : RunState :=
  let ps := u.points.map (fun p => if p.st = .running then { p with st := .saved } else p)
  { u with points := if l.desc.ndep = 0 then ps else ps.filter (fun p => p.st != .ready) }

/-- A launch at the end of a save: its points, and its frontier store given back (R288). -/
def saveLaunch (l : Launch) : Launch :=
  if l.desc.mode = 0 then { l with a := savePoints l l.a, b := savePoints l l.b, frontier := 0 } else l

/-- Board entries of points that fire again are dropped. -/
def keepEntry (c : Ctx) (e : Entry) : Bool :=
  match e.work with
  | .block _ => true
  | .point _ => ((findLaunch c e.launch).map (fun l => l.desc.ndep == 0)).getD false

/-- The positions of the live grid launches of a context. -/
def positionsOf (c : Ctx) : Sparse (List Byte) :=
  (c.launches.filter (fun l => l.live && l.desc.mode == 0)).foldl (fun m l =>
    let m1 := spPut m (2 * l.handle) (frontierImage c l false)
    if l.desc.flag 1 then spPut m1 (2 * l.handle + 1) (frontierImage c l true) else m1) []

/-! ## SAVE_COMPLETE (R325) -/

/-- A core's image: its caches are empty, and a member of a gang has not issued its MWAIT (R181). -/
def imageCore (f : Nat → Nat) (c : Core) : Core :=
  { c with ctx := none, tlb := [], lease := [], heldOn := none, outcome := .nothing, drainBy := none
           sync := c.sync.map (SyncOp.relocate f), mx := { c.mx with joined := false } }

/-- The images of a context's cores are written and its clusters pass on. -/
def writeImages (s : State) (k : Nat) (c : Ctx) : State :=
  let f := relocate c.part (upTo c.clusters)
  let images := (coresOf c).foldl (fun m e => spPut m e.1 (imageCore f (getCore s e.2))) ([] : Sparse Core)
  let s1 := (coresOf c).foldl (fun st e => setCore st e.2 freeCore) s
  saveLocal s1 k { c with images := images }

/-- The images and positions of a context are written, and its clusters pass on (R325). -/
def saveNow (s : State) (k : Nat) (c : Ctx) : State :=
  let held := c.launches.foldl (fun a l => a + l.frontier) 0
  let die := boardDie c
  let s1 := setFrontier s die (frontierUsed s die - held)
  let s2 := writeImages s1 k c
  let s3 := modCtx s2 k (fun x =>
    let y := { x with launches := x.launches.map saveLaunch, board := x.board.filter (keepEntry x) }
    { y with positions := positionsOf y, part := [], state := .parked, decided := none, saving := false, dog := .off
             dogCount := 0 })
  { s3 with turn := 0 }

/-- SAVE_COMPLETE (R325): the context is parked, or killed where its image cannot be read (R338). -/
def execSaveComplete (ctx : Nat) (s : State) : Out :=
  .next (
    match getCtx s ctx with
    | none => s
    | some c =>
      if !ctxSavable s c then s
      else if imageDamaged s c then killDamaged s ctx c
      else saveNow s ctx c)

/-! ## RESTORE (R288, R292, R324) -/

/-- Every half-die instance of a partition lies in one physical half of a die, and every die instance on one die (R277). -/
def halvesOk (cl : List Nat) : Bool :=
  (upTo cl.length).all (fun i => cl.getD i 0 / 4 == cl.getD (i / 4 * 4) 0 / 4 && cl.getD i 0 / 8 == cl.getD (i / 8 * 8) 0 / 8)

/-- Clusters in ascending order, each free and no more than the package has, with instances in their places (R277). -/
def clustersOk (s : State) (c : Ctx) (cl : List Nat) : Bool :=
  cl.length == c.clusters && spRising 0 (cl.map (fun x => (x, ()))) && cl.all (fun x => (freeClusters s).contains x) && halvesOk cl

/-- The image of a logical core, or a core at rest for a context that never ran. -/
def restoredCore (c : Ctx) (k i : Nat) (f : Nat → Nat) : Core :=
  let m : Core := spGet {} c.images i
  let st : CoreStatus := if m.status = .held then .held else if m.task.isSome then .stopped else .idle
  { m with ctx := some k, logical := i, status := st, sync := m.sync.map (SyncOp.relocate f), bad := [] }

/-- RESTORE (R324): a parked context is written onto clusters whose die has room for its frontiers and its ready work (R302); what another job used there last is
wiped first (R350). A context whose image cannot be read is killed (R338). -/
def execRestore (ctx : Nat) (clusters : List Nat) (s : State) : Out :=
  .next (
    match getCtx s ctx with
    | none => s
    | some c =>
      let c1 := { c with part := clusters }
      let die := boardDie c1
      if c.state ≠ .parked ∨ c.restoring ∨ awaitsSwitch s ctx ∨ !clustersOk s c clusters ∨ 65536 < frontierUsed s die + frontierNeed c ∨
          c.overflowCap + boardShare s ctx die < c.board.length then s
      else if imageDamaged s c then killDamaged s ctx c
      else
        let f := relocate (upTo c.clusters) clusters
        let s0 := clusters.foldl (fun st x => claimCluster st c.job x) s
        let s1 := loadLocal s0 ctx { ((getCtx s0 ctx).getD c) with part := clusters }
        let s2 := (coresOf c1).foldl (fun st e => setCore st e.2 (restoredCore c ctx e.1 f)) s1
        let s3 := setFrontier s2 die (frontierUsed s2 die + frontierNeed c)
        modCtx s3 ctx (fun x =>
          { x with
            restoring := true, claim := false, dog := .saving, dogCount := 0
            board := placeEntries (boardShare s ctx die) x.board
            images := x.images.map (fun e => (e.1, keptImage e.2))
            launches := x.launches.map (fun l => if l.live then { l with frontier := frontierBytes l } else l) }))

/-- The points of a run go on: checkpointed ones run, those that waited for a page are offered again (R292). -/
def resumePoints (s : State) (k : Nat) (l : Launch) (run : Bool) : State :=
  let again := (l.runOf run).points.filter (fun p => p.st == .pending)
  let s1 := modRun s k l.handle run (fun r => { r with points := r.points.map (fun p =>
    if p.st = .saved then { p with st := .running } else p) })
  again.foldl (fun st p => offerAgain st k l.handle run p.idx p.t .translate) s1

/-- The waits of a core on remote doublewords are armed again at their homes (R186). -/
def rearmAway (s : State) (n : Nat) : State :=
  (getCore s n).sync.foldl (fun st o =>
    match o.kind with
    | .waitvAway ne v _ tgt node addr va =>
      if (waitRequest st n o.id 0).isSome then st
      else requestMonitor st n tgt node addr va o.id 0 (waitCode ne) v 2 (getCore st n).ctl.pc
    | _ => st) s

/-- The waits of a core are armed again, in their order (R186, R188). -/
def rearmWaits (s : State) (n : Nat) : State :=
  (getCore s n).sync.foldl (fun st o => putSync { st with seq := st.seq + 1 } n { o with armed := st.seq }) s

/-- A stopped core of a context resumes with replay (R316); its waits, and those of one that is held, are armed again (R186). -/
def resumeCore (s : State) (n : Nat) : State :=
  let s1 := rearmWaits s n
  if (getCore s n).status = .stopped then
    rearmAway (modCore s1 n (fun q => { q.fromBuffer with status := .running, outcome := .nothing })) n
  else s1

/-- RESTORE_COMPLETE (R292, R325): all cores resume in one cycle, and points fire again. -/
def execRestoreComplete (ctx : Nat) (s : State) : Out :=
  .next (
    match getCtx s ctx with
    | none => s
    | some c =>
      if !c.restoring then s
      else
        let s1 := (coresOf c).foldl (fun st e => resumeCore st e.2) s
        let held := ctxHeld s1 ctx
        let s2 := modCtx s1 ctx (fun x =>
          { x with restoring := false, state := .running, dog := if held then .off else .armed, dogCount := 0, positions := []
                   launches := x.launches.map (fun l => { l with newcomer := false }) })
        let live := c.launches.filter (fun l => l.live && l.desc.mode == 0)
        let s3 := live.foldl (fun st l =>
          let st1 := resumePoints st ctx l false
          let st2 := if l.desc.flag 1 then resumePoints st1 ctx l true else st1
          let st3 := advanceGrid st2 ctx l.handle false
          if l.desc.flag 1 then advanceGrid st3 ctx l.handle true else st3) s2
        settle s3)

/-! ## The watchdog and system software (R326, R327, R352) -/

/-- WATCHDOG_FIRE (R326, R327). -/
def execWatchdogFire (ctx : Nat) (s : State) : Out :=
  .next (
    match getCtx s ctx with
    | none => s
    | some c =>
      if (c.dog = .armed ∨ c.dog = .saving) ∧ 2 ^ c.wlog ≤ c.dogCount then killContext s ctx .watchdog else s)

/-- CONTEXT_KILL (R327): by system software, with CAUSE 0x00. -/
def execContextKill (ctx : Nat) (s : State) : Out :=
  .next (
    match getCtx s ctx with
    | none => s
    | some c => if c.state = .killed then s else killContext s ctx .none)

/-- The contexts that count among the 64 (R352). -/
def residentCount (s : State) : Nat := (s.ctxs.filter (fun e => e.2.state != .killed)).length

/-- A line's owner once a context goes by another number. -/
def LineOwner.renumber (o : LineOwner) (k k2 : Nat) : LineOwner :=
  match o with
  | .launch c h run => if c = k then .launch k2 h run else o
  | _ => o

/-- A context that has no cores goes by another number, with what names it (log entry 79). -/
def renumberCtx (s : State) (k k2 : Nat) : State :=
  match getCtx s k with
  | none => s
  | some c =>
    let at_ := fun (x : Nat) => if x = k then k2 else x
    let step := fun (x : ChunkStep) => { x with ctx := at_ x.ctx }
    let own := fun (t : Sparse Version) => t.map (fun e => (e.1, { e.2 with owner := e.2.owner.renumber k k2 }))
    { s with
      ctxs := spPut (spErase s.ctxs k) k2 c
      link := { s.link with
        requests := s.link.requests.map (fun r => { r with ctx := at_ r.ctx })
        monitors := s.link.monitors.map (fun m => { m with ctx := at_ m.ctx })
        arrived := s.link.arrived.map (fun a => { a with ctx := at_ a.ctx }) }
      chorus := { s.chorus with
        steps := s.chorus.steps.map step, asking := s.chorus.asking.map step
        requests := s.chorus.requests.map (fun e => (e.1, e.2.map (fun r => { r with ctx := at_ r.ctx }))) }
      hw := { s.hw with
        tlb0 := s.hw.tlb0.filter (fun e => decide (e.ctx ≠ k)), tlb1 := s.hw.tlb1.filter (fun e => decide (e.ctx ≠ k))
        walks := s.hw.walks.filter (fun w => decide (w.ctx ≠ k))
        versions0 := own s.hw.versions0, versions1 := own s.hw.versions1
        seqs := s.hw.seqs.map (fun q => { q with held := q.held.map (fun e => { e with ctx := at_ e.ctx }) }) } }

/-- CONTEXT_RESUME (R327): a killed context restarts from its queues with no position, in its own resident slot or, where another
has that, in the lowest free one (R352). -/
def execContextResume (ctx : Nat) (s : State) : Out :=
  .next (
    match getCtx s ctx with
    | none => s
    | some c =>
      if c.state ≠ .killed ∨ 64 ≤ residentCount s then s
      else
        match (if ctx < 64 then some ctx else (upTo 64).find? (fun k => (getCtx s k).isNone)) with
        | none => s
        | some k => modCtx (if k = ctx then s else renumberCtx s ctx k) k (fun x => { x with state := .parked }))

/-- A context is here no more; the waits that others have armed in its memory are refused (R362). -/
def removeCtx (s : State) (k : Nat) : State :=
  (s.link.monitors.filter (fun m => m.ctx == k)).foldl (fun st m => refusePacket st m.packet)
    { s with
      ctxs := spErase s.ctxs k
      link := { s.link with
        monitors := s.link.monitors.filter (fun m => m.ctx != k), arrived := s.link.arrived.filter (fun a => a.ctx != k) } }

/-- CONTEXT_FREE (R352): a killed context is freed. -/
def execContextFree (ctx : Nat) (s : State) : Out :=
  .next (
    match getCtx s ctx with
    | none => s
    | some c => if c.state ≠ .killed then s else removeCtx s ctx)

/-! ## The debugger (R312, R332 to R334) -/

/-- DBG_SET (R332): reserved bits read as zero. -/
def execDbgSet (ctx core index value : Nat) (s : State) : Out :=
  .next (modCtx s ctx (fun c =>
    if index < 8 ∧ core < 16 * c.clusters then
      { c with dbg := spSet 0 c.dbg (8 * core + index) (BitVec.ofNat 64 value &&& 0x80FC0FFF) }
    else c))

/-- DEBUG_RESUME (R334): the held task resumes with replay, and the comparators are ignored for its first bundle. -/
def execDebugResume (core : Nat) (s : State) : Out :=
  let c := getCore s core
  .next (
    match c.ctx with
    | none => s
    | some k =>
      if c.status ≠ .held ∨ ((getCtx s k).map (fun x => x.state != .running || x.restoring || x.saving)).getD true then s
      else
        let s1 := rearmAway (modCore s core (fun q =>
          { q.fromBuffer with status := .running, ctl := { q.fromBuffer.ctl with skipBreak := true } })) core
        if ctxHeld s1 k then s1 else modCtx s1 k (fun x => { x with dog := .armed, dogCount := 0 }))

/-- DEBUGGER_ATTACH (R312). -/
def execDebuggerAttach (ctx : Nat) (on : Bool) (s : State) : Out := .next (modCtx s ctx (fun c => { c with debugger := on }))

/-- A core stops for a whole-context save; one that is held stays held. -/
def stopForSave (c : Core) : Core :=
  match c.task with
  | none => c
  | some t => if c.status = .held ∨ t.phase = .held then c else stopCore c

/-- DEBUG_CONTEXT_SAVE (R334): the whole context of a held task is saved; tasks that end drain first. -/
def execDebugContextSave (ctx : Nat) (s : State) : Out :=
  .next (
    match getCtx s ctx with
    | none => s
    | some c =>
      if c.state ≠ .running ∨ c.saving ∨ c.restoring ∨ !ctxHeld s ctx then s
      else
        let s1 := modCtx s ctx (fun x => { x with saving := true, dog := .saving, dogCount := 0 })
        (coresOf c).foldl (fun q e =>
          let st := putBackTget q e.2
          match (getCore st e.2).task with
          | some t =>
            match t.phase with
            | .held => putBackWork st e.2 ctx t
            | .ending _ => modCore st e.2 (fun q => { q with outcome := .drain, drainBy := none })
            | _ => dropAways (modCore st e.2 stopForSave) e.2
          | none => st) s1)

end Sys2Proof.Machine
end

