-- ==== Sys2Proof/WellFormed.lean ====
section
/-!
DEFINITION. The operand limits of the instruction entries (R73, R117, R165 and the tables of the instruction chapters) and
the slots that accept an instruction (R64, R68, R69). A slot word that decodes to an instruction outside them is ILLEGAL,
decided at fetch (R75). An event has no operand limits.
-/
namespace Sys2Proof

/-- T is an integer element type (R69). -/
def tInt (t : BitVec 3) : Bool := decide (t.toNat ≤ 2)

/-- T is a floating element type. -/
def tFloat (t : BitVec 3) : Bool := decide (3 ≤ t.toNat)

/-- T is BF16, FP16 or FP32 (R137). -/
def tSpecial (t : BitVec 3) : Bool := decide (3 ≤ t.toNat) && decide (t.toNat ≤ 5)

/-- The element size s in bytes (R69, R117). -/
def tSize (t : BitVec 3) : Nat :=
  match t.toNat with
  | 0 | 6 | 7 => 1
  | 1 | 3 | 4 => 2
  | _ => 4

/-- The element count n = 256 / s (R117). -/
def tCount (t : BitVec 3) : Nat := 256 / tSize t

/-- The limits of a shift: an amount below the width with I, no amount without it, and no register with it (R122). -/
def shiftOk (t : BitVec 3) (v : BitVec 4) (i : BitVec 1) (a : BitVec 5) : Bool :=
  tInt t && (if i = 1 then v == 0 && decide (a.toNat < 8 * tSize t) else a == 0)

/-- The limits that the conversions share: mode 7 is ILLEGAL and VT is 0 unless the mode is SR (R129, R130). -/
def modeOk (v : BitVec 4) (m : BitVec 3) : Bool := m != 7 && (m == 5 || v == 0)

/-- A format of VCVT (R129). -/
def vcvtFmtOk (f : BitVec 5) : Bool := decide (f.toNat ≤ 0x05) || (decide (0x08 ≤ f.toNat) && decide (f.toNat ≤ 0x0C))

/-- A packed format of VPACK and VUNPK (R130). -/
def packFmtOk (f : BitVec 5) : Bool :=
  (decide (0x0D ≤ f.toNat) && decide (f.toNat ≤ 0x11)) || (decide (0x18 ≤ f.toNat) && decide (f.toNat ≤ 0x1C))

/-- A part of a register that ACR and ACW may name (R139, R140). -/
def partOk (t : BitVec 3) (a : BitVec 2) : Bool := decide (64 * (a.toNat + 1) ≤ tCount t)

/-- A device register that GETD reads: a listed index (Table 1.5). -/
def devListed (i : Nat) : Bool :=
  decide (i ≤ 0x004) || (decide (0x006 ≤ i) && decide (i ≤ 0x00A)) || (decide (0x010 ≤ i) && decide (i ≤ 0x013)) ||
    (decide (0x020 ≤ i) && decide (i ≤ 0x026)) || (decide (0x030 ≤ i) && decide (i ≤ 0x040))

/-- A device register that SETD writes: RW or W1C (Table 1.5). -/
def devWritable (i : Nat) : Bool :=
  match i with
  | 0x001 | 0x008 | 0x009 | 0x00A | 0x012 | 0x020 | 0x025 => true
  | _ => false

/-- A scope of a custom-2 instruction (R68, R195). -/
def scopeOk (c : BitVec 2) : Bool := c != 3

/-- An operation of VRED (Table 6.3), with the even register pair of OFADD (R157). -/
def vredOk (o x : BitVec 5) : Bool := decide (o.toNat ≤ 8) || (o == 0x18 && decide (x.toNat % 2 = 0))

/-- Rows `r` to `r + n` lie in an accumulator (R165). -/
def rowsOk (r n : BitVec 6) : Bool := decide (r.toNat + n.toNat ≤ 63)

/-- The operand limits of an instruction's entry. -/
def WellFormed (i : Instr) : Bool :=
  match i with
  | .br _ _ c _ _ => decide (c.toNat ≤ 5)
  | .loop _ _ _ l => l != 0
  | .loopi _ _ n l => n != 0 && l != 0
  | .waitc _ _ n => n != 0
  | .iwait _ _ g => decide (g.toNat ≤ 127)
  | .shw e _ _ _ | .shr e _ _ _ => e != 3
  | .getd i j _ => devListed (32 * i.toNat + j.toNat)
  | .setd i j _ => devWritable (32 * i.toNat + j.toNat)
  | .amoadd c _ _ _ _ | .amoswap c _ _ _ _ | .amocas c _ _ _ _ | .amoand c _ _ _ _ | .amoor c _ _ _ _
  | .amoxor c _ _ _ _ | .amomin c _ _ _ _ | .amomax c _ _ _ _ | .amominu c _ _ _ _ | .amomaxu c _ _ _ _
  | .amofadd c _ _ _ => scopeOk c
  | .redadd c _ _ _ | .redand c _ _ _ | .redor c _ _ _ | .redxor c _ _ _ | .redmin c _ _ _ | .redmax c _ _ _
  | .redminu c _ _ _ | .redmaxu c _ _ _ | .redofadd c _ _ _ | .lda c _ _ _ | .stl c _ _ _ => scopeOk c
  | .redfadd c _ _ => scopeOk c
  | .fence c k => scopeOk c && k != 3
  | .vadd t _ _ _ _ | .vsub t _ _ _ _ | .vmul t _ _ _ _ | .vmac t _ _ _ _ | .vand t _ _ _ _ | .vor t _ _ _ _
  | .vxor t _ _ _ _ => tInt t
  | .vmulh t _ _ _ _ _ | .vmin t _ _ _ _ _ | .vmax t _ _ _ _ _ => tInt t
  | .vshl t _ _ v _ i a | .vshr t _ _ v _ i a | .vsra t _ _ v _ i a => shiftOk t v i a
  | .vabs t _ _ _ => tInt t
  | .vadds t _ _ _ _ _ _ => tInt t
  | .vfadd t _ _ _ _ | .vfsub t _ _ _ _ | .vfmul t _ _ _ _ | .vfma t _ _ _ _ | .vfms t _ _ _ _ | .vfmin t _ _ _ _
  | .vfmax t _ _ _ _ => tFloat t
  | .vfsgn t _ _ _ _ m => tFloat t && m != 3
  | .vcmp t _ _ _ _ u c => decide (c.toNat ≤ 5) && (u == 0 || tInt t)
  | .vmovi t _ i j _ _ => tSize t != 1 || (i == 0 && j == 0)
  | .vrot t _ _ _ a | .vbcast t _ _ _ a => decide (a.toNat < tCount t)
  | .vcvt _ _ _ v _ f m => vcvtFmtOk f && modeOk v m
  | .vpack _ _ _ v _ f m | .vunpk _ _ _ v _ f m => packFmtOk f && modeOk v m
  | .vext t i _ j _ => decide (16 * i.toNat + j.toNat < tCount t)
  | .vins t _ i j _ => decide (16 * i.toNat + j.toNat < tCount t)
  | .vexp2 t _ _ _ | .vlog2 t _ _ _ | .vrcp t _ _ _ | .vrsqrt t _ _ _ | .vsqrt t _ _ _ | .vtanh t _ _ _
  | .verf t _ _ _ => tSpecial t
  | .acr t _ _ _ m _ a _ => partOk t a && m != 5 && m != 7
  | .acw t _ _ _ a _ => partOk t a
  | .vred _ _ x _ o => vredOk o x
  | .mma _ _ n _ r | .mmz _ _ n _ r | .mout _ _ n _ r => rowsOk r n
  | .mmg _ _ n _ _ r | .mtl _ _ n _ _ r => rowsOk r n
  | .msm c _ n _ r o => rowsOk r n && o != c
  | .mside _ o _ => o != 3
  | .cwait a t => a == 0 || t == 0
  | _ => true

/-- A custom-1, custom-2 or custom-3 instruction, which only SB accepts (R68). -/
def onlySb (i : Instr) : Bool :=
  match i with
  | .ldfW _ _ | .ldfD _ _ | .ldfeW _ _ | .ldfeD _ _ | .ldt _ _ | .steW _ _ | .steD _ _ | .stfW _ _ | .stfD _ _ | .sete _
  | .setf _ | .bari _ _ | .bara _ _ | .barw _ _ _ | .baraw _ _ _ | .barc _ _ | .bart _ _ | .waitvEq _ _ _
  | .waitvNe _ _ _ => true
  | .amoadd _ _ _ _ _ | .amoswap _ _ _ _ _ | .amocas _ _ _ _ _ | .amoand _ _ _ _ _ | .amoor _ _ _ _ _
  | .amoxor _ _ _ _ _ | .amomin _ _ _ _ _ | .amomax _ _ _ _ _ | .amominu _ _ _ _ _ | .amomaxu _ _ _ _ _
  | .amofadd _ _ _ _ => true
  | .redadd _ _ _ _ | .redand _ _ _ _ | .redor _ _ _ _ | .redxor _ _ _ _ | .redmin _ _ _ _ | .redmax _ _ _ _
  | .redminu _ _ _ _ | .redmaxu _ _ _ _ | .redfadd _ _ _ | .redofadd _ _ _ _ | .lda _ _ _ _ | .stl _ _ _ _
  | .fence _ _ => true
  | .tget _ _ _ | .tdone _ | .tabort _ | .tspawn _ _ | .launch _ _ _ | .lwait _ _ | .rand _ => true
  | _ => false

/-- A special function or accumulator move, opcodes 0x34 to 0x3E, which only VB accepts (R69). -/
def onlyVb (i : Instr) : Bool :=
  match i with
  | .vexp2 _ _ _ _ | .vlog2 _ _ _ _ | .vrcp _ _ _ _ | .vrsqrt _ _ _ _ | .vsqrt _ _ _ _ | .vtanh _ _ _ _
  | .verf _ _ _ _ => true
  | .acr _ _ _ _ _ _ _ _ | .acw _ _ _ _ _ _ | .acs _ _ _ _ | .acsw _ _ _ _ => true
  | _ => false

/-- An instruction that a slot word of slot k may be (R64, R68, R69, R73): within its entry's limits and accepted there. -/
def wellFormedIn (k : Nat) (i : Instr) : Bool :=
  WellFormed i && (k != 1 || !onlySb i) && (k != 3 || !onlyVb i)

end Sys2Proof
end

