-- ==== Sys2Proof/Machine/Pages.lean ====
section
/-!
DEFINITION. Events of translation, code and residency: page-table walks (R328), pages that system software supplies (R329, R330,
R349), loading and unloading of code objects (R89 to R91, R331), creating, demoting and classing of contexts (R305, R353, R354).
-/
namespace Sys2Proof.Machine

/-! ## Translation caches (R349) -/

/-- A translation as a cache entry: a walk that failed is remembered until the mapping changes. -/
def tlbOfWalk (va : Nat) : WalkEnd → TlbEntry
  | .leaf bits tgt node addr rd wr => ⟨va / 2 ^ bits, bits, tgt, node, addr, rd, wr, none⟩
  | .unmapped => ⟨va / 65536, 16, 0, 0, 0, false, false, some .translate⟩
  | .malformed => ⟨va / 65536, 16, 0, 0, 0, false, false, some .protect⟩

/-- A function applied to the cores that run a context. -/
def modCtxCores (s : State) (k : Nat) (f : Core → Core) : State :=
  { s with cores := s.cores.map (fun e => if e.2.ctx = some k then (e.1, f e.2) else e) }

/-- An entry put into a core's translation cache of 64 entries (R349) in place of one for the same page; where it is full another
leaves it, a free choice (log entry 4). -/
def Core.addTlb (c : Core) (e : TlbEntry) (pick : Nat) : Core :=
  let m := c.tlb.filter (fun q => !(q.page == e.page && q.bits == e.bits))
  { c with tlb := e :: (if m.length < 64 then m else m.eraseIdx (pick % m.length)) }

/-- An entry put into a die's translation cache of 8,192 entries (R349). -/
def addDieEntry (m : List DieTlbEntry) (e : DieTlbEntry) (pick : Nat) : List DieTlbEntry :=
  let old := m.filter (fun q => !(q.ctx == e.ctx && q.entry.page == e.entry.page && q.entry.bits == e.entry.bits))
  e :: (if old.length < 8192 then old else old.eraseIdx (pick % old.length))

/-- A walk's result enters the cache of its die and those of the die's cores that run the context (R328, R349). -/
def enterTlbs (s : State) (w : Walk) (e : TlbEntry) : State :=
  let pick := Config.tlbVictim s.fresh
  let d : DieTlbEntry := { ctx := w.ctx, entry := e }
  { s with
    fresh := s.fresh + 1
    cores := s.cores.map (fun c => if c.2.ctx = some w.ctx ∧ dieOf c.1 = w.die then (c.1, c.2.addTlb e pick) else c)
    hw := if w.die = 0 then { s.hw with tlb0 := addDieEntry s.hw.tlb0 d pick } else { s.hw with tlb1 := addDieEntry s.hw.tlb1 d pick } }

/-- Every translation of a context is removed from every translation cache (R330). -/
def clearTlbs (s : State) (k : Nat) : State := keepTlbs s (fun c _ => c != k)

/-- The walks that walkers have taken up: the first 256 of each die, in the order of their arrival (R328). -/
def runningWalks (s : State) : List Nat :=
  let of := fun (die : Nat) => ((upTo s.hw.walks.length).filter (fun i => (s.hw.walks[i]?).any (fun w => w.die == die))).take 256
  of 0 ++ of 1

/-- PAGE_WALK_COMPLETE (R328): the walk's result enters the caches of its context; a malformed entry is reported (R348). -/
def execPageWalkComplete (walk : Nat) (s : State) : Out :=
  .next (
    match s.hw.walks[walk]? with
    | none => s
    | some w =>
      if !(runningWalks s).contains walk then s
      else
        let s1 := { s with hw := { s.hw with walks := s.hw.walks.eraseIdx walk } }
        match getCtx s1 w.ctx with
        | none => s1
        | some c =>
          let va := 65536 * w.page
          let r := walkTable s1 c.root va
          let s2 := enterTlbs s1 w (tlbOfWalk va r)
          match r with
          | .malformed => post s2 (.pageTable w.ctx w.page)
          | _ => s2)

/-! ## Pages reported by system software (R329) -/

/-- The points of a run that wait for a page are re-queued under their key (R298); after a pre-emption decision the restore
offers them (R292). -/
def requeuePoints (s : State) (k h : Nat) (run : Bool) (page : Nat) : State :=
  match getCtx s k, getLaunch s k h with
  | some c, some l =>
    if ctxFrozen c then s
    else
      let due := (l.runOf run).points.filter (fun p => p.st == .pending && p.page == page)
      due.foldl (fun st p => offerAgain st k h run p.idx p.t .translate) s
  | _, _ => s

/-- A core takes the block that it holds, which can be read now (R253, R294). -/
def startTaken (s : State) (k : Nat) (b : HeldBlock) : State :=
  match getCtx s k with
  | none => s
  | some c =>
    let n := physCore c.part b.logical
    match (getCore s n).task, waitingTget (getCore s n) with
    | some t, some o =>
      let holds := match o.kind with
        | .tget _ _ held => held == some b.addr && t.launch == b.launch && t.run == b.run
        | _ => false
      if c.part.isEmpty || !holds then s else tgetPass s n o (ctxTakes c && (getCore s n).outcome == .nothing)
    | some t, none =>
      let holds := t.phase == .held && t.kind == .block && t.item == b.addr && t.launch == b.launch && t.run == b.run
      if c.part.isEmpty || !holds || !ctxTakes c then s else startTask s n
    | none, _ => s

/-- Work on a block that waited goes on (R294 to R297). -/
def retryBlock (s : State) (k : Nat) (b : HeldBlock) : State :=
  let w := hwWho k b.launch b.run
  if ((getLaunch s k b.launch).map (fun l => l.ended)).getD true ∧ !b.kind.isWrite then s
  else
    match b.kind with
    | .write off size v => setBlockField s w b.addr off size v
    | .kill code => killBlock s w code b.addr
    | .join initial => joinBlock s k b.launch b.run b.addr b.logical initial
    | .spawn key => spawnBlock s k b.launch b.run b.addr key b.logical
    | .release => releaseSuccessor s k b.launch b.run b.logical b.addr
    | .counted before => countedDown s k b.launch b.run b.logical b.addr before
    | .successors next =>
      let n := blockField s w b.addr 0x1C 4
      releaseFrom k b.launch b.run b.logical b.addr (n - next) next s
    | .rerun cause => readyAgain s k b.launch b.run b.addr b.logical cause
    | .queue initial next => enterBlock s k b.launch b.run b.addr b.logical initial next
    | .take => startTaken s k b

/-- A spawn. -/
def HeldKind.isSpawn : HeldKind → Bool
  | .spawn _ => true
  | _ => false

/-- An operation on a block has been performed at its home in another package (R202, R294). -/
def answeredBlock (s : State) (k : Nat) (b : HeldBlock) : State :=
  match b.kind with
  | .spawn key => if ((getLaunch s k b.launch).map (fun l => l.ended)).getD true then s else spawnedFar s k b.launch b.run b.addr key b.logical
  | _ => retryBlock s k b

/-- The translations that a walk found missing are forgotten. -/
def forgetPage (s : State) (k page : Nat) : State :=
  modCtx (keepTlbs s (fun c e => !(c == k && e.bad.isSome && e.page == page))) k
    (fun c => { c with faults := c.faults.filter (fun p => decide (p ≠ page)) })

/-- The runs of a context's launches in which every core has ended are looked at again (R297, R298). -/
def checkEveryRun (s : State) (k : Nat) : State :=
  match getCtx s k with
  | none => s
  | some c => c.launches.foldl (fun st l =>
      let s1 := checkHalted st k l.handle false
      if l.desc.flag 1 then checkHalted s1 k l.handle true else s1) s

/-- The home of a block in another package has answered (R294): the line read is kept for the run, with what the hardware itself has
written in a rehearsal, or the count has fallen there; what waited for the answer goes on, and reads the line in that moment only. -/
def farAnswer (s : State) (r : Request) (bytes : List Byte) (deps : List Nat) : State :=
  let w := hwWho r.ctx r.launch (r.off == 1)
  match getLaunch s r.ctx r.launch, getCtx s r.ctx with
  | some l, some c =>
    let before := ofBytes (bytes.take 4)
    let mine := fun (b : HeldBlock) => b.wait == .answer r.tag
    let spawns := c.heldBlocks.any (fun b => mine b && b.kind.isSpawn)
    let s1 :=
      if r.kind = 0x02 ∨ spawns then
        let seen := (upTo 64).map (fun i => ((viewFind s w (farPlace (r.va + i))).map (fun b => b.2.byte)).getD (bytes.getD i 0))
        putLine s w { launch := r.launch, run := w.run, addr := r.va, bytes := seen, deps := deps, fresh := true }
      else
        let s0 := writeLine s w r.va (bytesOf 4 (before + 2 ^ 32 - 1))
        modCtx s0 r.ctx (fun x => { x with farLines := x.farLines.map (fun q =>
          if q.launch = w.launch ∧ q.run = w.run ∧ q.addr = r.va / 64 * 64 then { q with fresh := true } else q) })
    let due := (c.heldBlocks.filter mine).map (fun b =>
      match b.kind with
      | .counted _ => { b with kind := .counted before }
      | _ => b)
    let s2 := modCtx s1 r.ctx (fun x => { x with heldBlocks := x.heldBlocks.filter (fun b => !mine b) })
    let s3 := modCtx (due.foldl (fun st b => if r.kind = 0x06 then answeredBlock st r.ctx b else retryBlock st r.ctx b) s2) r.ctx (fun x =>
      { x with farLines := x.farLines.map (fun q => { q with fresh := false }) })
    if l.ended then s else checkEveryRun s3 r.ctx
  | _, _ => s

/-- PAGE_PRESENT (R329): what waited for the page goes on. -/
def execPagePresent (ctx page : Nat) (s : State) : Out :=
  .next (
    match getCtx s ctx with
    | none => s
    | some c =>
      let s1 := forgetPage s ctx page
      let s3 := modCtx s1 ctx (fun x =>
        { x with heldBlocks := x.heldBlocks.filter (fun b => decide (b.wait ≠ .page page))
                 residents := x.residents.filter (fun w => decide (w.page ≠ page)) })
      let s4 := c.launches.foldl (fun st l =>
        requeuePoints (requeuePoints st ctx l.handle false page) ctx l.handle true page) s3
      settle (checkEveryRun ((c.heldBlocks.filter (fun b => b.wait == .page page)).foldl (fun st b => retryBlock st ctx b) s4) ctx))

/-- The launches of a context that wait for a page, with tasks, blocks or resident programs (R295, R329). -/
def launchesAtPage (s : State) (k page : Nat) (c : Ctx) : List Nat :=
  let pts := c.launches.filter (fun l => (l.a.points ++ l.b.points).any (fun p => p.st == .pending && p.page == page))
  let blocks := c.heldBlocks.filter (fun b => b.wait == .page page)
  let residents := c.residents.filter (fun w => w.page == page)
  let ready := (c.board ++ c.deques.flatMap (fun d => d.2)).filter (fun e =>
    match e.work with
    | .point _ => false
    | .block a => a / 65536 == page && blockHome s k a == .absent)
  (pts.map (fun l => l.handle) ++ ready.map (fun e => e.launch) ++ blocks.map (fun b => b.launch) ++ residents.map (fun w => w.launch)).foldl (fun acc h => insertNat h acc) []

/-- ADDRESS_INVALID (R329): the launches that wait for the page abort with TRANSLATE. -/
def execAddressInvalid (ctx page : Nat) (s : State) : Out :=
  .next (
    match getCtx s ctx with
    | none => s
    | some c =>
      modCtx ((launchesAtPage s ctx page c).foldl (fun st h => abortLaunch st ctx h .translate) (forgetPage s ctx page)) ctx
        (fun x => { x with heldBlocks := x.heldBlocks.filter (fun b => decide (b.wait ≠ .page page)) }))

/-! ## Changes of mapping (R330, R349) -/

/-- Two ranges of addresses share a byte. -/
def meets (a b : Nat × Nat) : Bool := decide (a.1 < b.1 + b.2) && decide (b.1 < a.1 + a.2)

/-- The memory set aside for flies: the frames and save areas of contexts that arrive, and the old frames for which packets are still
forwarded (R356, R358; log entry 21). -/
def reservedRanges (s : State) : List (Nat × Nat) :=
  s.link.copies.flatMap (fun y => (y.area, areaBytes y.ctx) :: y.frames.map (fun e => (e.1, 2 ^ e.2))) ++
    (s.link.flies.filter (fun f => f.phase == .forward)).flatMap (fun f => f.frames.map (fun e => (65536 * e.1, 65536)))

/-- A range of package memory that no context is given: the pools of the chorus (R366), and what is set aside for flies (R356). -/
def taken (s : State) (addr size : Nat) : Bool := heldBack addr size || (reservedRanges s).any (meets (addr, size))

/-- A context maps memory that no context is given (R356, R366). -/
def mapsTaken (s : State) (k : Nat) : Bool :=
  match getCtx s k with
  | none => false
  | some c => (framesOf s c).any (fun e => taken s e.1 e.2)

/-- MAPPING_CHANGE (R330): system software rewrites an entry; a frame that passes to another job is wiped (R350), and the old
translations are gone when it completes. One that would map memory that no context is given is refused (R356, R366). -/
def execMappingChange (ctx place entry : Nat) (s : State) : Out :=
  .next (
    if (getCtx s ctx).isNone ∨ place % 8 ≠ 0 ∨ !physExists place then s
    else
      let s1 := writeDirect s place (bytesOf 8 entry)
      if mapsTaken s1 ctx then post s (.refused 4) else clearTlbs (claimPages s s1 ctx) ctx)

/-- The place of the leaf entry that maps an address, with the bits of its page. -/
def leafPlace (s : State) (va : Nat) : Nat → Nat → Nat → Option (Nat × Nat)
  | 0, _, _ => none
  | fuel + 1, level, table =>
    let lo := if level = 1 then 38 else if level = 2 then 27 else 16
    let p := table + 8 * field va lo (if level = 1 then 10 else 11)
    let e := rawNat s p 8
    if !bitAt e 0 then none
    else if bitAt e 2 then some (p, lo)
    else leafPlace s va fuel (level + 1) (field e 12 34 * 4096)

/-- The bytes of a range of places copied to another; an uncorrectable word stays one (R338). -/
def copyPlaces (s : State) (old new size : Nat) : State :=
  let bad := s.hw.damaged.filter (fun p => decide (old ≤ p) && decide (p < old + size))
  { s with
    mem := (spSlice s.mem old (old + size) new).foldl (fun m e => spSet restByte m e.1 e.2) (spClear s.mem new (new + size))
    hw := { s.hw with damaged := s.hw.damaged ++ bad.map (fun p => p - old + new) } }

/-- The partials of every line of a range merge into their values (R241). -/
def mergeRange (s : State) (lo size : Nat) : State :=
  mergeLines s ((s.hw.partials.filter (fun q => decide (lo ≤ q.place) && decide (q.place < lo + size))).map (fun q => lineOf q.place))

/-- A home named alike by every package, moved with its frame. -/
def moveName (s : State) (f : Nat → Nat) (name : Nat) : Nat :=
  if name / 2 ^ 48 = s.link.node then homeName s.link.node (f (name % 2 ^ 48)) else name

/-- The payload of a packet whose home has moved: an ordered reduction names its sequence by the home's name (R197; log entry 11). -/
def renamedPayload (p : Packet) (name : Nat → Nat) : List Byte :=
  if p.kind = 0x07 ∧ ofBytes (p.payload.take 1) = 0x18 then
    p.payload.take 18 ++ bytesOf 8 (name (ofBytes ((p.payload.drop 18).take 8))) ++ p.payload.drop 26
  else p.payload

/-- A packet held at its home names the moved frame (R354). -/
def movedPacket (s : State) (f : Nat → Nat) (p : Packet) : Packet :=
  { p with addr := f p.addr, payload := renamedPayload p (moveName s f) }

/-- A packet held at a prepared line moves with its frame (R354). -/
def HeldWhat.moved (s : State) (f : Nat → Nat) : HeldWhat → HeldWhat
  | .packet p => .packet (movedPacket s f p)
  | x => x

/-- An access of the host is held in a range of places: it is performed before the frame moves (R240, R263). -/
def hostHolds (s : State) (lo size : Nat) : Bool :=
  s.link.heldHere.any (fun h =>
    match h.what with
    | .hostRead addr len => decide (addr < lo + size) && decide (lo < addr + len)
    | .hostWrite addr bytes => decide (addr < lo + size) && decide (lo < addr + bytes.length)
    | _ => false)

/-- What a context keeps by home, moved with a frame: its shadow, its lines under RES KEEP, and the waits of its images. -/
def moveCtxHomes (f : Nat → Nat) (c : Ctx) : Ctx :=
  let byte := fun (b : ShadowByte) => { b with place := f b.place }
  { c with
    launches := c.launches.map (fun l => { l with shadow := l.shadow.map byte, blockBytes := l.blockBytes.map byte })
    kept := c.kept.map (fun l => lineOf (f (128 * l)))
    images := c.images.map (fun e => (e.1, { e.2 with sync := e.2.sync.map (SyncOp.relocate f) })) }

/-- The hardware's records by home, moved with a frame: order, times and ordered sequences; its L2 lines of either frame are gone. -/
def moveHwHomes (s : State) (f : Nat → Nat) (inside : Nat → Bool) : MemHw :=
  { s.hw with
    seqs := s.hw.seqs.map (fun q => { q with place := f q.place, name := moveName s f q.name })
    order := s.hw.order.foldl (fun m e => spPut m (f e.1) e.2) []
    lines := s.hw.lines.foldl (fun m e => spPut m (lineOf (f (128 * e.1))) e.2) []
    l2 := (s.hw.l2.map (fun e => (e.1, e.2.filter (fun x => !inside (128 * x.line))))).filter (fun e => !e.2.isEmpty) }

/-- What a context and the hardware keep by home moves with a frame (R349, R354): shadow, of other packages' launches too, waits,
order, times and ordered sequences; no core keeps a copy of a line of either frame. -/
def moveHomes (s : State) (k old new size : Nat) : State :=
  let f := fun (p : Nat) => if old ≤ p ∧ p < old + size then p - old + new else p
  let inside := fun (p : Nat) => (decide (old ≤ p) && decide (p < old + size)) || (decide (new ≤ p) && decide (p < new + size))
  let c := (getCtx s k).getD blankCtx
  let mine := fun (q : PeerShadow) => q.job == c.job && q.dest == c.rank
  let s1 := modCtxCores (modCtx s k (moveCtxHomes f)) k (fun q => { q with sync := q.sync.map (SyncOp.relocate f) })
  { s1 with
    hw := moveHwHomes s1 f inside
    link := { s1.link with
      peers := s1.link.peers.map (fun q =>
        if mine q then { q with bytes := q.bytes.map (fun b => { b with place := f b.place }) } else q)
      heldHere := s1.link.heldHere.map (fun e => { place := f e.place, what := e.what.moved s1 f })
      monitors := s1.link.monitors.map (fun m => if m.ctx = k then { m with place := f m.place, packet := movedPacket s1 f m.packet } else m) }
    cores := s1.cores.map (fun e => (e.1, { e.2 with lease := e.2.lease.filter (fun q => !inside (128 * q.1)) })) }

/-- PAGE_MIGRATE (R349, R354): the frame of a page is copied to one that can be used, and then the page is remapped to it; not while an
access of the host is held in the frame (DESIGN CHOICE: R354 does not say; log entry 98). -/
def execPageMigrate (ctx page frame : Nat) (s : State) : Out :=
  .next (
    match getCtx s ctx with
    | none => s
    | some c =>
      match leafPlace s (65536 * page) 3 1 c.root, walkTable s c.root (65536 * page) with
      | some (p, bits), .leaf _ 0 _ old _ _ =>
        let new := 65536 * frame
        let size := 2 ^ bits
        if new % size ≠ 0 ∨ !pageUsable s new size ∨ taken s new size ∨ new = old ∨ hostHolds s old size then s
        else
          let s1 := copyPlaces (mergeRange (claimRange s (framesUsed s) new size c.job) old size) old new size
          let e := rawNat s1 p 8
          clearTlbs (writeDirect (moveHomes s1 ctx old new size) p (bytesOf 8 (e - field e 12 34 * 4096 + new))) ctx
      | _, _ => s)

/-! ## Code objects (R89 to R91, R331) -/

/-- The version of a profile that an object requires (Table 3.10). -/
def CodeObj.profile (o : CodeObj) (i : Nat) : Nat := o.nat (8 + 2 * (i - 1)) 2

/-- A scalar word of the synchronisation and task profile: custom-1, custom-2 or custom-3 (Table 3.9). -/
def syncWord (w : Nat) : Bool := field w 0 7 == 0x2B || field w 0 7 == 0x5B || field w 0 7 == 0x7B

/-- The word of a slot is an instruction there: not a no-operation word of zeros, and not ILLEGAL, which is no ground of R90. -/
def holdsInstr (b : Bundle) (k : Nat) : Bool :=
  slotWord b k != 0 && ((decodeSlot k (slotWord b k)).map (wellFormedIn k)).getD false

/-- A bundle holds an instruction of a profile (Table 3.9). -/
def usesProfile (b : Bundle) (i : Nat) : Bool :=
  match i with
  | 1 => holdsInstr b 3 || holdsInstr b 4 || holdsInstr b 5
  | 2 => holdsInstr b 6
  | 3 => holdsInstr b 7
  | _ => holdsInstr b 2 && syncWord (slotWord b 2)

/-- An overlay entry reaches beyond region 127. -/
def CodeObj.overlayBeyond (o : CodeObj) (i : Nat) : Bool := decide (128 < o.overlayFirst i + o.overlayCount i)

/-- An overlay entry shares a region with the base code. -/
def CodeObj.overlayOnBase (o : CodeObj) (i : Nat) : Bool :=
  decide (o.overlayFirst i < o.overlayFirst 0 + o.overlayCount 0) && decide (o.overlayFirst 0 < o.overlayFirst i + o.overlayCount i)

/-- The loader accepts an object: none of the grounds of R90 holds. -/
def CodeObj.accepted (o : CodeObj) : Bool :=
  o.nat 0 4 == 0x53564D52 && o.nat 4 2 == 1 &&
  [1, 2, 3, 4].all (fun i => decide (o.profile i ≤ 1)) &&
  [1, 2, 3, 4].all (fun i => o.profile i != 0 || (upTo o.kernels).all (fun j => (o.kernelBundles j).all (fun b => !usesProfile b i))) &&
  (upTo o.overlays).all (fun i => !o.overlayBeyond i) &&
  (upTo o.overlays).all (fun i => i == 0 || !o.overlayOnBase i) &&
  (upTo o.kernels).all (fun i => o.inBase (o.entryOf i))

/-- A number with 8 bytes replaced at a byte offset. -/
def replace8 (w off v : Nat) : Nat := w - field w (8 * off) 64 * 2 ^ (8 * off) + v % 2 ^ 64 * 2 ^ (8 * off)

/-- A launch record at a byte offset of a data section that omits CODE: MAGIC and VERSION 1 with CODE 0, which is no identifier (DESIGN
CHOICE: R274 does not say how the loader knows one; log entry 86). -/
def omitsCode (w off : Nat) : Bool := field w (8 * off) 48 == 0x1524C464C && field w (8 * (off + 8)) 64 == 0

/-- The records among the first n 64-byte pieces of a data section that omit CODE get the object's identifier (R274). -/
def nameRecords (id n w : Nat) : Nat := (upTo n).foldl (fun v i => if omitsCode v (64 * i) then replace8 v (64 * i + 8) id else v) w

/-- The data section after relocation: each field receives its target's virtual address (R89), and records that omit CODE the object's
identifier (R274). The list runs to the object's end. -/
def CodeObj.dataSection (o : CodeObj) : List Byte :=
  let size := o.nat 0x30 8
  let first := o.nat 0x38 8
  let n := if first = 0 then 0 else (o.len - first) / 16
  let raw := o.nat (o.nat 0x28 8) size
  bytesOf size (nameRecords o.id (size / 64)
    ((upTo n).foldl (fun w i => replace8 w (o.nat (first + 16 * i) 8) (o.data + o.nat (first + 16 * i + 8) 8)) raw))

/-- The loader writes the data section into the context's memory. -/
def loadData (s : State) (k : Nat) (o : CodeObj) : State :=
  let bytes := o.dataSection
  ((upTo bytes.length).zip bytes).foldl (fun st e =>
    match blockPlace st k (o.data + e.1) with
    | some p => writeDirect st p [e.2]
    | none => st) s

/-- CODE_LOAD (R90), where contexts may be (R381, R383): a refused object leaves no trace; an accepted one gets an identifier and a tag. An object for a slot that
no context holds is kept for the context that arrives there (R356). -/
def execCodeLoad (ctx : Nat) (o : CodeImage) (s : State) : Out :=
  let id := s.host.nextCode
  let obj : CodeObj := { id := id, tag := id, len := o.len, bytes := o.bytes, data := o.data }
  .next (
    if !takesContexts s then s
    else if !obj.accepted then post s (.codeRefused ctx)
    else
      let s1 := post { s with host := { s.host with nextCode := id + 1 } } (.codeLoaded ctx id)
      match getCtx s1 ctx with
      | some c => loadData (setCtx s1 ctx { c with code := c.code ++ [obj] }) ctx obj
      | none => { s1 with link := { s1.link with code := spPut s1.link.code ctx (spGet [] s1.link.code ctx ++ [obj]) } })

/-- The unread records of a queue name a code object (R331). What one in another package or on the host names is a free value (log
entry 80). -/
def queueNames (s : State) (c : Ctx) (q : Queue) (id : Nat) : Bool :=
  (upTo (min ((q.tail + 2 ^ 32 - q.head) % 2 ^ 32) (2 ^ q.logSize))).any (fun i =>
    match xlatCtx s c (q.base + 512 * ((q.head + i) % 2 ^ q.logSize)) with
    | .pkg p _ _ => (parseRecord (rawNat s p 512)).code == id
    | .remote tgt node addr _ _ => Config.recordNames (homeName (remoteNode tgt node) addr) id
    | _ => false)

/-- An instruction memory holds a region with a tag. -/
def InstrMem.hasTag (m : InstrMem) (tag : Nat) : Bool := m.tags.any (fun e => e.2 == tag)

/-- A context references a code object (R331): a record queued, admitted or live, or a region of a save area. -/
def ctxReferences (s : State) (c : Ctx) (o : CodeObj) : Bool :=
  c.launches.any (fun l => !l.ended && l.desc.code == o.id) || c.queues.any (fun q => queueNames s c q.2 o.id) ||
    (c.part.isEmpty && c.images.any (fun e => e.2.imem.hasTag o.tag))

/-- A code object is referenced (R331). -/
def codeReferenced (s : State) (o : CodeObj) : Bool :=
  s.ctxs.any (fun e => ctxReferences s e.2 o) ||
    s.cores.any (fun e => e.2.ctx.isSome && (e.2.imem.hasTag o.tag || (e.2.task.map (fun t => t.code)) == some o.id))

/-- The loaded object with an identifier: a context's, or one loaded for a context that arrives (R356). -/
def findCode (s : State) (id : Nat) : Option CodeObj :=
  match s.ctxs.findSome? (fun e => codeOf e.2 id) with
  | some o => some o
  | none => s.link.code.findSome? (fun e => e.2.find? (fun o => o.id == id))

/-- An object is removed from the context that holds it, or from those loaded for one that arrives. -/
def removeCode (s : State) (id : Nat) : State :=
  let keep := fun (os : List CodeObj) => os.filter (fun o => decide (o.id ≠ id))
  post { s with
    ctxs := s.ctxs.map (fun e => (e.1, { e.2 with code := keep e.2.code }))
    link := { s.link with code := (s.link.code.map (fun e => (e.1, keep e.2))).filter (fun e => !e.2.isEmpty) } } (.codeUnloaded id)

/-- CODE_UNLOAD (R331): BUSY while the object is referenced. -/
def execCodeUnload (id : Nat) (s : State) : Out :=
  .next (
    match findCode s id with
    | none => s
    | some o => if codeReferenced s o then post s (.codeBusy id) else removeCode s id)

/-- The regions of an instruction memory with a tag are cleared. -/
def InstrMem.dropTag (m : InstrMem) (tag : Nat) : InstrMem := { m with tags := m.tags.filter (fun e => decide (e.2 ≠ tag)) }

/-- A waiting launch is refused (R331). -/
def refuseWaiting (s : State) (k : Nat) (l : Launch) : State :=
  let l1 := { l with phase := .ended, status := 0x03 + 256 * Cause.ifetch.code }
  settle (reportLaunch (modLaunch s k l.handle (fun _ => l1)) k l1)

/-- The launches of a context as a forced unload leaves them (R331): those that wait and name the object are refused, and every
admitted one aborts with IFETCH. -/
def unloadLaunches (s : State) (k : Nat) (c : Ctx) (id : Nat) : State :=
  c.launches.foldl (fun st l =>
    match getLaunch st k l.handle with
    | none => st
    | some q =>
      if q.ended then st
      else if q.phase ≠ .waiting then abortLaunch st k q.handle .ifetch
      else if q.desc.code = id then refuseWaiting st k q
      else st) s

/-- FORCED_UNLOAD (R331): in the contexts that reference the object every launch aborts with IFETCH and waiting ones are refused;
the regions with its tag are invalid. -/
def execForcedUnload (id : Nat) (s : State) : Out :=
  .next (
    match findCode s id with
    | none => s
    | some o =>
      let uses := fun (k : Nat) (c : Ctx) => ctxReferences s c o ||
        s.cores.any (fun e => e.2.ctx == some k && (e.2.imem.hasTag o.tag || (e.2.task.map (fun t => t.code)) == some id))
      let s1 := (s.ctxs.filter (fun e => uses e.1 e.2)).foldl (fun st e => unloadLaunches st e.1 e.2 id) s
      let s2 := { s1 with
        cores := s1.cores.map (fun e => (e.1, { e.2 with imem := e.2.imem.dropTag o.tag }))
        ctxs := s1.ctxs.map (fun e => (e.1, { e.2 with
          images := e.2.images.map (fun i => (i.1, { i.2 with imem := i.2.imem.dropTag o.tag }))
          unloaded := if (codeOf e.2 id).isSome then ⟨id, e.2.queues.map (fun q => (q.1, q.2.tail))⟩ :: e.2.unloaded
                      else e.2.unloaded })) }
      removeCode s2 id)

/-! ## Contexts (R11, R352 to R354) -/

/-- The chip scratchpad allocations of all contexts, and those reserved for contexts that arrive (R356). -/
def chipUses (s : State) : List (Nat × Nat) :=
  s.ctxs.map (fun e => (e.2.chipBase, e.2.chipSize)) ++ s.link.copies.map (fun y => (y.ctx.chipBase, y.ctx.chipSize))

/-- A chip scratchpad range that can be allocated: free, inside the 128 MiB, and leaving 8 MiB of each die to the chorus
(R366). -/
def chipFree (s : State) (base size : Nat) : Bool :=
  let uses := (base, size) :: chipUses s
  let on := fun (lo hi : Nat) => uses.foldl (fun a u => a + (min (u.1 + u.2) hi - max u.1 lo)) 0
  decide (base + size ≤ 2 ^ 27) && (chipUses s).all (fun u => decide (u.1 + u.2 ≤ base) || decide (base + size ≤ u.1) || size == 0) &&
    decide (on 0 (2 ^ 26) ≤ 2 ^ 26 - 2 ^ 23) && decide (on (2 ^ 26) (2 ^ 27) ≤ 2 ^ 26 - 2 ^ 23)

/-- A resident slot is free for a new context (R11, R352, R353): no other has it, but one that has been killed, and it is not
reserved for one that arrives (R356). -/
def slotFree (s : State) (k : Nat) : Bool :=
  decide (k < 64) && ((getCtx s k).map (fun c => c.state == .killed)).getD true &&
    decide (residentCount s + s.link.copies.length < 64) && s.link.copies.all (fun y => y.slot != k) &&
    takesContexts s

/-- The first number from 65 on that no context goes by. -/
def spareNumber (s : State) : Nat := ((upTo (s.ctxs.length + 1)).find? (fun i => (getCtx s (65 + i)).isNone)).getD 0 + 65

/-- A resident slot cleared for a new context: one that has been killed keeps none of the 64 (R352; log entry 79). -/
def vacate (s : State) (k : Nat) : State := if (getCtx s k).isSome then renumberCtx s k (spareNumber s) else s

/-- A context as system software creates it, parked with nothing queued. -/
def newCtx (p : ContextParams) : Ctx :=
  { job := p.job, rank := p.rank, nranks := p.nranks, key0 := p.key0, key1 := p.key1, state := .parked, clusters := p.clusters
    root := p.root, chipBase := p.chipBase, chipSize := p.chipSize, wlog := p.wlog, spillCap := p.spill
    overflowCap := p.overflow, allowance := p.allowance, keepAllow := p.keep, area := p.area }

/-- The parameters of a context are such as the package has: a job identifier of 32 bits other than 0 (R353), a rank of 16 bits,
1 to 16 clusters, a residency allowance in range (R228), a free chip scratchpad range, and a save area that is not set aside (R356, R366). -/
def paramsFit (s : State) (p : ContextParams) : Bool :=
  let c := newCtx p
  p.job != 0 && decide (p.job < 2 ^ 32) && decide (p.rank < 2 ^ 16) && decide (0 < p.clusters) && decide (p.clusters ≤ 16) &&
    decide (p.keep ≤ 1572864) && chipFree s p.chipBase p.chipSize && !taken s c.area (areaBytes c)

/-- CONTEXT_CREATE (R353): refused with job identifier 0; what another job used before is wiped (Table 15.9). -/
def execContextCreate (ctx : Nat) (p : ContextParams) (s : State) : Out :=
  .next (
    let s0 := vacate s ctx
    let s1 := setCtx s0 ctx { newCtx p with code := spGet [] s0.link.code ctx }
    if !slotFree s ctx || !paramsFit s p || mapsTaken s1 ctx then post s (.refused 1)
    else
      let s2 := clearTlbs (claimPages s (claimRange s1 [] (chipPlace p.chipBase) p.chipSize p.job) ctx) ctx
      { s2 with link := { s2.link with code := spErase s2.link.code ctx } })

/-- A context whose save area is to be copied: killed where the area cannot be read (R338), else given the new one (R354). -/
def moveArea (s : State) (k area : Nat) (r : Residency) : State :=
  match getCtx s k with
  | none => s
  | some c => if imageDamaged s c then killDamaged s k c else setCtx s k { c with state := r, area := area }

/-- A context is parked in a place and no restore is under way. -/
def restsIn (s : State) (k : Nat) (r : Residency) : Bool := ((getCtx s k).map (fun c => c.state == r && !c.restoring)).getD false

/-- DEMOTE (R354): the save area moves to the green room. -/
def execDemote (ctx area : Nat) (s : State) : Out :=
  .next (if !inHbm area && physExists area && !taken s area (((getCtx s ctx).map areaBytes).getD 0) && restsIn s ctx .parked then moveArea s ctx area .green else s)

/-- PROMOTE (R354): the save area moves back to HBM. -/
def execPromote (ctx area : Nat) (s : State) : Out :=
  .next (
    let size := ((getCtx s ctx).map areaBytes).getD 0
    if inHbm area && !taken s area size && restsIn s ctx .green then moveArea s ctx area .parked else s)

/-- The class of an intensity (R305): 2 compute-bound, 0 memory-bound, 1 neutral. -/
def intensityClass (macs bytes : Nat) : Nat := if 80 * bytes ≤ macs then 2 else if macs < 40 * bytes then 0 else 1

/-- CLASSIFY_WINDOW (R305): a running context is classed by the window that ends, and the next begins for every context. -/
def execClassifyWindow (ctx : Nat) (s : State) : Out :=
  .next (modCtx { s with fresh := s.fresh + 1 } ctx (fun c =>
    let i := if c.state = .running then intensityClass c.macs (Config.windowBytes s.fresh) else c.intensity
    { c with macs := 0, intensity := i }))

end Sys2Proof.Machine
end

