-- ==== Sys2Proof/Machine/Fabric.lean ====
section
/-!
DEFINITION. The arrival of memory packets, answers and commit control over Lumeus Link (R239, R264, R358 to R364), with the link's
own events. The layout of payloads is the model's own (log entry 11).
-/
namespace Sys2Proof.Machine

/-! ## Frames of a context (R362) -/

/-- n bytes at a physical address lie in a page of a context with the permissions asked for (R362). -/
def ownsBytes (s : State) (c : Ctx) (place n : Nat) (rd wr : Bool) : Bool :=
  (pagesOf s c).any (fun e =>
    match e.2 with
    | .leaf bits 0 _ addr r w => decide (addr ≤ place) && decide (place + n ≤ addr + 2 ^ bits) && (!rd || r) && (!wr || w)
    | _ => false)

/-! ## Delivery of memory packets (R358, R362) -/

/-- The fly whose forwarding covers a physical address. -/
def forwardOf (s : State) (place : Nat) : Option (Fly × Nat) :=
  s.link.flies.findSome? (fun f =>
    if f.phase = .forward then (spFind f.frames (place / 65536)).map (fun x => (f, x)) else none)

/-- A home of this node as it is named once its frame has flown. -/
def flownName (s : State) (f : Fly) (name : Nat) : Nat :=
  match spFind f.frames (name % 2 ^ 48 / 65536) with
  | some x => if name / 2 ^ 48 = s.link.node then homeName f.node (65536 * x + name % 65536) else name
  | none => name

/-- A packet for the old frames of a flown context goes on to its new node (R358), and names an ordered sequence by its new home (R197). -/
def forwardPacket (s : State) (p : Packet) (f : Fly) (frame : Nat) : State :=
  sendPacket s { p with dst := f.node, addr := 65536 * frame + p.addr % 65536, payload := renamedPayload p (flownName s f) }

/-- A packet for a context that is being sent is kept at the source (R358). -/
def keepPacket (s : State) (k : Nat) (p : Packet) : State :=
  { s with link := { s.link with flies := s.link.flies.map (fun f =>
      if f.ctx = k ∧ f.phase ≠ .forward then { f with held := f.held ++ [p] } else f) } }

/-- The bytes that a held access spans. -/
def heldSize : HeldWhat → Nat
  | .packet p => if p.kind = 0x01 ∨ p.kind = 0x02 then p.payload.length else ofBytes ((p.payload.drop 1).take 1)
  | .hostRead _ len => len
  | .hostWrite _ bytes => bytes.length
  | .doorbell _ _ _ => 0

/-- n bytes lie in a line that a prepared version holds, or in one for which an access is already held (R263). -/
def lineBusy (s : State) (p n : Nat) : Bool :=
  heldByPrepared s ⟨64, 0, false, mergedSlot⟩ p n ||
    s.link.heldHere.any (fun h => (linesOf h.place (heldSize h.what)).any (fun l => (linesOf p n).contains l))

/-- A memory packet of n bytes is performed for the resident rank that it names, if it owns the bytes with the permission;
refused otherwise (R362). Forwarding comes first; a prepared line holds it, and so does a full version table where its bytes, as
`mask` tells, go to a shadow that none is open for (R263, R264; log entry 39). -/
def deliver (s : State) (p : Packet) (kind n : Nat) (rd wr : Bool) (mask : Nat) (act : Nat → State → State) : State :=
  arrival s p kind (fun s =>
    match forwardOf s p.addr with
    | some (f, frame) => forwardPacket s p f frame
    | none =>
      match residentOf s p.job p.rank with
      | none => refusePacket s p
      | some k =>
        let c := (getCtx s k).getD blankCtx
        if c.state = .flying then keepPacket s k p
        else if !ownsBytes s c p.addr n rd wr then refusePacket s p
        else if lineBusy s p.addr n || peerTableFull s p mask then holdEvent s p.addr (.packet p)
        else act k (pulse s k))

/-- A number in the payload of a packet. -/
def payloadNat (p : Packet) (off n : Nat) : Nat := ofBytes ((p.payload.drop off).take n)

/-- REMOTE_STORE (R239): the bytes are performed, or placed in the shadow of the launch that the packet names, whose task depends on
those that wrote the lines before (R254). -/
def execRemoteStore (p : Packet) (s : State) : Out :=
  let n := p.payload.length
  let mask := if p.launch = 0 then 0 else 2 ^ n - 1
  .next (deliver s p 0x01 n false true mask (fun k s =>
    answerDeps (peerWrite s k p p.addr mask true p.payload) p 0x04 [] (if mask = 0 then [] else peerWriteDeps s p p.addr n)))

/-- The bytes of a remote read sent back, with the sub-versions whose bytes they are (R239, R244). Where one of them cannot be corrected,
its frame is retired and the damaged bytes are the answer (DESIGN CHOICE: Table 16.3 has no packet that reports it; log entry 83). -/
def answerRead (s : State) (p : Packet) (n : Nat) : State :=
  let s1 := retireRange (readDirect s p.addr n) p.addr n
  answerDeps s1 p 0x03 (peerRead s1 p p.addr n) (peerReadDeps s1 p p.addr n)

/-- A task control block sent back to the hardware of its launch, with the sub-versions whose bytes its fields are (R294). -/
def answerBlock (s : State) (p : Packet) (n : Nat) : State :=
  let s1 := retireRange (readDirect s p.addr n) p.addr n
  answerDeps s1 p 0x03 (peerRead s1 p p.addr n) (blockReads.foldl (fun acc f =>
    (peerReadDeps s1 p (p.addr + f.1) f.2).foldl (fun a d => insertNat d a) acc) [])

/-- A spawn performed at the home of its block (R202): a READY or RUNNING block stays as it is; another gets the key and is WAITING or
READY by its count. The answer is the block as it was. -/
def spawnAtHome (s : State) (k : Nat) (p : Packet) : State :=
  let old := peerRead s p p.addr 64
  let at_ := fun (off n : Nat) => ofBytes ((old.drop off).take n)
  let s1 :=
    if at_ 0x34 1 = 1 ∨ at_ 0x34 1 = 2 then s
    else peerWrite (peerWrite s k p (p.addr + 0x28) 0 false (bytesOf 8 (payloadNat p 2 8))) k p (p.addr + 0x34) 0 false
      (bytesOf 12 (joinedWord (ofBool (at_ 0x18 4 == 0))))
  answerDeps s1 p 0x03 old (blockReads.foldl (fun acc f =>
    (peerReadDeps s p (p.addr + f.1) f.2).foldl (fun a d => insertNat d a) acc) [])

/-- A monitor is the one that the sender of a packet asked for under a tag. -/
def Monitor.askedBy (m : Monitor) (p : Packet) (tag : Nat) : Bool :=
  m.packet.src == p.src && m.packet.srank == p.srank && m.packet.job == p.job && m.packet.tag == tag

/-- The sender of a packet ends a wait that is armed here: it is dropped, and answered as `act` says; one that has been performed, or is
not armed yet, is answered with no bytes (R186, R189; log entry 13). -/
def endMonitor (s : State) (p : Packet) (tag : Nat) (act : State → State) : State :=
  if s.link.monitors.any (fun m => m.askedBy p tag) then
    act { s with link := { s.link with monitors := s.link.monitors.filter (fun m => !m.askedBy p tag) } }
  else answerPacket s p 0x03 []

/-- A monitor is armed here in one operation with its first comparison (R188, R189). -/
def armMonitor (s : State) (k : Nat) (p : Packet) (ne : Bool) (v : Nat) : State :=
  let s1 := mergePartials { s with seq := s.seq + 1 } p.addr 8
  settle { s1 with link := { s1.link with
    monitors := s1.link.monitors ++ [{ packet := p, ctx := k, place := p.addr, ne := ne, value := v, armed := s.seq }] } }

/-- LOAD_REQUEST (R239): the bytes are read at their home and sent back, or a monitored wait is armed, read or dropped there
(R189; log entry 13). -/
def execLoadRequest (p : Packet) (s : State) : Out :=
  let n := p.payload.length
  .next (deliver s p 0x02 n true false 0 (fun k s =>
    match p.wait with
    | 1 => armMonitor s k p false (payloadNat p 0 8)
    | 2 => armMonitor s k p true (payloadNat p 0 8)
    | 3 => endMonitor s p (payloadNat p 0 8) (fun s => answerRead s p n)
    | 4 => endMonitor s p (payloadNat p 0 8) (fun s => answerPacket s p 0x03 [1])
    | 5 => answerBlock s p n
    | _ => answerRead s p n))

/-- REMOTE_ATOMIC (R193, R195): performed at its home in the view of its launch, and answered with the old value. -/
def execRemoteAtomic (p : Packet) (s : State) : Out :=
  let op := payloadNat p 0 1
  let size := payloadNat p 1 1
  let mask := payloadNat p 18 1
  .next (deliver s p 0x06 size true true mask (fun k s =>
    let s1 := mergePartials s p.addr size
    if op = spawnOp then spawnAtHome (loads s1 .manager p.addr size) k p
    else
    let old := peerRead s1 p p.addr size
    let met := peerReadDeps s1 p p.addr size
    match atomicNew op size (ofBytes old) (payloadNat p 2 8) (payloadNat p 10 8) with
    | some v =>
      let deps := (if mask = 0 then [] else peerWriteDeps s1 p p.addr size).foldl (fun acc d => insertNat d acc) met
      answerDeps (peerWrite s1 k p p.addr mask false (bytesOf size v)) p 0x03 old deps
    | none => answerDeps (loads s1 .manager p.addr size) p 0x03 old met))

/-- The new value of a reduction at its home: Table 6.3's, or a nibble written by the mask of R155 (log entry 11). -/
def reductionValue (op size m v : Nat) : Nat :=
  if op = 16 then setNibble m false v else if op = 17 then setNibble m true v else reduceOp op size m v

/-- REMOTE_REDUCTION (R239, R241, R242): applied at its home; one of an ordered sequence in its turn. -/
def execRemoteReduction (p : Packet) (s : State) : Out :=
  let op := payloadNat p 0 1
  let size := payloadNat p 1 1
  let mask := payloadNat p 26 1
  .next (deliver s p 0x07 size false true mask (fun k s =>
    if op = 0x18 ∧ isGone s p then ackPacket s p
    else if op = 0x18 then
      contribute (if mask = 0 then s else openPeer s p) (payloadNat p 18 8) (payloadNat p 14 4) p.addr
        { ordinal := payloadNat p 10 4, value := payloadNat p 2 4, ctx := k, launch := p.launch, run := false, slot := mergedSlot, va := 0
          reply := some p }
    else
      let s1 := mergePartials s p.addr size
      let deps := if mask = 0 then [] else
        (peerReadDeps s1 p p.addr size).foldl (fun acc d => insertNat d acc) (peerWriteDeps s1 p p.addr size)
      let v := reductionValue op size (ofBytes (peerRead s1 p p.addr size)) (payloadNat p 2 8)
      answerDeps (peerWrite s1 k p p.addr mask false (bytesOf size v)) p 0x04 [] deps))

/-! ## Answers -/

/-- The request that an answer belongs to. -/
def requestOf (s : State) (p : Packet) : Option Request := s.link.requests.find? (fun r => r.tag == p.tag)

/-- An answer to a write of an aborted run: once none is on its way, the peers forget the run (R266; log entry 39). -/
def noteAnswer (s : State) (tag : Nat) : State :=
  let rest := s.link.farewells.map (fun f => { f with tags := f.tags.filter (fun t => decide (t ≠ tag)) })
  let ended := rest.filter (fun f => f.tags.isEmpty)
  ended.foldl (fun st f => tellPeers st f.job f.rank f.launch f.peers 3 0 0)
    { s with link := { s.link with farewells := rest.filter (fun f => !f.tags.isEmpty) } }

/-- A request has been answered. -/
def closeRequest (s : State) (r : Request) : State :=
  { s with link := { s.link with requests := s.link.requests.filter (fun q => decide (q.tag ≠ r.tag)) } }

/-- Bytes put into a list of cells. -/
def addCells (m : List Host.Cell) (va : Nat) (bs : List Byte) : List Host.Cell :=
  ((upTo bs.length).zip bs).foldl (fun acc e => spSet restByte acc (va + e.1) e.2) m

/-- The value that a pending load has with the bytes of an answer. -/
def Payload.withBytes (w : Payload) (r : Request) (bs : List Byte) : Payload :=
  match w with
  | .x rd _ => .x rd (extendLoad r.size r.signed (ofBytes bs))
  | .vec b d v m => .vec b d (v ||| BitVec.ofNat 2048 (ofBytes bs * 2 ^ (8 * r.off))) m
  | .record n _ a => .record n (BitVec.ofNat 256 (ofBytes bs)) a
  | _ => w

/-- An answer reaches a pending result of a core: one answer fewer is awaited (R81). -/
def landAnswer (s : State) (n : Nat) (r : Request) (bs : List Byte) : State :=
  modCore s n (fun c => { c with pend := c.pend.map (fun e =>
    if e.id = r.id then { e with what := e.what.withBytes r bs, waits := e.waits - 1 } else e) })

/-- The open sub-version with a number, and a launch and run that it belongs to. -/
def slotOfStamp (c : Ctx) (stamp : Nat) : Option (Nat × Bool × Slot) := (openSlots c).find? (fun e => e.2.2.stamp == stamp)

/-- The task that made a request has met sub-versions at the home (R244, R254): it depends on those that are open, and is discarded
where one has been. -/
def meetDeps (s : State) (r : Request) (deps : List Nat) : State :=
  match getCtx s r.ctx with
  | none => s
  | some c =>
    match slotOfStamp c r.stamp with
    | none => s
    | some (h, run, t) =>
      let w : Who := ⟨r.ctx, h, run, t.num⟩
      let open_ := deps.filterMap (fun d => (slotOfStamp c d).map (fun e => e.2.2.num))
      let s1 := addDeps s w (open_.filter (fun k => dependsOn s w k))
      if c.launches.any (fun l => l.dropped.any (fun d => deps.contains d)) then discardSlot s1 r.ctx t.num .dependence else s1

/-- A remote monitored wait ends: by a value that met its condition, or at its deadline (R189). -/
def finishWait (s : State) (n : Nat) (o : SyncOp) (late : Bool) (x : Nat) : State :=
  let s1 := modDev s n (fun d => { d with wtoBit := late })
  dropSync (fillPending s1 n o.id (.x (o.rd.getD 0) (BitVec.ofNat 64 x))) n o.id

/-- The home of a remote monitored wait answers (R186, R189): with a value that met the condition; to the request that ends it, that it
is dropped, and with the value read in its place at its deadline; or with no bytes that it has performed it, whose own answer is then
on its way (log entry 13). -/
def answerWait (s : State) (n : Nat) (o : SyncOp) (r : Request) (bs : List Byte) : State :=
  if r.off = 0 then finishWait s n o false (ofBytes bs)
  else
    match waitRequest s n o.id 0 with
    | none => s
    | some q =>
      if bs.isEmpty then endAway s n o r.off
      else if r.off = 1 then finishWait (closeRequest s q) n o true (ofBytes bs)
      else closeRequest s q

/-- An answer for an instruction of a core: a plain load, or one of the waits of R184. One to the end of a wait that is over is for
nothing. -/
def answerCore (s : State) (n : Nat) (r : Request) (bs : List Byte) : State :=
  match (getCore s n).sync.find? (fun o => o.id == r.id) with
  | none => if r.size = 0 then s else landAnswer s n r bs
  | some o =>
    match o.kind with
    | .waitvAway _ _ _ _ _ _ _ => answerWait s n o r bs
    | .launch _ =>
      let o1 := { o with got := spPut o.got r.off (ofBytes bs) }
      finishLaunch (putSync s n o1) n o1
    | _ => dropSync (fillPending s n o.id (.x (o.rd.getD 0) (extendLoad r.size r.signed (ofBytes bs)))) n o.id

/-- LOAD_RESPONSE (R239): the bytes reach the load, atomic, job, collective or admission that asked for them. -/
def execLoadResponse (p : Packet) (s : State) : Out :=
  .next (arrival s p 0x03 (fun s0 =>
    let s := noteAnswer s0 p.tag
    match requestOf s p with
    | none => discardPacket s
    | some r =>
      if r.kind ≠ 0x02 ∧ r.kind ≠ 0x06 then discardPacket s
      else
        let s1 := meetDeps (awaitedPulse (closeRequest s r) r.ctx) r p.deps
        settle (
          if r.core = blockMaker then farAnswer s1 r p.payload p.deps
          else if r.core = 257 then takeHostRecord s1 r.ctx r.id (ofBytes p.payload)
          else if r.core = 256 then
            modColl s1 r.ctx r.id r.slot (fun q => { q with data := addCells q.data r.va p.payload, waits := q.waits - 1 })
          else if (getCore s1 r.core).ctx ≠ some r.ctx then s1
          else
            match r.job with
            | some j => modJob s1 r.core j (fun q => { q with data := addCells q.data r.va p.payload, waits := q.waits - 1 })
            | none => answerCore s1 r.core r p.payload)))

/-- A remote write has been answered: the launch, and the core, job or collective that made it, await it no more (R260). -/
def writeAnswered (s : State) (r : Request) : State :=
  let s1 := modLaunch (closeRequest s r) r.ctx r.launch (fun l => { l with acks := l.acks - 1 })
  if r.core = blockMaker then s1
  else if r.core = 256 then modColl s1 r.ctx r.id r.slot (fun q => { q with acks := q.acks - 1 })
  else
    match r.job with
    | some j => modJob s1 r.core j (fun q => { q with acks := q.acks - 1 })
    | none => modCore s1 r.core (fun c => { c with acks := c.acks.filter (fun t => decide (t ≠ r.tag)) })

/-- The collective of a rank here that a chorus ADDR names. -/
def collOfPacket (s : State) (p : Packet) : Option (Nat × Coll) :=
  match residentOf s p.job p.rank with
  | none => none
  | some k =>
    let (seq, kk, _, _, _) := chorusFields p.addr
    ((getCtx s k).bind (fun c => findColl c kk seq)).map (fun q => (k, q))

/-- ACKNOWLEDGEMENT (R239): of a remote write, or of a chorus packet (log entry 19). -/
def execAcknowledgement (p : Packet) (s : State) : Out :=
  .next (arrival s p 0x04 (fun s =>
    if p.payload = [1] then
      match collOfPacket s p with
      | some (k, q) => modColl (pulse s k) k q.k q.seq (fun x => { x with acks := x.acks - 1 })
      | none => discardPacket s
    else
      let s := noteAnswer s p.tag
      match requestOf s p with
      | none => discardPacket s
      | some r =>
        if r.kind ≠ 0x01 ∧ r.kind ≠ 0x07 then discardPacket s
        else settle (meetDeps (awaitedPulse (writeAnswered s r) r.ctx) r p.deps)))

/-! ## REFUSAL (R362) -/

/-- The refusal of a request: the cause is raised on the core that made it, if it still runs the launch; the launch aborts with
PROTECT. -/
def refuseRequest (s : State) (r : Request) : State :=
  let c := getCore s r.core
  if c.ctx = some r.ctx ∧ (c.task.map (fun t => t.launch)) = some r.launch then
    stageTrap s r.core .protect (if r.job.isSome then 0x80 else 2 ^ r.slot) r.bundle r.va
  else abortLaunch s r.ctx r.launch .protect

/-- A refused request is closed, and its sender dealt with. -/
def requestRefused (s : State) (r : Request) : State :=
  if r.core = 257 then
    announcePage (modCtx (closeRequest s r) r.ctx (fun c => { c with
      queues := spSet {} c.queues r.id { (spGet {} c.queues r.id : Queue) with asked := false } })) r.ctx (r.va / 65536)
  else
    let s1 := if r.kind = 0x01 ∨ r.kind = 0x07 then writeAnswered s r else closeRequest s r
    if r.core = 256 then
      match (getCtx s1 r.ctx).bind (fun c => findColl c r.id r.slot) with
      | some q => failColl s1 r.ctx q (.protect, r.va)
      | none => s1
    else refuseRequest s1 r

/-- The fly of a context still here that a packet belongs to. -/
def flyOf (s : State) (p : Packet) : Option (Fly × Ctx) :=
  s.link.flies.findSome? (fun f =>
    match getCtx s f.ctx with
    | some c =>
      if f.phase ≠ .forward ∧ f.id = p.tag ∧ f.node = p.src ∧ c.job = p.job ∧ c.rank = p.rank then some (f, c) else none
    | none => none)

/-- What a fly has put here at its destination is gone: what was reserved for the arriving context, or the context itself where it was
parked already, its memory wiped (R350, R357). -/
def dropArriving (s : State) (node id : Nat) : State :=
  let s1 := { s with link := { s.link with copies := s.link.copies.filter (fun y => !(y.node == node && y.id == id)) } }
  (s.link.arrived.filter (fun a => a.node == node && a.id == id)).foldl (fun st a =>
    match getCtx st a.ctx with
    | none => st
    | some c => removeCtx (clearTlbs ((framesOf st c).foldl (fun st u => wipeAll st u.1 u.2)
        (wipeAll st (chipPlace c.chipBase) c.chipSize)) a.ctx) a.ctx) s1

/-- A packet of a fly has been refused (R356, R362): a fly that has not begun to send is refused, one that sends has lost its destination;
at the destination nothing of the context stays. -/
def flyRefused (s : State) (p : Packet) : State :=
  match flyOf s p with
  | some (f, _) =>
    if f.phase = .send then modFly s f.ctx (fun x => { x with lost := true }) else post (dropFly s f.ctx) (.refused 2)
  | none => dropArriving s p.src p.tag

/-- REFUSAL (R362): a memory request's launch aborts with PROTECT, a collective faults on its rank, and a holder that cannot
prepare aborts the launch with WATCHDOG (R262). -/
def execRefusal (p : Packet) (s : State) : Out :=
  let what := ofBytes p.payload
  .next (arrival s p 0x05 (fun s =>
    if 0x10 ≤ what ∧ what ≤ 0x14 then
      match collOfPacket s p with
      | some (k, q) => failColl (pulse s k) k q (.protect, (recordOf q.recv).base)
      | none => discardPacket s
    else if what = 0x20 then
      match residentOf s p.job p.rank with
      | some k =>
        match getLaunch s k (p.launch / 2) with
        | some l => if l.phase = .preparing then abortLaunch s k l.handle .watchdog else discardPacket s
        | none => discardPacket s
      | none => discardPacket s
    else if what = 0x30 ∨ what = 0x31 then flyRefused s p
    else
      let s := noteAnswer s p.tag
      match requestOf s p with
      | some r => if r.kind = what then settle (requestRefused (pulse s r.ctx) r) else discardPacket s
      | none => discardPacket s))

/-- Packets of this package that no route takes are refused here (R363); answers are lost with their node. -/
def refuseLost (s : State) : State :=
  s.link.lost.foldl (fun st p =>
    if isAnswer p.kind then discardPacket st
    else
      match execRefusal { p with kind := 0x05, vc := 1, src := p.dst, dst := p.src, rank := p.srank, srank := p.rank
                                 payload := bytesOf 1 p.kind } st with
      | .next t => t
      | _ => st) { s with link := { s.link with lost := [] } }

/-! ## COMMIT_CONTROL (R262, R264) -/

/-- Bytes that a peer stored are counted into barriers as often as they were stored (R191). -/
def countStores (s : State) (k place : Nat) : Nat → State
  | 0 => s
  | n + 1 => countStores (countByte s k place .manager) k place n

/-- The kept bytes of a peer's launch enter the memory order at one time, and count into barriers (R191, R243, R264). -/
def commitPeer (s : State) (k : Nat) (p : Packet) : State :=
  match peerOf s p with
  | none => s
  | some q =>
    let ls := q.bytes.foldl (fun acc b => insertNat (lineOf b.place) acc) []
    let s1 := stampLines (l2WriteAll (mergeLines s ls) (ls.map (fun x => ⟨x, .committed, false⟩))).1 ls
    let s2 := q.bytes.reverse.foldl (fun st b => countStores (putByte st b.place b.byte) k b.place b.count) s1
    settle (dropPeer s2 p)

/-- A contribution from another package belongs to a sub-version: to one of a run, or with stamp 0 to any of it. -/
def heldFor (p : Packet) (stamp : Nat) (e : Contribution) : Bool :=
  match e.reply with
  | none => false
  | some q => q.src == p.src && q.srank == p.srank && q.job == p.job && q.rank == p.rank && q.launch == p.launch &&
      (stamp == 0 || (q.stamp == stamp && ofBytes (q.payload.drop 26) != 0))

/-- Contributions held here for a peer's launch, or for the transactional bytes of one sub-version, are withdrawn (R266; log entry
24); their packets are acknowledged. -/
def withdrawPeer (s : State) (p : Packet) (stamp : Nat) : State :=
  let gone := s.hw.seqs.flatMap (fun q => q.held.filter (heldFor p stamp))
  gone.foldl (fun st e => (e.reply.map (ackPacket st)).getD st)
    { s with hw := { s.hw with seqs := s.hw.seqs.map (fun q => { q with held := q.held.filter (fun e => !heldFor p stamp e) }) } }

/-- The contributions held here for a peer's launch go on as those of a sub-version of another run (R256). -/
def adoptHeld (s : State) (p : Packet) (into : Nat) : State :=
  { s with hw := { s.hw with seqs := s.hw.seqs.map (fun q => { q with held := q.held.map (fun e =>
      if heldFor p 0 e then { e with launch := into, reply := e.reply.map (fun x => { x with launch := into, stamp := p.stamp }) } else e) }) } }

/-- A byte of a child that commits, before the parent's own byte of the place: it counts with that one's stores (R191, R256). -/
def adoptByte (stamp : Nat) (bs : List PeerByte) (b : PeerByte) : List PeerByte :=
  let same := fun (x : PeerByte) => x.place == b.place && x.stamp == stamp
  let before : Nat := ((bs.find? same).map (fun x => x.count)).getD 0
  { b with stamp := stamp, count := before + b.count } :: bs.filter (fun x => !same x)

/-- The bytes of a child that commits join the sub-version of its parent's task, in the order in which they were written (R256). -/
def adoptPeer (s : State) (p : Packet) (into : Nat) : State :=
  match peerOf s p with
  | none => adoptHeld s p into
  | some q =>
    modPeer (dropPeer (adoptHeld s p into) p) { p with launch := into } (fun x =>
      { x with bytes := q.bytes.reverse.foldl (adoptByte p.stamp) x.bytes })

/-- A message of commit control to the node that a packet came from (R264; log entry 8). -/
def sendControl (s : State) (p : Packet) (code : Nat) : State :=
  sendPacket s { p with kind := 0x20, vc := 0, src := s.link.node, dst := p.src, rank := p.srank, srank := p.rank, tag := code
                        payload := [], parents := [], deps := [] }

/-- The clock at which a holder asks the owner for the outcome (R262). -/
def askTime (s : State) (k : Nat) : Nat := s.clock + 2 ^ (((getCtx s k).map (fun c => c.wlog)).getD 0)

/-- A holder prepares: the lines are held, the version entry is PREPARED, and the owner is answered (R262, R263). -/
def preparePeer (s : State) (k : Nat) (p : Packet) : State :=
  let s1 := modPeer s p (fun q => { q with prepared := true, askAt := askTime s k })
  sendControl (modVersion s1 (peerOwner p) (fun v => { v with prepared := true })) p 6

/-- A sub-version of a peer's launch is discarded here, with what of it is still on its way (R255). -/
def dropStamp (s : State) (p : Packet) : State :=
  let s1 := rememberGone (withdrawPeer s p p.stamp) p p.stamp
  match peerOf s p with
  | none => s1
  | some _ => l2Sweep (modPeer s1 p (fun q => { q with bytes := q.bytes.filter (fun b => decide (b.stamp ≠ p.stamp)) }))

/-- What a run of a peer's launch has here is dropped (R266). -/
def dropRun (s : State) (p : Packet) : State := dropPeer (withdrawPeer s p 0) p

/-- The outcome of a launch here, for a holder that asks (R262): nothing while it has none. -/
def answerOutcome (s : State) (k : Nat) (p : Packet) : State :=
  match getLaunch s k (p.launch / 2) with
  | some l => if !l.ended then s else sendControl s p (if l.marked && p.launch % 2 = 0 then 2 else 3)
  | none => sendControl s p 3

/-- COMMIT_CONTROL (R264): TAG tells what it asks for (log entry 8). -/
def execCommitControl (p : Packet) (s : State) : Out :=
  .next (arrival s p 0x20 (fun s0 =>
    match residentOf s0 p.job p.rank with
    | none => refusePacket s0 p
    | some k =>
      let s := pulse s0 k
      match p.tag with
      | 1 => preparePeer s k p
      | 2 => commitPeer (forgetGone s p) k p
      | 3 => settle (forgetGone (dropRun s p) p)
      | 4 => settle (dropStamp s p)
      | 5 => adoptPeer (forgetGone s p) p (ofBytes p.payload)
      | 6 => prepareAck s k (p.launch / 2) (p.src + 131072 * p.srank)
      | 7 => answerOutcome s k p
      | 8 => abortLaunch s k (p.launch / 2) .shadowFull
      | 9 => settle (rememberGone (forgetGone (dropRun s p) p) p 0)
      | _ => discardPacket s))

/-- The holders here that have waited the watchdog window for an outcome ask die 0 of the owner (R262). -/
def askOutcomes (s : State) : State :=
  let late := s.link.peers.filter (fun q => q.prepared && decide (q.askAt ≤ s.clock))
  late.foldl (fun st q =>
    let p : Packet := { kind := 0x20, vc := 0, src := st.link.node, dst := q.node, job := q.job, rank := q.rank, srank := q.dest, addr := 0
                        tag := 7, launch := q.launch, stamp := 0, payload := [] }
    let k := ((residentOf st q.job q.dest)).getD 0
    sendPacket { st with link := { st.link with peers := st.link.peers.map (fun x => if x = q then { x with askAt := askTime st k } else x) } } p) s

/-- A packet that was held at its home is performed. -/
def redoPacket (s : State) (p : Packet) : State :=
  let r : Out :=
    match p.kind with
    | 0x01 => execRemoteStore p s
    | 0x02 => execLoadRequest p s
    | 0x06 => execRemoteAtomic p s
    | 0x07 => execRemoteReduction p s
    | _ => .next s
  match r with
  | .next t => t
  | _ => s

/-! ## The link itself (R360, R363) -/

/-- FLIT_RETRANSMIT (R363): the link repeats the flit; nothing reaches an agent twice or not at all. -/
def execFlitRetransmit (port _vc : Nat) (s : State) : Out :=
  .next (if port < 16 then { s with link := { s.link with resent := s.link.resent + 1 } } else s)

/-- PORT_RETRAIN_FAIL (R363): the port leaves the routes, and system software is told. -/
def execPortRetrainFail (port : Nat) (s : State) : Out :=
  .next (
    if port < 16 then
      post { s with link := { s.link with
        ports := insertNat port s.link.ports, routes := s.link.routes.filter (fun r => decide (r.2 ≠ port)) } } (.portLost port)
    else s)

/-- ROUTE_SET (R360, R379). -/
def execRouteSet (node port : Nat) (s : State) : Out :=
  .next (
    if manages s ∧ port < 16 ∧ node < 0xFFFF ∧ !s.link.ports.contains port then
      { s with link := { s.link with routes := spPut s.link.routes node port } }
    else s)

/-- NODE_NUMBER_SET (R360, R379): 0xFFFF is never a node. -/
def execNodeNumberSet (node : Nat) (s : State) : Out :=
  .next (if manages s ∧ node < 0xFFFF then { s with link := { s.link with node := node } } else s)

end Sys2Proof.Machine
end

