-- ==== Sys2Proof/Machine/Sha256.lean ====
section
/-!
DEFINITION. The SHA-256 digest that R380 and R384 name, by its published standard (PRESUMED: FIPS 180-4; log entry 7).
-/
namespace Sys2Proof.Machine

/-- The initial hash value. -/
def shaStart : List Nat :=
  [0x6A09E667, 0xBB67AE85, 0x3C6EF372, 0xA54FF53A, 0x510E527F, 0x9B05688C, 0x1F83D9AB, 0x5BE0CD19]

/-- The first half of the round constants. -/
def shaKeysLow : List Nat :=
  [0x428A2F98, 0x71374491, 0xB5C0FBCF, 0xE9B5DBA5, 0x3956C25B, 0x59F111F1, 0x923F82A4, 0xAB1C5ED5,
   0xD807AA98, 0x12835B01, 0x243185BE, 0x550C7DC3, 0x72BE5D74, 0x80DEB1FE, 0x9BDC06A7, 0xC19BF174,
   0xE49B69C1, 0xEFBE4786, 0x0FC19DC6, 0x240CA1CC, 0x2DE92C6F, 0x4A7484AA, 0x5CB0A9DC, 0x76F988DA,
   0x983E5152, 0xA831C66D, 0xB00327C8, 0xBF597FC7, 0xC6E00BF3, 0xD5A79147, 0x06CA6351, 0x14292967]

/-- The second half of the round constants. -/
def shaKeysHigh : List Nat :=
  [0x27B70A85, 0x2E1B2138, 0x4D2C6DFC, 0x53380D13, 0x650A7354, 0x766A0ABB, 0x81C2C92E, 0x92722C85,
   0xA2BFE8A1, 0xA81A664B, 0xC24B8B70, 0xC76C51A3, 0xD192E819, 0xD6990624, 0xF40E3585, 0x106AA070,
   0x19A4C116, 0x1E376C08, 0x2748774C, 0x34B0BCB5, 0x391C0CB3, 0x4ED8AA4A, 0x5B9CCA4F, 0x682E6FF3,
   0x748F82EE, 0x78A5636F, 0x84C87814, 0x8CC70208, 0x90BEFFFA, 0xA4506CEB, 0xBEF9A3F7, 0xC67178F2]

/-- A word rotated right. -/
def rotr (n x : Nat) : Nat := x / 2 ^ n + x % 2 ^ n * 2 ^ (32 - n)

/-- The sum of three terms of a word: rotated by a and b, and by c or shifted. -/
def shaMix (a b : Nat) (last x : Nat) : Nat := (rotr a x ^^^ rotr b x) ^^^ last

/-- One more word of a message schedule whose words stand newest first. -/
def shaExtend (ws : List Nat) : List Nat :=
  let at_ := fun (i : Nat) => ws.getD i 0
  let s0 := shaMix 7 18 (at_ 14 / 2 ^ 3) (at_ 14)
  let s1 := shaMix 17 19 (at_ 1 / 2 ^ 10) (at_ 1)
  ((s1 + at_ 6 + s0 + at_ 15) % 2 ^ 32) :: ws

/-- The 64 words of the schedule of a block of 16. -/
def shaSchedule (block : List Nat) : List Nat := ((upTo 48).foldl (fun ws _ => shaExtend ws) block.reverse).reverse

/-- The eight working variables. -/
structure ShaVars where
  a : Nat
  b : Nat
  c : Nat
  d : Nat
  e : Nat
  f : Nat
  g : Nat
  h : Nat
deriving DecidableEq, Repr

/-- One round with a key and a word of the schedule. -/
def shaRound (v : ShaVars) (k : Nat × Nat) : ShaVars :=
  let t1 := v.h + shaMix 6 11 (rotr 25 v.e) v.e + ((v.e &&& v.f) ^^^ ((2 ^ 32 - 1 - v.e) &&& v.g)) + k.1 + k.2
  let t2 := shaMix 2 13 (rotr 22 v.a) v.a + (((v.a &&& v.b) ^^^ (v.a &&& v.c)) ^^^ (v.b &&& v.c))
  { a := (t1 + t2) % 2 ^ 32, b := v.a, c := v.b, d := v.c, e := (v.d + t1) % 2 ^ 32, f := v.e, g := v.f, h := v.g }

/-- The variables from a hash value. -/
def shaVars (hs : List Nat) : ShaVars :=
  let at_ := fun (i : Nat) => hs.getD i 0
  ⟨at_ 0, at_ 1, at_ 2, at_ 3, at_ 4, at_ 5, at_ 6, at_ 7⟩

/-- A hash value with one block of 16 words. -/
def shaBlock (hs block : List Nat) : List Nat :=
  let v := ((shaKeysLow ++ shaKeysHigh).zip (shaSchedule block)).foldl shaRound (shaVars hs)
  (hs.zip [v.a, v.b, v.c, v.d, v.e, v.f, v.g, v.h]).map (fun p => (p.1 + p.2) % 2 ^ 32)

/-- Bytes as a number, the first the most significant. -/
def ofBytesBig (bs : List Byte) : Nat := bs.foldl (fun n b => 256 * n + b.toNat) 0

/-- A number as n bytes, the first the most significant. -/
def bytesBig (n v : Nat) : List Byte := (bytesOf n v).reverse

/-- A message padded to whole blocks of 64 bytes. -/
def shaPadded (m : List Byte) : List Byte :=
  m ++ [0x80] ++ List.replicate ((119 - m.length % 64) % 64) 0 ++ bytesBig 8 (8 * m.length)

/-- The SHA-256 digest of a message: 32 bytes. -/
def sha256 (m : List Byte) : List Byte :=
  let bs := shaPadded m
  let words := fun (i : Nat) => (upTo 16).map (fun t => ofBytesBig ((bs.drop (64 * i + 4 * t)).take 4))
  ((upTo (bs.length / 64)).foldl (fun hs i => shaBlock hs (words i)) shaStart).flatMap (bytesBig 4)

end Sys2Proof.Machine
end

