-- ==== Sys2Proof/Machine/Fly.lean ====
section
/-!
DEFINITION. Flying a rank and re-creating one (R355 to R359, Tables 16.1 and 16.2). How SEND cuts a context into packets is the
model's own (log entry 21).
-/
namespace Sys2Proof.Machine

/-! ## Step boundaries (R355) -/

/-- A context is at a step boundary (R355). -/
def stepBoundary (s : State) (k : Nat) (c : Ctx) : Bool :=
  c.launches.all (fun l => l.ended) && c.queues.all (fun q => q.2.head == q.2.tail && !q.2.asked) && c.colls.all (fun q => q.done) &&
    s.cores.all (fun e => e.2.ctx != some k || e.2.task.isNone) && c.images.all (fun e => e.2.task.isNone)

/-- CTXM of a list of code objects, in load order (Table 17.4). -/
def ctxmOf (os : List CodeObj) : List Byte := sha256 (os.flatMap (fun (o : CodeObj) => sha256 (bytesOf o.len o.bytes)))

/-! ## Packets of a fly -/

/-- A part of a context as SEND carries it: the kind of part, its key and its bytes. -/
structure FlyPart where
  part : Nat
  key : Nat
  bytes : List Byte
deriving DecidableEq, Repr

/-- A fly data packet. -/
def flyDataPacket (s : State) (node job rank id : Nat) (x : FlyPart) : Packet :=
  { kind := 0x31, vc := 3, src := s.link.node, dst := node, job := job, rank := rank, srank := rank, addr := x.part * 2 ^ 56 + x.key
    tag := id, launch := 0, stamp := 0, payload := x.bytes }

/-- Numbers as 8 bytes each. -/
def wordsOf (xs : List Nat) : List Byte := xs.flatMap (bytesOf 8)

/-- Number i of a list of 8-byte numbers. -/
def wordAt (bs : List Byte) (i : Nat) : Nat := ofBytes ((bs.drop (8 * i)).take 8)

/-- The numbers of the 128-byte lines of a sparse range that hold something. -/
def usedLines (m : List Host.Cell) (lo hi : Nat) : List Nat :=
  (m.filter (fun e => decide (lo ≤ e.1) && decide (e.1 < hi))).foldl (fun acc e => insertNat (e.1 / 128) acc) []

/-- The position of a code object's tag in load order, from 1; 0 for a tag of no loaded object. -/
def tagIndex (c : Ctx) (tag : Nat) : Nat := if (c.code.any (fun o => o.tag == tag)) then 1 + indexIn tag (c.code.map (fun o => o.tag)) else 0

/-- Part 0: the identity of the context and what the runtime gave it. -/
def identityPart (c : Ctx) : FlyPart :=
  ⟨0, 0, wordsOf [c.nranks, c.key0, c.key1, c.clusters, c.chipBase, c.chipSize, c.hintDrops.toNat, c.nextHandle]⟩

/-- Parts 1, 2 and 16: the package-memory pages, the lines of each that hold something, and the entries for other memory. -/
def flyPageParts (s : State) (c : Ctx) : List FlyPart :=
  (pagesOf s c).flatMap (fun e =>
    match e.2 with
    | .leaf bits (tgt + 1) node addr rd wr => [⟨16, e.1, wordsOf [bits, tgt + 1, node, addr, ofBool rd, ofBool wr]⟩]
    | .leaf bits 0 _ addr rd wr =>
      ⟨1, e.1, bytesOf 1 bits ++ bytesOf 1 (ofBool rd) ++ bytesOf 1 (ofBool wr)⟩ ::
        (usedLines s.mem addr (addr + 2 ^ bits)).map (fun l => ⟨2, e.1 + (128 * l - addr), rawBytes s (128 * l) 128⟩)
    | _ => [])

/-- Parts 3 and 17: the bytes and the full tags of the chip scratchpad allocation (R41, R357). -/
def chipParts (s : State) (c : Ctx) : List FlyPart :=
  let inside := fun (p : Nat) => decide (chipPlace c.chipBase ≤ p) && decide (p < chipPlace c.chipBase + c.chipSize)
  (s.mem.filter (fun e => inside e.1)).map (fun e => ⟨3, e.1 - 2 ^ 40, [e.2]⟩) ++
    (s.tags.filter (fun t => inside (4 * t))).map (fun t => ⟨17, 4 * t - 2 ^ 40, []⟩)

/-- Parts 4 to 6: local memory with its tags, and the barrier files. -/
def localParts (c : Ctx) : List FlyPart :=
  c.imgMem.map (fun e => ⟨4, e.1, [e.2]⟩) ++ c.imgTags.map (fun t => ⟨5, t, []⟩) ++
    c.barriers.map (fun e =>
      let r := e.2.bytes.getD ⟨0, 0, 0⟩
      ⟨6, e.1, wordsOf [e.2.target, e.2.count, e.2.gen, ofBool e.2.armed, ofBool e.2.bytes.isSome, r.space, r.lo, r.hi]⟩)

/-- Parts 7 to 9: communicator descriptors with NEXTSEQ, queues, and comparators. -/
def registerParts (c : Ctx) : List FlyPart :=
  c.comms.map (fun e => ⟨7, e.1, wordsOf [e.2.map, e.2.nextSeq, e.2.size, e.2.pos, e.2.cls, ofBool e.2.en]⟩) ++
    c.queues.map (fun e => ⟨8, e.1, wordsOf [e.2.head, e.2.base, e.2.logSize, ofBool e.2.en]⟩) ++
    c.dbg.map (fun e => ⟨9, e.1, wordsOf [e.2.toNat]⟩)

/-- Parts 10 to 15: what a core image holds at a step boundary: DCYC, spill memory, lane slices, region tags and bundles. -/
def coreParts (c : Ctx) : List FlyPart :=
  c.images.flatMap (fun e =>
    let b := 2 ^ 20 * e.1
    ⟨10, b, wordsOf [e.2.dev.dcyc.toNat]⟩ ::
      (e.2.loc.spillV.map (fun x => ⟨11, b + x.1, bytesOf 256 x.2.toNat⟩) ++ e.2.loc.spillX.map (fun x => ⟨12, b + x.1, wordsOf [x.2.toNat]⟩) ++
        e.2.loc.slices.map (fun x => ⟨13, b + x.1, wordsOf [x.2.toNat]⟩) ++
        e.2.imem.tags.map (fun x => ⟨14, b + x.1, wordsOf [tagIndex c x.2]⟩) ++
        e.2.imem.bundles.map (fun x => ⟨15, b + x.1, bytesOf 32 x.2.toNat⟩)))

/-- Everything that SEND carries (Table 16.2). The statuses of launches that have ended are not among it, so LWAIT at the new home finds
the handle UNKNOWN (DESIGN CHOICE: R204 and R356 do not say; log entry 88). -/
def flyParts (s : State) (c : Ctx) : List FlyPart :=
  identityPart c :: (registerParts c ++ localParts c ++ coreParts c ++ chipParts s c ++ flyPageParts s c)

/-! ## The parts as they arrive -/

/-- A function applied to the image of a logical core. -/
def Ctx.modImage (c : Ctx) (i : Nat) (f : Core → Core) : Ctx := { c with images := spPut c.images i (f (spGet {} c.images i)) }

/-- The bytes of a page or of the chip scratchpad as cells. -/
def Copy.withCells (y : Copy) (x : FlyPart) : Copy :=
  match x.part with
  | 2 => { y with bytes := addCells y.bytes x.key x.bytes }
  | _ => { y with chip := addCells y.chip x.key x.bytes }

/-- A part of a core's image put in place. -/
def Ctx.withCorePart (c : Ctx) (x : FlyPart) : Ctx :=
  let k := x.key % 2 ^ 20
  let w := wordAt x.bytes 0
  c.modImage (x.key / 2 ^ 20) (fun q =>
    match x.part with
    | 10 => { q with dev := { q.dev with dcyc := BitVec.ofNat 64 w } }
    | 11 => { q with loc := { q.loc with spillV := spSet 0 q.loc.spillV k (BitVec.ofNat 2048 (ofBytes x.bytes)) } }
    | 12 => { q with loc := { q.loc with spillX := spSet 0 q.loc.spillX k (BitVec.ofNat 64 w) } }
    | 13 => { q with loc := { q.loc with slices := spSet 0 q.loc.slices k (BitVec.ofNat 32 w) } }
    | 14 => { q with imem := { q.imem with tags := spPut q.imem.tags k w } }
    | _ => { q with imem := { q.imem with bundles := spSet 0 q.imem.bundles k (BitVec.ofNat 256 (ofBytes x.bytes)) } })

/-- A part of a context put in place. -/
def Ctx.withPart (c : Ctx) (x : FlyPart) : Ctx :=
  let w := wordAt x.bytes
  match x.part with
  | 0 => { c with nranks := w 0, key0 := w 1, key1 := w 2, clusters := w 3, chipBase := w 4, chipSize := w 5
                  hintDrops := BitVec.ofNat 64 (w 6), nextHandle := w 7 }
  | 4 => { c with imgMem := addCells c.imgMem x.key x.bytes }
  | 5 => { c with imgTags := insertNat x.key c.imgTags }
  | 6 =>
    let b : Barrier :=
      { target := w 0, count := w 1, gen := w 2, armed := w 3 != 0, bytes := if w 4 = 0 then none else some ⟨w 5, w 6, w 7⟩ }
    { c with barriers := spSet {} c.barriers x.key b }
  | 7 =>
    let m : Comm := { map := w 0, nextSeq := w 1, size := w 2, pos := w 3, cls := w 4, en := w 5 != 0 }
    { c with comms := spSet {} c.comms x.key m }
  | 8 =>
    let q : Queue := { head := w 0, tail := w 0, base := w 1, logSize := w 2, en := w 3 != 0 }
    { c with queues := spSet {} c.queues x.key q }
  | 9 => { c with dbg := spSet 0 c.dbg x.key (BitVec.ofNat 64 (w 0)) }
  | _ => c.withCorePart x

/-- A part of an arriving context put in place. -/
def Copy.withPart (y : Copy) (x : FlyPart) : Copy :=
  match x.part with
  | 1 => { y with pages := y.pages ++ [⟨x.key, ofBytes (x.bytes.take 1), ofBytes ((x.bytes.drop 1).take 1) != 0,
                                        ofBytes ((x.bytes.drop 2).take 1) != 0⟩] }
  | 2 | 3 => y.withCells x
  | 16 =>
    let w := wordAt x.bytes
    { y with away := y.away ++ [⟨x.key, w 0, w 1, w 2, w 3, w 4 != 0, w 5 != 0⟩] }
  | 17 => { y with tags := insertNat x.key y.tags }
  | _ => { y with ctx := y.ctx.withPart x }

/-- The arriving context is the one that a packet belongs to. -/
def Copy.isOf (y : Copy) (p : Packet) : Bool := y.node == p.src && y.id == p.tag && y.ctx.job == p.job && y.ctx.rank == p.srank

/-- A function applied to the arriving context that a packet belongs to; a packet for none is refused (R362, R378), and one for a
context that is complete is discarded. -/
def modCopy (s : State) (p : Packet) (f : Copy → Copy) : State :=
  match s.link.copies.find? (fun y => y.isOf p) with
  | none => refusePacket s p
  | some y =>
    if y.complete then discardPacket s
    else { s with link := { s.link with copies := s.link.copies.map (fun y => if y.isOf p then f y else y) } }

/-! ## What BIND reserves (R356) -/

/-- The frames of a context's page tables. -/
def tablesFrom (s : State) : Nat → Nat → Nat → List (Nat × Nat)
  | 0, _, _ => []
  | fuel + 1, level, table =>
    (table / 65536 * 65536, 65536) :: (validEntries s table (if level = 1 then 512 else 2048)).flatMap (fun i =>
      let e := rawNat s (table + 8 * i) 8
      if bitAt e 2 then [] else tablesFrom s fuel (level + 1) (field e 12 34 * 4096))

/-- The package memory in use: pages, page tables and save areas of contexts, the pools of the chorus, and what is set aside. -/
def memoryUsed (s : State) : List (Nat × Nat) :=
  (0x5FF0000000, 0x10000000) :: (reservedRanges s ++ framesUsed s ++
    s.ctxs.flatMap (fun e => (e.2.area, areaBytes e.2) :: tablesFrom s 3 1 e.2.root))

/-- The next multiple of a size. -/
def roundUp (a size : Nat) : Nat := (a + size - 1) / size * size

/-- The lowest free range of package memory on a multiple of `align`, beside ranges in use (which frames the stage manager reserves is
its own choice: DESIGN CHOICE, log entry 21). -/
def freeRange (s : State) (used : List (Nat × Nat)) (size align : Nat) : Option Nat :=
  let from_ := [0, 0x8000000000] ++ used.map (fun u => u.1 + u.2) ++ s.hw.retired.map (fun f => 65536 * (f + 1))
  let free := fun (a : Nat) => pageUsable s a size && !used.any (meets (a, size))
  ((from_.map (fun a => roundUp a align)).filter free).foldl (fun acc a => some (min a (acc.getD a))) none

/-- n frames of 2 ^ bits bytes beside ranges in use, if there are as many. -/
def freeFrames (s : State) (used : List (Nat × Nat)) (bits : Nat) : Nat → Option (List (Nat × Nat))
  | 0 => some []
  | n + 1 =>
    match freeRange s used (2 ^ bits) (2 ^ bits) with
    | none => none
    | some a => (freeFrames s ((a, 2 ^ bits) :: used) bits n).map (fun fs => (a, bits) :: fs)

/-- The sizes of a page, as the bits of its offset (R347). -/
def pageSizes : List Nat := [38, 27, 16]

/-- An arriving context before its parts: what BIND asks for, with the resident slot reserved. -/
def emptyCopy (p : Packet) (k : Nat) : Copy :=
  let w := wordAt (p.payload.drop 33)
  { node := p.src, id := p.tag, slot := k, ctxm := (p.payload.drop 1).take 32, live := w 6 != 0
    ctx := { blankCtx with job := p.job, rank := p.srank, state := .parked, chipBase := w 0, chipSize := w 1, clusters := w 2 } }

/-- Frames for every page that BIND counts, the largest first, and a save area in HBM (R352). -/
def reserveMemory (s : State) (p : Packet) (y : Copy) : Option Copy :=
  let w := wordAt (p.payload.drop 33)
  let take := fun (acc : Option (List (Nat × Nat))) (e : Nat × Nat) =>
    acc.bind (fun fs => (freeFrames s (fs.map (fun x => (x.1, 2 ^ x.2)) ++ memoryUsed s) e.1 e.2).map (fun more => fs ++ more))
  match (pageSizes.zip [w 5, w 4, w 3]).foldl take (some []) with
  | none => none
  | some fs =>
    match freeRange s (fs.map (fun x => (x.1, 2 ^ x.2)) ++ memoryUsed s) (areaBytes y.ctx) 65536 with
    | some a => if inHbm a then some { y with frames := fs, area := a } else none
    | none => none

/-- The resident slot that BIND reserves: the first free one for which the same code objects are loaded (R356). -/
def bindSlot (s : State) (p : Packet) : Option Nat :=
  (upTo 64).find? (fun k => slotFree s k && ctxmOf (spGet [] s.link.code k) == (p.payload.drop 1).take 32)

/-- What BIND reserves: a slot, the chip scratchpad range, frames and a save area. -/
def bound (s : State) (p : Packet) : Option Copy :=
  (bindSlot s p).bind (fun k =>
    let y := emptyCopy p k
    if chipFree s y.ctx.chipBase y.ctx.chipSize then reserveMemory s p y else none)

/-- BIND at the destination (R356): what the context needs is reserved, or the fly is refused. -/
def bindHere (s : State) (p : Packet) : State :=
  let answer := fun (st : State) (code : Nat) => sendPacket st (flyControlPacket st p.src p.job p.srank p.tag code [])
  match bound s p with
  | none => answer s 7
  | some y => answer { s with link := { s.link with copies := s.link.copies ++ [y] } } 6

/-- The frame of each 64 KiB of a page of a context here with the frame that it has at the destination (R358). -/
def pageFrames (s : State) (c : Ctx) (va new : Nat) : List (Nat × Nat) :=
  match walkTable s c.root va with
  | .leaf bits 0 _ addr _ _ => (upTo (2 ^ bits / 65536)).map (fun i => (addr / 65536 + i, new / 65536 + i))
  | _ => []

/-- News from the destination of a fly (R356): bound, refused, a page's new frame, or the context parked there. -/
def flyNews (s : State) (f : Fly) (c : Ctx) (p : Packet) : State :=
  let w := wordAt (p.payload.drop 1)
  match ofBytes (p.payload.take 1) with
  | 3 =>
    let new := pageFrames s c (w 0) (w 1)
    modFly s f.ctx (fun x => { x with frames := spMerge x.frames new, since := s.clock })
  | 4 => modFly s f.ctx (fun x => { x with ready := true })
  | 6 => modFly s f.ctx (fun x => if x.phase = .bind then { x with phase := .wait } else x)
  | 7 => if f.phase = .bind then post (dropFly s f.ctx) (.refused 2) else s
  | _ => discardPacket s

/-- The source of a fly has switched: the context that is parked here is no longer there, and system software is told (R356). -/
def confirmArrival (s : State) (p : Packet) : State :=
  match s.link.arrived.find? (fun a => a.node == p.src && a.id == p.tag) with
  | none => refusePacket s p
  | some a => post { s with link := { s.link with arrived := s.link.arrived.erase a } } (.flown a.ctx s.link.node)

/-- FLY_CONTROL (R356): at the destination it binds, completes, drops or confirms an arriving context; at the source it brings news. One
for no fly that is known here is refused (R362, R378). -/
def execFlyControl (p : Packet) (s : State) : Out :=
  .next (arrival s p 0x30 (fun s =>
    match ofBytes (p.payload.take 1) with
    | 1 => bindHere s p
    | 2 => modCopy s p (fun y => { y with complete := true })
    | 5 => dropArriving s p.src p.tag
    | 8 => confirmArrival s p
    | _ =>
      match flyOf s p with
      | none => refusePacket s p
      | some (f, c) => flyNews s f c p))

/-- FLY_DATA (R356): a part of an arriving context. -/
def execFlyData (p : Packet) (s : State) : Out :=
  .next (arrival s p 0x31 (fun s => modCopy s p (fun y => y.withPart ⟨p.addr / 2 ^ 56, p.addr % 2 ^ 56, p.payload⟩)))

/-! ## The source (Table 16.2) -/

/-- The number of package-memory pages of a context with 2 ^ bits bytes. -/
def pageCount (s : State) (c : Ctx) (bits : Nat) : Nat := ((framesOf s c).filter (fun e => e.2 == 2 ^ bits)).length

/-- FLY_BIND (R356): system software asks, and the destination is told what the context needs: code objects, chip scratchpad range,
clusters, and pages of each size; the stage manager may decline. -/
def execFlyBind (ctx node : Nat) (accepted : Bool) (s : State) : Out :=
  .next (
    match getCtx s ctx with
    | none => s
    | some c =>
      if !accepted || c.state == .killed || c.state == .flying || (findFly s ctx).isSome || awaitsSwitch s ctx then post s (.refused 2)
      else
        let id := s.link.nextFly
        let s1 := { s with link := { s.link with
          nextFly := id + 1, flies := s.link.flies ++ [{ ctx := ctx, node := node, phase := .bind, id := id }] } }
        sendPacket s1 (flyControlPacket s1 node c.job c.rank id 1 (ctxmOf c.code ++
          wordsOf [c.chipBase, c.chipSize, c.clusters, pageCount s c 16, pageCount s c 27, pageCount s c 38, 1])))

/-- FLY_CANCEL (R356): the context is unchanged. -/
def execFlyCancel (ctx : Nat) (s : State) : Out :=
  .next (
    match findFly s ctx, getCtx s ctx with
    | some f, some c =>
      if f.phase = .bind ∨ f.phase = .wait then abandonFly s f c else s
    | _, _ => s)

/-- Nothing of other packages is open in the memory of a context: no shadow, nothing given up that may still be on its way, and no
ordered sequence (log entry 21). -/
def nothingOpen (s : State) (c : Ctx) : Bool :=
  (peersOf s c).isEmpty && s.link.gone.all (fun g => !(g.job == c.job && g.dest == c.rank)) && !s.hw.seqs.any (fun q => isGlobalPlace q.place && mapsPlace s c q.place)

/-- A context can be saved for its fly: at a step boundary, and in no other change of residency (R355, R356). -/
def flySavable (s : State) (k : Nat) (c : Ctx) : Bool :=
  stepBoundary s k c && !c.saving && !c.restoring && c.decided.isNone && nothingOpen s c &&
    (c.state == .parked || c.state == .green || (c.state == .running && (coresOf c).all (fun e => coreSavable s e.2)))

/-- The partials of a context's package memory merge into their values before it is sent (R241). -/
def mergePages (s : State) (c : Ctx) : State :=
  (pagesOf s c).foldl (fun st e =>
    match e.2 with
    | .leaf bits 0 _ addr _ _ => mergeRange st addr (2 ^ bits)
    | _ => st) s

/-- SEND: every part of a saved context goes out, then its end. -/
def sendContext (s : State) (f : Fly) (c : Ctx) : State :=
  let s1 := (flyParts s c).foldl (fun st x => sendPacket st (flyDataPacket st f.node c.job c.rank f.id x)) s
  sendPacket s1 (flyControlPacket s1 f.node c.job c.rank f.id 2 [])

/-- FLY_SAVE (R356): the context is saved, becomes FLYING and is sent; it is killed where its image cannot be read (R338). -/
def execFlySave (ctx : Nat) (s : State) : Out :=
  .next (
    match findFly s ctx, getCtx s ctx with
    | some f, some c =>
      if f.phase ≠ .wait ∨ !flySavable s ctx c then s
      else if imageDamaged s c then killDamaged s ctx c
      else
        let s1 := if c.state = .running then saveNow s ctx c else s
        let s2 := modFly (modCtx s1 ctx (fun x => { x with state := .flying })) ctx (fun x => { x with phase := .send, since := s.clock })
        let s3 := mergePages s2 c
        sendContext s3 f ((getCtx s3 ctx).getD c)
    | _, _ => s)

/-- A held packet goes on to the destination, or is refused where its frame is none of the context's (R358). -/
def forwardHeld (s : State) (f : Fly) (p : Packet) : State :=
  match spFind f.frames (p.addr / 65536) with
  | some x => forwardPacket s p f x
  | none => refusePacket s p

/-- FLY_SWITCH (R356): the context is parked at the destination, which is told, and the source forwards what still comes for it, waits
that others have armed here among it (R358). -/
def execFlySwitch (ctx : Nat) (s : State) : Out :=
  .next (
    match findFly s ctx, getCtx s ctx with
    | some f, some c =>
      if f.phase ≠ .send ∨ !f.ready then s
      else
        let waits := (s.link.monitors.filter (fun m => m.ctx == ctx)).map (fun m => m.packet)
        let s1 := clearTlbs (modFly s ctx (fun x => { x with phase := .forward, held := [] })) ctx
        let s2 := { s1 with ctxs := spErase s1.ctxs ctx
                            link := { s1.link with monitors := s1.link.monitors.filter (fun m => m.ctx != ctx) } }
        let s3 := sendPacket s2 (flyControlPacket s2 f.node c.job c.rank f.id 8 [])
        post ((waits ++ f.held).foldl (fun st p => forwardHeld st f p) s3) (.flown ctx f.node)
    | _, _ => s)

/-- The destination is lost, or the transfer has stalled for the watchdog window (R356). -/
def flyLost (s : State) (f : Fly) (c : Ctx) : Bool :=
  f.lost || !reachable s f.node || decide (f.since + 2 ^ c.wlog ≤ s.clock)

/-- FLY_ABANDON (R356): the context returns to PARKED at the source, and the packets held for it are performed. -/
def execFlyAbandon (ctx : Nat) (s : State) : Out :=
  .next (
    match findFly s ctx, getCtx s ctx with
    | some f, some c =>
      if f.phase ≠ .send ∨ f.ready ∨ !flyLost s f c then s
      else abandonFly (modCtx s ctx (fun x => { x with state := .parked })) f c
    | _, _ => s)

/-- FLY_RELEASE (R356): forwarding ends, and the frames are freed and wiped (R350). -/
def execFlyRelease (ctx : Nat) (s : State) : Out :=
  .next (
    match s.link.flies.find? (fun f => f.ctx == ctx && f.phase == .forward) with
    | none => s
    | some f =>
      f.frames.foldl (fun st e => wipeAll st (65536 * e.1) 65536)
        { s with link := { s.link with flies := s.link.flies.erase f } })

/-! ## The destination: SWITCH of a fly, and re-creation (R356, R359) -/

/-- A page of an arriving context is mapped by the tables built for it, with its size and permissions, to a frame reserved for it. -/
def pageMatches (s : State) (root : Nat) (frames : List (Nat × Nat)) (g : CopyPage) : Bool :=
  match walkTable s root g.va with
  | .leaf bits 0 _ addr rd wr => bits == g.bits && rd == g.rd && wr == g.wr && frames.contains (addr, bits)
  | _ => false

/-- The frame that tables map a page to. -/
def pageFrame (s : State) (root : Nat) (g : CopyPage) : Nat :=
  match walkTable s root g.va with
  | .leaf _ _ _ addr _ _ => addr
  | _ => 0

/-- No number occurs twice. -/
def allDistinct (xs : List Nat) : Bool := (xs.foldl (fun acc x => insertNat x acc) []).length == xs.length

/-- An entry of an arriving context for other memory is copied unchanged by the tables built for it. -/
def entryMatches (s : State) (root : Nat) (g : CopyEntry) : Bool := walkTable s root g.va == .leaf g.bits g.tgt g.node g.addr g.rd g.wr

/-- What BIND reserved for an arriving context is there, the tables built for it map what it had, and the rest is as it was
(Table 16.2); `s` is without what is set aside for it. -/
def arrivalFits (s : State) (k : Nat) (y : Copy) (p : ContextParams) : Bool :=
  slotFree s k && paramsFit s p && y.complete && p.area == y.area && k == y.slot && p.job == y.ctx.job && p.rank == y.ctx.rank &&
    p.nranks == y.ctx.nranks && p.key0 == y.ctx.key0 && p.key1 == y.ctx.key1 && p.clusters == y.ctx.clusters &&
    p.chipBase == y.ctx.chipBase && p.chipSize == y.ctx.chipSize && ctxmOf (spGet [] s.link.code k) == y.ctxm &&
    y.pages.all (pageMatches s p.root y.frames) && allDistinct (y.pages.map (pageFrame s p.root)) && y.away.all (entryMatches s p.root)

/-- Region tags in terms of the objects loaded here (R90, R356). -/
def retag (os : List CodeObj) (m : InstrMem) : InstrMem :=
  { m with tags := m.tags.filterMap (fun e => (os[e.2 - 1]?).map (fun o => (e.1, o.tag))) }

/-- The arriving context as it stands here, parked. -/
def arrivedCtx (s : State) (k : Nat) (y : Copy) (p : ContextParams) : Ctx :=
  let os := spGet [] s.link.code k
  { y.ctx with
    state := .parked, root := p.root, area := p.area, code := os, wlog := p.wlog, spillCap := p.spill, overflowCap := p.overflow
    allowance := p.allowance, keepAllow := p.keep, images := y.ctx.images.map (fun e => (e.1, { e.2 with imem := retag os e.2.imem })) }

/-- The frames of a page are wiped before the context's bytes are put there. -/
def wipePage (s : State) (root : Nat) (g : CopyPage) : State :=
  match walkTable s root g.va with
  | .leaf bits _ _ addr _ _ => wipeAll s addr (2 ^ bits)
  | _ => s

/-- The news of a page's new frame for the source. -/
def sendFrame (s : State) (y : Copy) (root : Nat) (g : CopyPage) : State :=
  match walkTable s root g.va with
  | .leaf _ _ _ addr _ _ => sendPacket s (flyControlPacket s y.node y.ctx.job y.ctx.rank y.id 3 (wordsOf [g.va, addr]))
  | _ => s

/-- The bytes and tags of an arriving context written into its frames and its chip scratchpad range, wiped before (R350). -/
def writeCopy (s : State) (k : Nat) (y : Copy) (p : ContextParams) : State :=
  let s0 := claimRange (claimPages s s k) [] (chipPlace p.chipBase) p.chipSize p.job
  let s1 := y.pages.foldl (fun st g => wipePage st p.root g) (wipeAll s0 (chipPlace p.chipBase) p.chipSize)
  let s2 := y.bytes.foldl (fun st e =>
    match blockPlace st k e.1 with
    | some q => putByte st q e.2
    | none => st) s1
  y.tags.foldl (fun st t => setTag st (chipPlace t) true) (y.chip.foldl (fun st e => putByte st (chipPlace e.1) e.2) s2)

/-- RECREATE (R356, R359): SWITCH at the destination of a fly or of a re-creation. `copy` numbers the arriving context; the tables under
`p.root` map its pages to the frames that BIND reserved. A flown context awaits its source's switch; one that is re-created has no
live source, and system software is told at once. -/
def execRecreate (ctx copy : Nat) (p : ContextParams) (s : State) : Out :=
  .next (
    match s.link.copies[copy]? with
    | none => post s (.refused 3)
    | some y =>
      let s0 := { s with link := { s.link with copies := s.link.copies.eraseIdx copy } }
      let s1 := setCtx (vacate s0 ctx) ctx (arrivedCtx s0 ctx y p)
      if !arrivalFits s0 ctx y p || mapsTaken s1 ctx then post s (.refused 3)
      else
        let s2 := clearTlbs (writeCopy s1 ctx y p) ctx
        let s3 := y.pages.foldl (fun st g => sendFrame st y p.root g) s2
        let s4 := sendPacket s3 (flyControlPacket s3 y.node y.ctx.job y.ctx.rank y.id 4 [])
        let s5 := { s4 with link := { s4.link with code := spErase s4.link.code ctx } }
        if y.live then { s5 with link := { s5.link with arrived := ⟨ctx, y.node, y.id⟩ :: s5.link.arrived } }
        else post s5 (.flown ctx s5.link.node))

end Sys2Proof.Machine
end

