-- ==== Sys2Proof/Machine/HostPort.lean ====
section
/-!
DEFINITION. The host port (R373 to R377): doorbells, BAR2, descriptors and parameters that system software writes, the completion
ring; and the accesses of other agents that were held at a prepared line (R263).
-/
namespace Sys2Proof.Machine

/-- How the host port answers a configuration request (R379): not at all without power, with Configuration Request Retry Status until
READY, and then as PCI Express serves it. -/
inductive ConfigAnswer where
  | none | retry | served
deriving DecidableEq, Repr

/-- The answer to a configuration request (R379). -/
def configAnswer (s : State) : ConfigAnswer := if !poweredOn s then .none else if !s.plat.ready then .retry else .served

/-- Doorbells and BAR2 are served: the port is READY, and the package not decommissioned (R379, R383). -/
def servesHost (s : State) : Bool := portReady s && s.plat.life != 3

/-! ## DOORBELL (R375) -/

/-- The doorbell numbers listed once per unread host record: as many of a queue as it has records, the last ones dropped where
TAIL has moved back. -/
def ringTo (rung : List Nat) (queue n : Nat) : List Nat :=
  let have_ := (rung.filter (fun q => q == queue)).length
  if have_ ≤ n then rung ++ List.replicate (n - have_) queue
  else (upTo (have_ - n)).foldl (fun r _ => (r.reverse.erase queue).reverse) rung

/-- A new TAIL of a queue with D = new TAIL − HEAD (R375). -/
def newTail (s : State) (k queue value : Nat) (c : Ctx) (q : Queue) : State :=
  let d := (value + 2 ^ 32 - q.head) % 2 ^ 32
  if 2 ^ 31 ≤ d then { s with host := { s.host with ignored := s.host.ignored + 1 } }
  else
    let beyond := decide (2 ^ q.logSize < d)
    let q1 := { q with tail := value, en := q.en && !beyond }
    let s1 := setCtx s k { c with queues := spSet {} c.queues queue q1, rung := ringTo c.rung queue d }
    if beyond then post s1 (.overrun k queue) else s1

/-- An access of the host waits at a prepared line; what the host does later follows it (R240, R263). -/
def hostWaits (s : State) : Bool :=
  s.link.heldHere.any (fun h =>
    match h.what with
    | .packet _ => false
    | _ => true)

/-- A write of the host that reaches nothing is ignored and counted (R375, R382). -/
def ignoreWrite (s : State) : State := { s with host := { s.host with ignored := s.host.ignored + 1 } }

/-- The doorbell of queue q of resident slot k lies at offset 8 × (8 k + q) of BAR0 (R375). -/
def doorbellOf (offset : Nat) : Option (Nat × Nat) :=
  if offset < 4096 ∧ offset % 8 = 0 then some (offset / 64, offset / 8 % 8) else none

/-- QTAIL as the host reads it (Table 16.7). -/
def qtailWord (q : Queue) : Nat := q.head * 2 ^ 32 + q.tail

/-- A doubleword of BAR0 as the host reads it: the doorbells, then the mailbox with the command and status words and the result
(R373, R375, R382). -/
def bar0Word (s : State) (offset : Nat) : Nat :=
  match doorbellOf offset with
  | some (k, q) => qtailWord (spGet {} ((getCtx s k).getD blankCtx).queues q)
  | none =>
    if offset = 0x1000 then s.host.command + 2 ^ 32 * s.host.status
    else if 0x1008 ≤ offset ∧ offset < 0x10000 then ofBytes ((s.host.result.drop (offset - 0x1008)).take 8)
    else 0

/-- DOORBELL (R375, R376): a write of a doubleword of BAR0, whose upper word, HEAD's, is read-only. It follows the host's
earlier writes (R240); one for no context, or for one that is being sent or arrives, is ignored and counted (R356). -/
def execDoorbell (offset head tail : Nat) (s : State) : Out :=
  .next (
    if !servesHost s then s
    else
      let s1 := wake s
      if hostWaits s1 then holdEvent s1 (2 ^ 63) (.doorbell offset head tail)
      else
        match doorbellOf offset with
        | none => ignoreWrite s1
        | some (k, queue) =>
          match getCtx s1 k with
          | none => ignoreWrite s1
          | some c =>
            if c.state = .flying ∨ awaitsSwitch s1 k then ignoreWrite s1
            else newTail s1 k queue (tail % 2 ^ 32) c (spGet {} c.queues queue))

/-! ## BAR2 (R240, R373) -/

/-- A physical address lies in a frame exported to the host. -/
def isExported (s : State) (a : Nat) : Bool := s.host.exported.contains (a / 65536)

/-- The lines of exported frames that a host access meets. -/
def hostLines (s : State) (addr len : Nat) : List Nat :=
  if len = 0 then [] else (linesOf addr len).filter (fun l => isExported s (128 * l))

/-- A host access is held: behind another, or at a line that a prepared version holds (R240, R263). -/
def hostHeld (s : State) (addr len : Nat) : Bool := hostWaits s || (hostLines s addr len).any (fun l => lineBusy s (128 * l) 128)

/-- An access lies in the window of 1 TiB (R373). -/
def inBar2 (addr len : Nat) : Bool := decide (addr + len ≤ 2 ^ 40)

/-- One byte as the host reads it: 0 outside the exported frames. -/
def hostByte (s : State) (a : Nat) : Byte := if isExported s a then rawByte s a else 0

/-- BAR2_READ (R240, R373): one access in the memory order; a frame in whose bytes it finds an uncorrectable error is retired (R343), and
the damaged bytes are what it reads (log entry 83). -/
def execBar2Read (addr len : Nat) (s : State) : Out :=
  .next (
    if !servesHost s || !inBar2 addr len then s
    else
      let s1 := wakeUp s
      if hostHeld s1 addr len then holdEvent s1 addr (.hostRead addr len)
      else
        let ls := hostLines s1 addr len
        let s2 := mergeLines s1 ls
        let s3 := ls.foldl (fun st l => retireRange st (max addr (128 * l)) (min (addr + len) (128 * l + 128) - max addr (128 * l))) (if ls.isEmpty then s2 else loads s2 .manager addr len)
        { s3 with host := { s3.host with readData := (upTo len).map (fun i => hostByte s3 (addr + i)) } })

/-- BAR2_WRITE (R240, R373): one access in the memory order; bytes outside the exported frames are dropped, and the write is
counted. -/
def execBar2Write (addr : Nat) (bytes : List Byte) (s : State) : Out :=
  .next (
    if !servesHost s || !inBar2 addr bytes.length then s
    else
      let s1 := wakeUp s
      if hostHeld s1 addr bytes.length then holdEvent s1 addr (.hostWrite addr bytes)
      else
        let ls := hostLines s1 addr bytes.length
        let ps := (upTo bytes.length).zip bytes
        let s2 := if ps.all (fun e => isExported s1 (addr + e.1)) then s1
          else { s1 with host := { s1.host with dropped := s1.host.dropped + 1 } }
        let s3 := stampLines (l2WriteAll (mergeLines s2 ls) (ls.map (fun x => ⟨x, .committed, false⟩))).1 ls
        settle (ps.foldl (fun st e => if isExported st (addr + e.1) then putByte st (addr + e.1) e.2 else st) s3))

/-! ## REGISTER_WRITE (R305, R321, R326, R365, R374) -/

/-- A communicator descriptor written (Table 16.5): NEXTSEQ is read-only. -/
def commOfValue (old : Comm) (v : Nat) : Comm :=
  { map := field v 64 64, nextSeq := old.nextSeq, size := field v 31 17, pos := field v 15 16, cls := field v 1 2, en := bitAt v 0 }

/-- A queue descriptor written (Table 16.6): HEAD is read-only. -/
def queueOfValue (old : Queue) (v : Nat) : Queue :=
  { old with base := field v 12 52 * 4096, logSize := field v 3 5, en := bitAt v 0 }

/-- A number kept in a list or taken out of it. -/
def putBit (on : Bool) (x : Nat) (xs : List Nat) : List Nat := if on then insertNat x xs else xs.filter (fun y => decide (y ≠ x))

/-- An exclusive launch of a context is live (R259). -/
def exclusiveLive (c : Ctx) : Bool := c.launches.any (fun l => l.live && l.desc.flag 2)

/-- REGISTER_WRITE: a descriptor or parameter takes a value, where system software manages the package (R379, R381, R383); it wakes
the package as a mailbox command does (R386). -/
def execRegisterWrite (reg : SysReg) (value : Nat) (s0 : State) : Out :=
  let s := wake s0
  .next (
    if !manages s0 then s0
    else
    match reg with
    | .comm k i => modCtx s k (fun c =>
        if i < 16 then { c with comms := spSet {} c.comms i (commOfValue (spGet {} c.comms i) value) } else c)
    | .qdesc k q => modCtx s k (fun c =>
        if q < 8 then { c with queues := spSet {} c.queues q (queueOfValue (spGet {} c.queues q) value) } else c)
    | .keepAllowance k => modCtx s k (fun c => if value ≤ 1572864 then { c with keepAllow := value } else c)
    | .spillAllowance k => modCtx s k (fun c => if exclusiveLive c then c else { c with allowance := value })
    | .wlog k => modCtx s k (fun c => { c with wlog := value })
    | .drainWindow => { s with plat := { s.plat with wd := value } }
    | .killTokens => { s with plat := { s.plat with tk := value } }
    | .powerLimit => if 600 ≤ value ∧ value ≤ 2100 then { s with plat := { s.plat with powerLimit := value } } else s
    | .ringBase k => modCtx s k (fun c => { c with ring := { c.ring with base := value } })
    | .ringSize k => modCtx s k (fun c => { c with ring := { c.ring with size := value } })
    | .vectorEnable v => if v < 72 then { s with host := { s.host with enabled := putBit (bitAt value 0) v s.host.enabled } } else s
    | .exportFrame f => { s with host := { s.host with exported := putBit (bitAt value 0) f s.host.exported } })

/-! ## COMPLETION_FREE (R377) -/

/-- Held entries are written while the ring has room. -/
def flushHeld : Nat → State → Nat → State
  | 0, s, _ => s
  | n + 1, s, k =>
    match getCtx s k with
    | none => s
    | some c =>
      match c.ring.held with
      | [] => s
      | e :: rest =>
        if c.ring.used < c.ring.size then
          flushHeld n (writeEntry s k { c with ring := { c.ring with held := rest } } e) k
        else s

/-- COMPLETION_FREE (R377): the host frees entries, and held ones are written. -/
def execCompletionFree (ctx count : Nat) (s : State) : Out :=
  .next (
    if !servesHost s then s
    else
      match getCtx s ctx with
      | none => s
      | some c =>
        let s1 := setCtx (wake s) ctx { c with ring := { c.ring with used := c.ring.used - count } }
        flushHeld c.ring.held.length s1 ctx)

/-! ## Accesses held at a prepared line (R263) -/

/-- An access that was held at its home is performed. -/
def redoHeld (s : State) (w : HeldWhat) : State :=
  let r : Out :=
    match w with
    | .packet p => .next (redoPacket s p)
    | .hostRead addr len => execBar2Read addr len s
    | .hostWrite addr bytes => execBar2Write addr bytes s
    | .doorbell offset head tail => execDoorbell offset head tail s
  match r with
  | .next t => t
  | _ => s

/-- The held accesses are tried again in their order; one that still has to wait is held again, before the later ones (R240, R263). -/
def resumeHeld (s : State) : State :=
  s.link.heldHere.foldl (fun st h => redoHeld st h.what) { s with link := { s.link with heldHere := [] } }

/-- PREPARED_ACCESS_RESUME (R263): an access held on a prepared line goes on once the outcome is known. Above the cores' numbers
it names the accesses of other agents held at their homes. -/
def execPreparedAccessResume (core : Nat) (s : State) : Out :=
  if 256 ≤ core then .next (resumeHeld s)
  else
    .next (
      match (getCore s core).heldOn with
      | none => s
      | some line => if lineHeld s core line then s else modCore s core (fun c => { c with heldOn := none }))

end Sys2Proof.Machine
end

