-- ==== Sys2Proof/Machine/Stacks.lean ====
section
/-!
DEFINITION. The memory hardware's own events: bus coding (R344), heartbeats, takeover and patrol scrub (R345), wipes (R350), and the
logical clocks' passage of time (R232).
-/
namespace Sys2Proof.Machine

/-! ## Bus coding (R344, Table 15.4)

Channels 0 to 255 are those of the stacks, 32 each; 256 to 287 those of the green room. -/

/-- The die of a channel (R342). -/
def channelDie (ch : Nat) : Nat := if ch < 256 then ch / 128 else (ch - 256) / 16

/-- The code of a stack's channels is frozen (Table 15.5). -/
def codesFrozen (s : State) (ch : Nat) : Bool := decide (ch < 256) && (spGet {} s.hw.hbmStacks (ch / 32) : Stack).hb != .normal

/-- Table 15.4 for one sample: `cur` counts the toggles under the code in force, `other` under the other. -/
def Channel.sampled (c : Channel) (cur other : Nat) : Channel :=
  if 8 * other ≤ 7 * cur then (if c.second then { c with changing := true } else { c with second := true })
  else { c with second := false }

/-- A channel's state replaced. -/
def setChannel (s : State) (ch : Nat) (c : Channel) : State :=
  { s with hw := { s.hw with channels := spSet {} s.hw.channels ch c } }

/-- CODE_SAMPLE (R344): a sample with no traffic leaves the state unchanged. -/
def execCodeSample (channel tdbi tltc : Nat) (s : State) : Out :=
  let c : Channel := spGet {} s.hw.channels channel
  .next (
    if 288 ≤ channel ∨ c.changing ∨ codesFrozen s channel ∨ (tdbi = 0 ∧ tltc = 0) then s
    else setChannel s channel (if c.ltc then c.sampled tltc tdbi else c.sampled tdbi tltc))

/-- A function applied to the counters of a die. -/
def modCounters (s : State) (die : Nat) (f : DieCounters → DieCounters) : State :=
  { s with hw := { s.hw with counters := spSet {} s.hw.counters die (f (spGet {} s.hw.counters die)) } }

/-- CODE_CHANGE (R344): the waiting change is made, and counted (Table 15.3). -/
def execCodeChange (channel : Nat) (s : State) : Out :=
  let c : Channel := spGet {} s.hw.channels channel
  .next (
    if c.changing then
      modCounters (setChannel s channel { ltc := !c.ltc, second := false, changing := false }) (channelDie channel)
        (fun d => { d with codesw := min (d.codesw + 1) (2 ^ 64 - 1) })
    else s)

/-! ## Heartbeats and takeover (R345, Table 15.5) -/

/-- A function applied to a stack. -/
def modStack (s : State) (n : Nat) (f : Stack → Stack) : State :=
  if n < 8 then { s with hw := { s.hw with hbmStacks := spSet {} s.hw.hbmStacks n (f (spGet {} s.hw.hbmStacks n)) } } else s

/-- HEARTBEAT (R345): it clears MISSED in NORMAL, and is ignored and counted in SURROGATE. -/
def execHeartbeat (stack : Nat) (s : State) : Out :=
  .next (modStack s stack (fun x =>
    match x.hb with
    | .normal => { x with missed := 0, up := true }
    | .taking => { x with up := true }
    | .surrogate => { x with late := min (x.late + 1) 255, up := true }))

/-- HEARTBEAT_DEADLINE (R345): the fourth missed in a row begins the takeover. -/
def execHeartbeatDeadline (stack : Nat) (s : State) : Out :=
  let x : Stack := spGet {} s.hw.hbmStacks stack
  .next (
    if x.hb ≠ .normal ∨ 8 ≤ stack then s
    else if 4 ≤ x.missed + 1 then post (modStack s stack (fun y => { y with missed := 4, hb := .taking })) (.taken stack)
    else modStack s stack (fun y => { y with missed := y.missed + 1 }))

/-- TAKEOVER (R345): the controller has the stack. -/
def execTakeover (stack : Nat) (s : State) : Out :=
  .next (modStack s stack (fun x => if x.hb = .taking then { x with hb := .surrogate } else x))

/-- The stack of an HBM address (Table 15.2). -/
def stackOf (a : Nat) : Nat := 4 * placeDie a + a / 4096 % 4

/-- The end of a patrol pass over a stack: it has corrected what it can, counted it, and retires the frames that it cannot (R343). -/
def scrubbed (s : State) (stack : Nat) : State :=
  let n := Config.scrubbed s.fresh
  let s1 := modCounters { s with fresh := s.fresh + 1 } (stack / 4) (fun d => { d with dramce := min (d.dramce + n) (2 ^ 64 - 1) })
  (s1.hw.damaged.filter (fun p => inHbm p && stackOf p == stack)).foldl retireFrame s1

/-- PATROL_SCRUB (R345): a pass over a stack begins, or the one that runs ends; HSTS.SCRUB is 1 between the two (Table 15.6). -/
def execPatrolScrub (stack : Nat) (s : State) : Out :=
  .next (
    if 8 ≤ stack then s
    else if (spGet {} s.hw.hbmStacks stack : Stack).scrub then scrubbed (modStack s stack (fun x => { x with scrub := false })) stack
    else modStack s stack (fun x => { x with scrub := true }))

/-- HSTSn as system software reads it (Table 15.6). -/
def hstsWord (s : State) (n : Nat) : Nat :=
  let x : Stack := spGet {} s.hw.hbmStacks n
  let codes := packElems 1 32 (fun c => ofBool (spGet {} s.hw.channels (32 * n + c) : Channel).ltc)
  ofBool x.up + 2 * ofBool (x.hb != .normal) + 4 * ofBool x.scrub + 16 * x.missed + 2 ^ 8 * codes + 2 ^ 48 * x.late

/-- The counters of a die as system software reads them, in the order of Table 15.3. -/
def counterWords (s : State) (die : Nat) : List Nat :=
  let d : DieCounters := spGet {} s.hw.counters die
  [d.casc, d.sramce, d.dramce, d.retired, d.codesw]

/-! ## Errors (R338, R343) -/

/-- An error strikes: a corrected one is counted (Table 15.3), an uncorrectable one waits for a read to find it (log entry 57). -/
def applyUpset (s : State) : Upset → State
  | .corrected die n dram => modCounters s die (fun d =>
      if dram then { d with dramce := min (d.dramce + n) (2 ^ 64 - 1) } else { d with sramce := min (d.sramce + n) (2 ^ 64 - 1) })
  | .place p => { s with hw := { s.hw with damaged := insertNat p s.hw.damaged } }
  | .cached p => { s with hw := { s.hw with cached := insertNat p s.hw.cached } }
  | .core n w => modCore s n (fun c => { c with bad := if c.bad.contains w then c.bad else w :: c.bad })
  | .spill k line =>
    if ((getCtx s k).map (fun c => c.launches.any (fun l => l.shadow.any (fun b => b.spilled && lineOf b.place == line)))).getD false ∧
        !s.hw.badSpill.contains (k, line) then { s with hw := { s.hw with badSpill := (k, line) :: s.hw.badSpill } }
    else s

/-- The errors of one clock strike. -/
def takeUpsets (s : State) : State :=
  match s.hw.upsets with
  | [] => s
  | us :: rest => us.foldl applyUpset { s with hw := { s.hw with upsets := rest } }

/-! ## WIPE (R350, Table 15.9) -/

/-- A context maps a frame. -/
def frameMapped (s : State) (frame : Nat) : Bool := s.ctxs.any (fun e => ownsBytes s e.2 (65536 * frame) 1 false false)

/-- WIPE (R350): of a resource that the package has, only while no context uses it. -/
def execWipe (what : WipeTarget) (s : State) : Out :=
  .next (
    match what with
    | .core n => if 256 ≤ n ∨ (getCore s n).ctx.isSome then s else wipeAll (setCore s n freeCore) (corePlace n 0) (2 ^ 19)
    | .cluster n => if 16 ≤ n ∨ s.ctxs.any (fun e => e.2.part.contains n) then s else wipeAll s (clusterPlace n 0) (2 ^ 23)
    | .chip base size =>
      if 2 ^ 27 < base + size ∨ (chipUses s).any (fun u => decide (u.1 < base + size) && decide (base < u.1 + u.2)) then s
      else wipeAll s (chipPlace base) size
    | .frame addr =>
      if frameMapped s (addr / 65536) ∨ !physExists addr then s else wipeAll s (addr / 65536 * 65536) 65536)

/-! ## LOGICAL_CLOCK_TICK (R232) -/

/-- LOGICAL_CLOCK_TICK: the passage of time advances a core's logical clock. -/
def execLogicalClockTick (core : Nat) (s : State) : Out :=
  .next (modCore s core (fun c => { c with pts := c.pts + 1, lastTick := c.now }))

end Sys2Proof.Machine
end

