-- ==== Sys2Proof/Machine/Platform.lean ====
section
/-!
DEFINITION. The platform: resets and boot (R378 to R381), the mailbox commands (R382), the life cycle (R383), attestation (R384),
power states and clocks (R385 to R388).
-/
namespace Sys2Proof.Machine

/-! ## Resets (R378, R381) -/

/-- What a reset leaves: everything lost and wiped but fuses and flash; a flash whose write it breaks off holds no image. -/
def afterReset (s : State) (power : Power) : State :=
  let p := s.plat
  { State.reset with
    plat := { power := power, life := p.life, minSvn := p.minSvn, flash := if p.writing then [] else p.flash
              torn := p.torn || p.writing, boots := p.boots, identity := p.identity }
    hw := { upsets := s.hw.upsets }, fresh := s.fresh, agenda := s.agenda, delays := s.delays, clock := s.clock }

/-- POWER_ON_RESET (R378). -/
def execPowerOnReset (s : State) : Out := .next (afterReset s .booting)

/-- HOST_RESET (R378): it needs power. -/
def execHostReset (s : State) : Out := .next (if poweredOn s then afterReset s .booting else s)

/-- POWER_LOSS (R381). -/
def execPowerLoss (s : State) : Out := .next (afterReset s .off)

/-- THERMAL_TRIP (R388): the package stops as at power loss. -/
def execThermalTrip (s : State) : Out := .next (if poweredOn s then afterReset s .tripped else s)

/-! ## Boot (R379, R380) -/

/-- An image is accepted (R380). -/
def imageAccepted (p : Platform) (image : List Byte) : Bool :=
  decide (image.length ≤ 2 ^ 25) && Config.imageVerifies image && decide (p.minSvn ≤ Config.imageSvn image)

/-- BOOT_COMPLETE (R379 to R381): READY with the image of the flash, or RECOVERY. -/
def execBootComplete (s : State) : Out :=
  let p := s.plat
  .next (
    if p.power ≠ .booting then s
    else
      let ok := !p.torn && imageAccepted p p.flash
      let svn := if ok then Config.imageSvn p.flash else 0
      { s with plat := { p with
        power := .active, ready := true, recovery := !ok, boots := p.boots + 1, svn := svn
        fwm := if ok then sha256 p.flash else []
        minSvn := if ok && Config.imageRaises p.flash then max p.minSvn svn else p.minSvn } })

/-! ## The mailbox (R382, Table 17.3) -/

/-- The status word and result of a command. -/
def mailDone (s : State) (status : Nat) (result : List Byte) : State :=
  { s with host := { s.host with status := status, result := result } }

/-- A command is placed in the mailbox: ignored and counted while one is busy, refused in a state of Table 17.3 that does not
allow it. -/
def command (s : State) (code len : Nat) (allowed : Platform → Bool) (act : State → State) : Out :=
  .next (
    if !portReady s then s
    else
      let s1 := wake s
      if s1.host.status = 2 then { s1 with host := { s1.host with ignored := s1.host.ignored + 1 } }
      else
        let s2 := { s1 with host := { s1.host with command := code + 2 ^ 16 * len } }
        if allowed s2.plat then act s2 else mailDone s2 1 [])

/-- The life-cycle state is one of a list, and the package is not in RECOVERY (R381, R383). -/
def inLife (ls : List Nat) (p : Platform) : Bool := !p.recovery && ls.contains p.life

/-- RECOVERY or deployed (Table 17.3); a decommissioned package takes no firmware (R383). -/
def firmwareState (p : Platform) : Bool := (p.recovery && p.life != 3) || p.life == 2

/-- The code of a power state in the answer of STATUS: 0 active, 1 to 4 by depth (log entry 22). -/
def Power.code : Power → Nat
  | .low d => d
  | .active => 0
  | _ => 7

/-- STATUS (R382): life-cycle state, RECOVERY flag, running SVN, power state. -/
def execStatus (s : State) : Out :=
  command s 0x0100 0 (fun _ => true) (fun s =>
    mailDone s 0 (bytesOf 1 s.plat.life ++ bytesOf 1 (ofBool s.plat.recovery) ++ bytesOf 4 s.plat.svn ++ bytesOf 1 s.plat.power.code))

/-- FW_STAGE (R381, Table 17.3): part of an image of at most 32 MiB. -/
def execFwStage (off : Nat) (bytes : List Byte) (s : State) : Out :=
  command s 0x0101 (4 + bytes.length) firmwareState (fun s =>
    if 4032 < bytes.length ∨ 2 ^ 25 < off + bytes.length then mailDone s 1 []
    else mailDone { s with plat := { s.plat with staged := addCells s.plat.staged off bytes } } 0 [])

/-- The staged image of a length. -/
def stagedImage (s : State) (len : Nat) : List Byte := (upTo len).map (fun i => spGet restByte s.plat.staged i)

/-- No context is resident (R352). -/
def noResident (s : State) : Bool := s.ctxs.all (fun e => e.2.state == .killed)

/-- FW_COMMIT (R380, R381): a verified image begins to be written to the flash; a refused one leaves the flash as it was. -/
def execFwCommit (len : Nat) (s : State) : Out :=
  command s 0x0102 4 firmwareState (fun s =>
    if (!s.plat.recovery && !noResident s) || decide (2 ^ 25 < len) || !imageAccepted s.plat (stagedImage s len) then mailDone s 1 []
    else mailDone { s with plat := { s.plat with writing := true, flash := stagedImage s len } } 2 [])

/-- The flash write ends: the image stands, and the command is done. -/
def flashWritten (s : State) : State :=
  mailDone { s with plat := { s.plat with writing := false, torn := false } } 0 []

/-- RESET (R378, R382): a host reset. -/
def execReset (s : State) : Out := command s 0x0103 0 (fun _ => true) (fun s => afterReset s .booting)

/-- LC_ADVANCE (R383, Table 17.2): forwards by one state; memories are wiped and the package boots again. -/
def execLcAdvance (target : Nat) (s : State) : Out :=
  command s 0x0104 1 (inLife [0, 1, 2]) (fun s =>
    if target ≠ s.plat.life + 1 then mailDone s 1 []
    else
      let key := if target = 1 then Config.newIdentity s.fresh else if target = 3 then 0 else s.plat.identity
      afterReset { s with fresh := s.fresh + 1, plat := { s.plat with life := target, identity := key } } .booting)

/-- Bytes 0x000 to 0x07F of a report (Table 17.4). -/
def reportBody (s : State) (nonce ctx : Nat) : List Byte :=
  let p := s.plat
  let c := if ctx < 64 then getCtx s ctx else none
  let digest : List Byte := match c with
    | some x => ctxmOf x.code
    | none => List.replicate 32 0
  [0x4C, 0x46, 0x41, 0x54] ++ bytesOf 2 1 ++ bytesOf 1 p.life ++ bytesOf 1 (ofBool c.isSome) ++ bytesOf 4 p.svn ++
    bytesOf 2 s.link.node ++ bytesOf 2 0 ++ (p.fwm ++ List.replicate 32 0).take 32 ++ bytesOf 32 nonce ++ digest ++ bytesOf 8 p.boots ++
    bytesOf 8 0

/-- REPORT (R384): 128 bytes and their signature of 384 bytes under the identity key. -/
def execReport (nonce ctx : Nat) (s : State) : Out :=
  command s 0x0105 33 (inLife [1, 2]) (fun s =>
    let body := reportBody s nonce ctx
    mailDone { s with fresh := s.fresh + 1 } 0 (body ++ bytesBig 384 (Config.sign s.plat.identity s.fresh body).toNat))

/-- IDKEY (R382): the public identity key and its certificate. -/
def execIdkey (s : State) : Out := command s 0x0106 0 (inLife [1, 2]) (fun s => mailDone s 0 (Config.publicKey s.plat.identity))

/-! ## Power (R385 to R388) -/

/-- The deepest state of Table 17.5 whose exit latency fits a tolerance in ns; 0 stays active. -/
def deepest (ltol : Nat) : Nat :=
  if ltol = 0xFFFFFFFF ∨ 30000000 ≤ ltol then 4 else if 1500000 ≤ ltol then 3 else if 40000 ≤ ltol then 2 else if 2000 ≤ ltol then 1 else 0

/-- The power state after SET_LTOL in a state of depth d (R386): a tolerance below its exit latency moves the package up to the deepest
state that fits; otherwise the command has woken it. -/
def afterLtol (power : Power) (ltol : Nat) : Power :=
  match power with
  | .low d => if deepest ltol < d then (if deepest ltol = 0 then .active else .low (deepest ltol)) else .active
  | x => x

/-- SET_LTOL (R385, R386, Table 17.6). -/
def execSetLtol (value : Nat) (s : State) : Out :=
  let power := afterLtol s.plat.power (value % 2 ^ 32)
  command s 0x0107 8 (inLife [0, 1, 2]) (fun s => mailDone { s with plat := { s.plat with ltol := value % 2 ^ 32, power := power } } 0 [])

/-- What must hold for 1 ms before a low-power state (R385); arrivals restart the millisecond. -/
def packageIdle (s : State) : Bool :=
  s.ctxs.all (fun e => e.2.state != .running && e.2.state != .flying && e.2.colls.all (fun q => q.done) &&
    e.2.queues.all (fun q => !q.2.en || q.2.head == q.2.tail)) && s.cores.all (fun e => e.2.jobs.isEmpty)

/-- What the deep state loses (Table 17.5): leases, cached translations, and the L2's committed lines, which are written back first. -/
def loseCaches (s : State) : State :=
  let s1 := (evict s ((s.hw.l2.flatMap (fun e => e.2)).filter (fun x => x.owner == .committed))).1
  { s1 with
    cores := s1.cores.map (fun e => (e.1, { e.2 with tlb := [], lease := [] }))
    hw := { s1.hw with
      tlb0 := [], tlb1 := []
      l2 := (s1.hw.l2.map (fun e => (e.1, e.2.filter (fun x => !(x.owner == .committed))))).filter (fun e => !e.2.isEmpty) } }

/-- LOW_POWER_ENTRY (R385, Table 17.5): the deepest state that the tolerance allows. A mailbox command wakes the package without ending
the time for which it has been idle (R385, R386). -/
def execLowPowerEntry (s : State) : Out :=
  let d := deepest s.plat.ltol
  .next (
    if s.plat.power ≠ .active ∨ !packageIdle s ∨ s.plat.idle < 1000 * s.plat.clockMHz ∨ d = 0 then s
    else
      let s1 := { s with plat := { s.plat with power := .low d } }
      if d = 4 then loseCaches s1 else s1)

/-- WAKE (R386): a timer of the stage manager. -/
def execWake (s : State) : Out := .next (wake s)

/-- THROTTLE (R388): down by 100 MHz, to 0.9 GHz. -/
def execThrottle (s : State) : Out := .next { s with plat := { s.plat with clockMHz := max 900 (s.plat.clockMHz - 100) } }

/-- CLOCK_RESTORE (R388): up again, to 1.8 GHz. -/
def execClockRestore (s : State) : Out := .next { s with plat := { s.plat with clockMHz := min 1800 (s.plat.clockMHz + 100) } }

end Sys2Proof.Machine
end

