-- ==== Sys2Proof/Machine/VectorAlu.lean ====
section
/-!
DEFINITION. The vector ALU instructions of VA and VB (R117 to R141), with the latencies of Table 5.1. `onB` says whose
registers a word names (R117).
-/
namespace Sys2Proof.Machine

/-- VALU_NOP (R65). -/
def execValuNop (s : State) : Out := .next s

/-! ## Integer arithmetic (R122) -/

/-- A two-operand integer element result on the raw elements a, b and c of vs, vt and vd (R122). -/
def integerOp (s : State) (t : BitVec 3) (d vs vt : BitVec 4) (p : BitVec 3) (f : Nat → Nat → Nat → Nat → Nat) : Out :=
  let sz := typeSize t.toNat
  elementwise s sz d p 2 (fun i => (f (8 * sz) (elem (rv s vs) sz i) (elem (rv s vt) sz i) (elem (rv s d) sz i), 0))

/-- A two-operand result on integers, signed or unsigned by U. -/
def signedOp (s : State) (t : BitVec 3) (d vs vt : BitVec 4) (p : BitVec 3) (u : BitVec 1) (f : Nat → Int → Int → Int) : Out :=
  let sz := typeSize t.toNat
  elementwise s sz d p 2 (fun i =>
    (ofSigned (8 * sz) (f (8 * sz) (intElem sz (u == 1) (elem (rv s vs) sz i)) (intElem sz (u == 1) (elem (rv s vt) sz i))), 0))

/-- A shift: the amount is X[4:0] when I is 1, else the element of vt modulo the width (R122). -/
def shiftOp (s : State) (t : BitVec 3) (d vs vt : BitVec 4) (p : BitVec 3) (i : BitVec 1) (a : BitVec 5)
    (f : Nat → Nat → Nat → Nat) : Out :=
  let sz := typeSize t.toNat
  elementwise s sz d p 2 (fun k =>
    (f (8 * sz) (elem (rv s vs) sz k) (if i = 1 then a.toNat else elem (rv s vt) sz k % (8 * sz)), 0))

/-- VADD (R122). -/
def execVadd (t : BitVec 3) (d vs vt : BitVec 4) (p : BitVec 3) (s : State) : Out :=
  integerOp s t d vs vt p (fun _ a b _ => a + b)

/-- VSUB (R122). -/
def execVsub (t : BitVec 3) (d vs vt : BitVec 4) (p : BitVec 3) (s : State) : Out :=
  integerOp s t d vs vt p (fun w a b _ => a + 2 ^ w - b)

/-- VMUL (R122). -/
def execVmul (t : BitVec 3) (d vs vt : BitVec 4) (p : BitVec 3) (s : State) : Out :=
  integerOp s t d vs vt p (fun _ a b _ => a * b)

/-- VMAC (R122). -/
def execVmac (t : BitVec 3) (d vs vt : BitVec 4) (p : BitVec 3) (s : State) : Out :=
  integerOp s t d vs vt p (fun _ a b c => c + a * b)

/-- VAND (R122). -/
def execVand (t : BitVec 3) (d vs vt : BitVec 4) (p : BitVec 3) (s : State) : Out :=
  integerOp s t d vs vt p (fun _ a b _ => a &&& b)

/-- VOR (R122). -/
def execVor (t : BitVec 3) (d vs vt : BitVec 4) (p : BitVec 3) (s : State) : Out :=
  integerOp s t d vs vt p (fun _ a b _ => a ||| b)

/-- VXOR (R122). -/
def execVxor (t : BitVec 3) (d vs vt : BitVec 4) (p : BitVec 3) (s : State) : Out :=
  integerOp s t d vs vt p (fun _ a b _ => a ^^^ b)

/-- VMULH (R122). -/
def execVmulh (t : BitVec 3) (d vs vt : BitVec 4) (p : BitVec 3) (u : BitVec 1) (s : State) : Out :=
  signedOp s t d vs vt p u (fun w a b => a * b / ((2 ^ w : Nat) : Int))

/-- VMIN (R122). -/
def execVmin (t : BitVec 3) (d vs vt : BitVec 4) (p : BitVec 3) (u : BitVec 1) (s : State) : Out :=
  signedOp s t d vs vt p u (fun _ a b => if a ≤ b then a else b)

/-- VMAX (R122). -/
def execVmax (t : BitVec 3) (d vs vt : BitVec 4) (p : BitVec 3) (u : BitVec 1) (s : State) : Out :=
  signedOp s t d vs vt p u (fun _ a b => if a ≤ b then b else a)

/-- VSHL (R122). -/
def execVshl (t : BitVec 3) (d vs vt : BitVec 4) (p : BitVec 3) (i : BitVec 1) (a : BitVec 5) (s : State) : Out :=
  shiftOp s t d vs vt p i a (fun _ a k => a * 2 ^ k)

/-- VSHR (R122). -/
def execVshr (t : BitVec 3) (d vs vt : BitVec 4) (p : BitVec 3) (i : BitVec 1) (a : BitVec 5) (s : State) : Out :=
  shiftOp s t d vs vt p i a (fun _ a k => a / 2 ^ k)

/-- VSRA (R122). -/
def execVsra (t : BitVec 3) (d vs vt : BitVec 4) (p : BitVec 3) (i : BitVec 1) (a : BitVec 5) (s : State) : Out :=
  shiftOp s t d vs vt p i a (fun w a k => ofSigned w (toSigned w a / ((2 ^ k : Nat) : Int)))

/-- VABS (R122): the most negative value gives the most positive. -/
def execVabs (t : BitVec 3) (d vs : BitVec 4) (p : BitVec 3) (s : State) : Out :=
  let sz := typeSize t.toNat
  elementwise s sz d p 2 (fun i => (min (toSigned (8 * sz) (elem (rv s vs) sz i)).natAbs (2 ^ (8 * sz - 1) - 1), 0))

/-- VADDS (R122): a + b, or a − b when SUB, saturated. -/
def execVadds (t : BitVec 3) (d vs vt : BitVec 4) (p : BitVec 3) (b u : BitVec 1) (s : State) : Out :=
  signedOp s t d vs vt p u (fun w x y =>
    clampInt (intRange w (u != 1)).1 (intRange w (u != 1)).2 (if b = 1 then x - y else x + y))

/-! ## Floating arithmetic (R123) -/

/-- A floating element result on the exact values of vs, vt and vd, rounded once with RNE (R47, R123). -/
def floatOp (s : State) (t : BitVec 3) (d vs vt : BitVec 4) (p : BitVec 3) (f : Val → Val → Val → WithFlags Val) : Out :=
  let sz := typeSize t.toNat
  let g := typeFloat t.toNat
  elementwise s sz d p 4 (fun i =>
    roundRne g (f (decodeFloat g (elem (rv s vs) sz i)) (decodeFloat g (elem (rv s vt) sz i)) (decodeFloat g (elem (rv s d) sz i))))

/-- VFADD (R123). -/
def execVfadd (t : BitVec 3) (d vs vt : BitVec 4) (p : BitVec 3) (s : State) : Out :=
  floatOp s t d vs vt p (fun a b _ => addVal a b)

/-- VFSUB (R123). -/
def execVfsub (t : BitVec 3) (d vs vt : BitVec 4) (p : BitVec 3) (s : State) : Out :=
  floatOp s t d vs vt p (fun a b _ => addVal a b.negate)

/-- VFMUL (R123). -/
def execVfmul (t : BitVec 3) (d vs vt : BitVec 4) (p : BitVec 3) (s : State) : Out :=
  floatOp s t d vs vt p (fun a b _ => mulVal a b)

/-- VFMA (R123). -/
def execVfma (t : BitVec 3) (d vs vt : BitVec 4) (p : BitVec 3) (s : State) : Out :=
  floatOp s t d vs vt p (fun a b c => fmaVal a b c)

/-- VFMS (R123). -/
def execVfms (t : BitVec 3) (d vs vt : BitVec 4) (p : BitVec 3) (s : State) : Out :=
  floatOp s t d vs vt p (fun a b c => fmaVal a b c.negate)

/-- VFMIN (R123). -/
def execVfmin (t : BitVec 3) (d vs vt : BitVec 4) (p : BitVec 3) (s : State) : Out :=
  floatOp s t d vs vt p (fun a b _ => (minVal a b, 0))

/-- VFMAX (R123). -/
def execVfmax (t : BitVec 3) (d vs vt : BitVec 4) (p : BitVec 3) (s : State) : Out :=
  floatOp s t d vs vt p (fun a b _ => (maxVal a b, 0))

/-- The magnitude of a with the sign that a mode takes from a and b (R123). -/
def signElem (f : FloatFmt) (mode a b : Nat) : Nat :=
  let m := f.width - 1
  let sa := bitAt a m
  let sb := bitAt b m
  let neg := match mode with
    | 0 => sb
    | 1 => !sb
    | _ => sa != sb
  if (decodeFloat f a).isNan then f.nanBits else f.join neg (a % 2 ^ m)

/-- VFSGN (R123). -/
def execVfsgn (t : BitVec 3) (d vs vt : BitVec 4) (p : BitVec 3) (m : BitVec 2) (s : State) : Out :=
  let sz := typeSize t.toNat
  elementwise s sz d p 4 (fun i =>
    (signElem (typeFloat t.toNat) m.toNat (elem (rv s vs) sz i) (elem (rv s vt) sz i), 0))

/-! ## Compare, select and moves (R124 to R126) -/

/-- The outcome of a condition on integers: EQ, NE, LT, LE, GT, GE (R124). -/
def intCond (c : Nat) (a b : Int) : Bool :=
  match c with
  | 0 => decide (a = b)
  | 1 => decide (a ≠ b)
  | 2 => decide (a < b)
  | 3 => decide (a ≤ b)
  | 4 => decide (b < a)
  | _ => decide (b ≤ a)

/-- The outcome of a quiet floating condition (R124): with a NaN only NE holds. -/
def floatCond (c : Nat) (a b : Val) : Bool :=
  if a.isNan || b.isNan then c == 1
  else
    match c with
    | 0 => eqNum a b
    | 1 => !eqNum a b
    | 2 => ltNum a b
    | 3 => !ltNum b a
    | 4 => ltNum b a
    | _ => !ltNum a b

/-- VCMP's outcome for a pair of elements (R124). -/
def compareElem (t : Nat) (unsigned : Bool) (c a b : Nat) : Bool :=
  if typeIsFloat t then floatCond c (decodeFloat (typeFloat t) a) (decodeFloat (typeFloat t) b)
  else intCond c (intElem (typeSize t) unsigned a) (intElem (typeSize t) unsigned b)

/-- VCMP (R124): every bit of pd is written. -/
def execVcmp (t d : BitVec 3) (vs vt : BitVec 4) (p : BitVec 3) (u : BitVec 1) (c : BitVec 3) (s : State) : Out :=
  let sz := typeSize t.toNat
  .next (postP s (onB s) d.toNat 4 (byteMask sz (elemCount sz) (fun i =>
    enabled (rp s p) sz i && compareElem t.toNat (u == 1) c.toNat (elem (rv s vs) sz i) (elem (rv s vt) sz i))))

/-- VSEL (R125): every element is written. -/
def execVsel (t : BitVec 3) (d vs vt : BitVec 4) (p : BitVec 3) (s : State) : Out :=
  .next (postV s (onB s) d.toNat 4 0 (mergeBytes (enableMask (rp s p) (typeSize t.toNat)) (rv s vs) (rv s vt)) allBytes)

/-- VMOVI's constant (R126). -/
def moveImmediate (t imm : Nat) : Nat :=
  match t with
  | 0 | 6 | 7 => imm % 2 ^ 8
  | 2 => ofSigned 32 (toSigned 16 imm)
  | 5 => imm * 2 ^ 16
  | _ => imm

/-- VMOVI (R126): imm16 = VS:VT:X. -/
def execVmovi (t : BitVec 3) (d i j : BitVec 4) (p : BitVec 3) (k : BitVec 8) (s : State) : Out :=
  elementwise s (typeSize t.toNat) d p (moveLatency t.toNat) (fun _ =>
    (moveImmediate t.toNat (4096 * i.toNat + 256 * j.toNat + k.toNat), 0))

/-- VMOVX (R126). -/
def execVmovx (t : BitVec 3) (d : BitVec 4) (p : BitVec 3) (x : BitVec 5) (s : State) : Out :=
  elementwise s (typeSize t.toNat) d p (moveLatency t.toNat) (fun _ => ((rx s x.toNat).toNat, 0))

/-- VMOV (R126). -/
def execVmov (t : BitVec 3) (d vs : BitVec 4) (p : BitVec 3) (s : State) : Out :=
  .next (postV s (onB s) d.toNat (moveLatency t.toNat) 0 (rv s vs) (enableMask (rp s p) (typeSize t.toNat)))

/-- XMV (R126): the source is a register of the other cluster. -/
def execXmv (t : BitVec 3) (d vs : BitVec 4) (p : BitVec 3) (s : State) : Out :=
  .next (postV s (onB s) d.toNat 1 0 ((curCore s).regs.readV (!onB s) vs.toNat) (enableMask (rp s p) (typeSize t.toNat)))

/-! ## Permutes (R127) -/

/-- A permute of vs and vt by element, merging on vd (R127). -/
def permute (s : State) (t : BitVec 3) (d vs vt : BitVec 4) (p : BitVec 3) (f : Nat → (Nat → Nat) → (Nat → Nat) → Nat → Nat) : Out :=
  let sz := typeSize t.toNat
  elementwise s sz d p 3 (fun i => (f (elemCount sz) (elem (rv s vs) sz) (elem (rv s vt) sz) i, 0))

/-- VSHUF4 (R127). -/
def execVshuf4 (t : BitVec 3) (d vs : BitVec 4) (p : BitVec 3) (s : State) : Out :=
  permute s t d vs vs p (fun _ a _ i => a (16 * (i / 16) + 4 * (i % 4) + i / 4 % 4))

/-- VPERM (R127). -/
def execVperm (t : BitVec 3) (d vs vt : BitVec 4) (p : BitVec 3) (z : BitVec 1) (s : State) : Out :=
  permute s t d vs vt p (fun n a b i => if z = 1 ∧ n ≤ b i then 0 else a (b i % n))

/-- VROT (R127). -/
def execVrot (t : BitVec 3) (d vs : BitVec 4) (p : BitVec 3) (a : BitVec 8) (s : State) : Out :=
  permute s t d vs vs p (fun n v _ i => v ((i + a.toNat) % n))

/-- VBCAST (R127). -/
def execVbcast (t : BitVec 3) (d vs : BitVec 4) (p : BitVec 3) (a : BitVec 8) (s : State) : Out :=
  permute s t d vs vs p (fun _ v _ _ => v a.toNat)

/-- VZIP (R127). -/
def execVzip (t : BitVec 3) (d vs vt : BitVec 4) (p : BitVec 3) (h : BitVec 1) (s : State) : Out :=
  permute s t d vs vt p (fun n a b i =>
    let j := h.toNat * (n / 2) + i / 2
    if i % 2 = 0 then a j else b j)

/-- VUZP (R127). -/
def execVuzp (t : BitVec 3) (d vs vt : BitVec 4) (p : BitVec 3) (h : BitVec 1) (s : State) : Out :=
  permute s t d vs vt p (fun n a b i => if i < n / 2 then a (2 * i + h.toNat) else b (2 * (i - n / 2) + h.toNat))

/-! ## Reductions in a register (R61, R128) -/

/-- VRSUM's result: the FP32 sum with its flags, or the INT32 sum (R61). -/
def registerSum (t : Nat) (v : Vec) (p : Pred) : WithFlags Nat :=
  let sz := typeSize t
  let n := elemCount sz
  if typeIsFloat t then
    sumTree ((upTo n).map (fun i =>
      if enabled p sz i then
        (if t = 5 then elem v sz i else (encodeFloat fp32 0 false 0 (decodeFloat (typeFloat t) (elem v sz i))).1)
      else fp32NegZero))
  else
    (ofSigned 32 ((upTo n).foldl (fun acc i => if enabled p sz i then acc + intElem sz false (elem v sz i) else acc) 0), 0)

/-- VRSUM, latency 8: the sum in all 64 lanes (R128). -/
def execVrsum (t : BitVec 3) (d vs : BitVec 4) (p : BitVec 3) (s : State) : Out :=
  let r := registerSum t.toNat (rv s vs) (rp s p)
  .next (postV s (onB s) d.toNat 8 r.2 (vecOf 4 (List.replicate 64 r.1)) allBytes)

/-- What VRMAX and VRMIN return without an enabled element (R61). -/
def emptyExtreme (t : Nat) (isMax : Bool) : Nat :=
  if typeIsFloat t then
    let f := typeFloat t
    f.join isMax (if f.top = .e4m3 then f.maxBits else f.infBits)
  else
    let w := 8 * typeSize t
    if isMax then 2 ^ (w - 1) else 2 ^ (w - 1) - 1

/-- The larger or smaller of two elements by R61. -/
def extremeOf (t : Nat) (isMax : Bool) (a b : Nat) : Nat :=
  if typeIsFloat t then
    let f := typeFloat t
    let x := decodeFloat f a
    let y := decodeFloat f b
    (encodeFloat f 0 false 0 (if isMax then maxVal x y else minVal x y)).1
  else if isMax = decide (intElem (typeSize t) false a ≤ intElem (typeSize t) false b) then b else a

/-- VRMAX's or VRMIN's result (R61). -/
def registerExtreme (t : Nat) (isMax : Bool) (v : Vec) (p : Pred) : Nat :=
  let sz := typeSize t
  let xs := ((upTo (elemCount sz)).filter (fun i => enabled p sz i)).map (elem v sz)
  match xs with
  | [] => emptyExtreme t isMax
  | x :: rest => rest.foldl (extremeOf t isMax) (extremeOf t isMax x x)

/-- A reduction to the extreme element, latency 8, written to all elements (R128). -/
def extremeResult (s : State) (t : BitVec 3) (d vs : BitVec 4) (p : BitVec 3) (isMax : Bool) : Out :=
  let sz := typeSize t.toNat
  let r := registerExtreme t.toNat isMax (rv s vs) (rp s p)
  .next (postV s (onB s) d.toNat 8 0 (vecOf sz (List.replicate (elemCount sz) r)) allBytes)

/-- VRMAX (R128). -/
def execVrmax (t : BitVec 3) (d vs : BitVec 4) (p : BitVec 3) (s : State) : Out := extremeResult s t d vs p true

/-- VRMIN (R128). -/
def execVrmin (t : BitVec 3) (d vs : BitVec 4) (p : BitVec 3) (s : State) : Out := extremeResult s t d vs p false

/-! ## Conversions (R129, R130) -/

/-- VCVT, latency 4: every byte of vd is written (R129). -/
def execVcvt (t : BitVec 3) (d vs vt : BitVec 4) (p : BitVec 3) (f : BitVec 5) (m : BitVec 3) (s : State) : Out :=
  let ss := typeSize t.toNat
  let ds := fmtBits f.toNat / 8
  let big := max ss ds
  let dst := (fmtOfCode f.toNat).getD (.int 8 true)
  wholeResult s ds d 4 ((upTo (256 / ds)).map (fun i =>
    if i < 256 / big ∧ bitAt (rp s p).toNat (i * big) then
      convertFmt (typeFmt t.toNat) dst m.toNat false (randomWord (rv s vt) (i * ss)) (elem (rv s vs) ss i)
    else (0, 0)))

/-- The format code that VPACK's and VUNPK's field names (R130). -/
def packCode (f : Nat) : Nat := if 0x18 ≤ f then f + 8 else f

/-- The elements of a packed image (R130). -/
def packCount (f n : Nat) : Nat := if isBlockFmt (packCode f) then min n 128 else n

/-- VPACK, latency 4 (R130). -/
def execVpack (t : BitVec 3) (d vs vt : BitVec 4) (p : BitVec 3) (f : BitVec 5) (m : BitVec 3) (s : State) : Out :=
  let sz := typeSize t.toNat
  let r := encodeImage (packCode f.toNat) m.toNat ((upTo (packCount f.toNat (elemCount sz))).map (fun i =>
    (if enabled (rp s p) sz i then typeVal t.toNat (elem (rv s vs) sz i) else .fin false 0 0, randomWord (rv s vt) (i * sz))))
  .next (postV s (onB s) d.toNat 4 r.2 (BitVec.ofNat 2048 r.1) allBytes)

/-- VUNPK, latency 4 (R130). -/
def execVunpk (t : BitVec 3) (d vs vt : BitVec 4) (p : BitVec 3) (f : BitVec 5) (m : BitVec 3) (s : State) : Out :=
  let sz := typeSize t.toNat
  let n := elemCount sz
  wholeResult s sz d 4 ((upTo n).map (fun i =>
    if i < packCount f.toNat n ∧ enabled (rp s p) sz i then
      encodeVal (typeFmt t.toNat) m.toNat false (randomWord (rv s vt) (i * sz))
        (imageElem (packCode f.toNat) (rv s vs).toNat i)
    else (0, 0)))

/-! ## Predicates (R131 to R133) -/

/-- PLOG's table on all 256 bits (R131). -/
def predTable (b : BitVec 4) (x y : Pred) : Pred :=
  let pick := fun (i : Nat) (m : Pred) => if bitAt b.toNat i then m else 0
  pick 0 (~~~x &&& ~~~y) ||| pick 1 (~~~x &&& y) ||| pick 2 (x &&& ~~~y) ||| pick 3 (x &&& y)

/-- PLOG (R131). -/
def execPlog (d ps pt : BitVec 3) (b : BitVec 4) (s : State) : Out :=
  .next (postP s (onB s) d.toNat 1 (predTable b (rp s ps) (rp s pt)))

/-- PCNT (R132). -/
def execPcnt (t p : BitVec 3) (x : BitVec 5) (s : State) : Out :=
  let sz := typeSize t.toNat
  .next (postX s x.toNat 1 (BitVec.ofNat 64 ((upTo (elemCount sz)).filter (fun i => enabled (rp s p) sz i)).length))

/-- PFIRST (R132). -/
def execPfirst (t p : BitVec 3) (x : BitVec 5) (s : State) : Out :=
  let sz := typeSize t.toNat
  .next (postX s x.toNat 1 (BitVec.ofNat 64
    (((upTo (elemCount sz)).find? (fun i => enabled (rp s p) sz i)).getD (elemCount sz))))

/-- PSET (R133). -/
def execPset (t d : BitVec 3) (x : BitVec 5) (s : State) : Out :=
  let sz := typeSize t.toNat
  .next (postP s (onB s) d.toNat 1 (byteMask sz (elemCount sz) (fun i => decide (i < (rx s x.toNat).toNat))))

/-! ## Spills, lane insert and extract (R134, R135) -/

/-- VSPILL: the slot's bytes land at the end of the issue cycle (R134, R29). -/
def execVspill (vs : BitVec 4) (l : BitVec 8) (s : State) : Out :=
  .next (postFixed s (some (.spillV l.toNat)) 1 0 (.spillV l.toNat (rv s vs)))

/-- VFILL (R134). -/
def execVfill (d : BitVec 4) (l : BitVec 8) (s : State) : Out :=
  .next (postV s (onB s) d.toNat 1 0 (spGet 0 (curCore s).loc.spillV l.toNat) allBytes)

/-- VEXT, latency 2: integer types sign-extended, floating types as bits (R135). -/
def execVext (t : BitVec 3) (i vs j : BitVec 4) (x : BitVec 5) (s : State) : Out :=
  let sz := typeSize t.toNat
  let e := elem (rv s vs) sz (16 * i.toNat + j.toNat)
  .next (postX s x.toNat 2 (if typeIsFloat t.toNat then BitVec.ofNat 64 e else sext64 (8 * sz) e))

/-- VINS, latency 2: only the element's bytes are written (R135). -/
def execVins (t : BitVec 3) (d i j : BitVec 4) (x : BitVec 5) (s : State) : Out :=
  let sz := typeSize t.toNat
  let k := 16 * i.toNat + j.toNat
  .next (postV s (onB s) d.toNat 2 0 (BitVec.ofNat 2048 ((rx s x.toNat).toNat % 2 ^ (8 * sz) * 2 ^ (8 * sz * k)))
    (byteMask sz (elemCount sz) (fun e => e == k)))

/-! ## Random vectors and special functions (R136, R137) -/

/-- VRAND, latency 6 (R136): the counter is DRNGC, as a GETD of the same cycle reads it, plus x[xs]. -/
def execVrand (d : BitVec 4) (p : BitVec 3) (x : BitVec 5) (s : State) : Out :=
  let c := ctxOfCore s s.issue.core
  let v := ((curCore s).dev.rngc + rx s x.toNat).toNat
  elementwise s 4 d p 6 (fun l =>
    (vectorRandom (c.key0 % 2 ^ 32) ((c.key1 % 2 ^ 32) ^^^ ((curCore s).dev.rngh.toNat % 2 ^ 32)) v l, 0))

/-- A special function, latency 12 (R137). -/
def specialOp (s : State) (fn : SpecialFn) (t : BitVec 3) (d vs : BitVec 4) (p : BitVec 3) : Out :=
  let sz := typeSize t.toNat
  elementwise s sz d p 12 (fun i => specialElem fn (typeFloat t.toNat) (elem (rv s vs) sz i))

/-- VEXP2 (R137). -/
def execVexp2 (t : BitVec 3) (d vs : BitVec 4) (p : BitVec 3) (s : State) : Out := specialOp s .exp2 t d vs p

/-- VLOG2 (R137). -/
def execVlog2 (t : BitVec 3) (d vs : BitVec 4) (p : BitVec 3) (s : State) : Out := specialOp s .log2 t d vs p

/-- VRCP (R137). -/
def execVrcp (t : BitVec 3) (d vs : BitVec 4) (p : BitVec 3) (s : State) : Out := specialOp s .rcp t d vs p

/-- VRSQRT (R137). -/
def execVrsqrt (t : BitVec 3) (d vs : BitVec 4) (p : BitVec 3) (s : State) : Out := specialOp s .rsqrt t d vs p

/-- VSQRT (R137). -/
def execVsqrt (t : BitVec 3) (d vs : BitVec 4) (p : BitVec 3) (s : State) : Out := specialOp s .sqrt t d vs p

/-- VTANH (R137). -/
def execVtanh (t : BitVec 3) (d vs : BitVec 4) (p : BitVec 3) (s : State) : Out := specialOp s .tanh t d vs p

/-- VERF (R137). -/
def execVerf (t : BitVec 3) (d vs : BitVec 4) (p : BitVec 3) (s : State) : Out := specialOp s .erf t d vs p

/-! ## Accumulator moves (R138 to R141) -/

/-- ACR, latency 6 after readiness (R139). -/
def execAcr (t : BitVec 3) (d : BitVec 4) (c : BitVec 2) (b : BitVec 1) (m p : BitVec 3) (a : BitVec 2) (r : BitVec 6)
    (s : State) : Out :=
  if !accReady s c.toNat then .next (slotHold s)
  else
    let sz := typeSize t.toNat
    let row := (curCore s).mx.readRow c.toNat r.toNat
    let inPart := fun i => decide (64 * a.toNat ≤ i) && decide (i < 64 * (a.toNat + 1)) && enabled (rp s p) sz i
    let rs := (upTo (elemCount sz)).map (fun i =>
      if inPart i then convertFmt (.flt fp32) (typeFmt t.toNat) m.toNat (b == 1) 0 (elem row 4 (i - 64 * a.toNat)) else (0, 0))
    .next (postV s (onB s) d.toNat 6 (flagsOf rs) (vecOf sz (rs.map (fun x => x.1))) (byteMask sz (elemCount sz) inPart))

/-- ACW, interlocked after readiness (R140). -/
def execAcw (t : BitVec 3) (c : BitVec 2) (vs : BitVec 4) (p : BitVec 3) (a : BitVec 2) (r : BitVec 6) (s : State) : Out :=
  if !accReady s c.toNat then .next (slotHold s)
  else
    let sz := typeSize t.toNat
    let on := fun j => enabled (rp s p) sz (64 * a.toNat + j)
    let row := vecOf 4 ((upTo 64).map (fun j =>
      (convertFmt (typeFmt t.toNat) (.flt fp32) 0 false 0 (elem (rv s vs) sz (64 * a.toNat + j))).1))
    .next (postInterlocked s (some (.acc c.toNat)) 0 (.accRow c.toNat r.toNat row (byteMask 4 64 on)))

/-- ACS, latency 6 after readiness: a bit copy (R141). -/
def execAcs (d : BitVec 4) (l : BitVec 1) (k : BitVec 2) (p : BitVec 3) (s : State) : Out :=
  if !accReady s k.toNat then .next (slotHold s)
  else .next (postV s (onB s) d.toNat 6 0 ((curCore s).mx.readSide (l == 1) k.toNat) (enableMask (rp s p) 4))

/-- ACSW, interlocked after readiness: a bit copy (R141). -/
def execAcsw (l : BitVec 1) (k : BitVec 2) (vs : BitVec 4) (p : BitVec 3) (s : State) : Out :=
  if !accReady s k.toNat then .next (slotHold s)
  else .next (postInterlocked s (some (.acc k.toNat)) 0 (.side (l == 1) k.toNat (rv s vs) (enableMask (rp s p) 4)))

end Sys2Proof.Machine
end

