-- ==== Sys2Proof/Machine/Dispatch.lean ====
section
/-!
DEFINITION. The meaning of every constructor of Instr, one arm each.
-/
namespace Sys2Proof.Machine

def exec (i : Instr) (s : State) : Host.Outcome State Fault Refusal :=
  match i with
  | .next s1 w => Sys2Proof.Machine.execNext s1 w s
  | .br s1 w c x f => Sys2Proof.Machine.execBr s1 w c x f s
  | .brp s1 w k p m f => Sys2Proof.Machine.execBrp s1 w k p m f s
  | .jmp s1 w f => Sys2Proof.Machine.execJmp s1 w f s
  | .call s1 w f => Sys2Proof.Machine.execCall s1 w f s
  | .jmpx s1 w x => Sys2Proof.Machine.execJmpx s1 w x s
  | .loop s1 w x l => Sys2Proof.Machine.execLoop s1 w x l s
  | .loopi s1 w n l => Sys2Proof.Machine.execLoopi s1 w n l s
  | .waitc s1 w n => Sys2Proof.Machine.execWaitc s1 w n s
  | .trap s1 w c => Sys2Proof.Machine.execTrap s1 w c s
  | .eret s1 w => Sys2Proof.Machine.execEret s1 w s
  | .done s1 w => Sys2Proof.Machine.execDone s1 w s
  | .halt s1 w => Sys2Proof.Machine.execHalt s1 w s
  | .brk s1 w c => Sys2Proof.Machine.execBrk s1 w c s
  | .iwait s1 w g => Sys2Proof.Machine.execIwait s1 w g s
  | .scalarNop => Sys2Proof.Machine.execScalarNop s
  | .lui i1 d => Sys2Proof.Machine.execLui i1 d s
  | .addi i1 s1 d => Sys2Proof.Machine.execAddi i1 s1 d s
  | .slti i1 s1 d => Sys2Proof.Machine.execSlti i1 s1 d s
  | .sltiu i1 s1 d => Sys2Proof.Machine.execSltiu i1 s1 d s
  | .xori i1 s1 d => Sys2Proof.Machine.execXori i1 s1 d s
  | .ori i1 s1 d => Sys2Proof.Machine.execOri i1 s1 d s
  | .andi i1 s1 d => Sys2Proof.Machine.execAndi i1 s1 d s
  | .slli h s1 d => Sys2Proof.Machine.execSlli h s1 d s
  | .srli h s1 d => Sys2Proof.Machine.execSrli h s1 d s
  | .srai h s1 d => Sys2Proof.Machine.execSrai h s1 d s
  | .addiw i1 s1 d => Sys2Proof.Machine.execAddiw i1 s1 d s
  | .slliw h s1 d => Sys2Proof.Machine.execSlliw h s1 d s
  | .srliw h s1 d => Sys2Proof.Machine.execSrliw h s1 d s
  | .sraiw h s1 d => Sys2Proof.Machine.execSraiw h s1 d s
  | .add t s1 d => Sys2Proof.Machine.execAdd t s1 d s
  | .sub t s1 d => Sys2Proof.Machine.execSub t s1 d s
  | .sll t s1 d => Sys2Proof.Machine.execSll t s1 d s
  | .slt t s1 d => Sys2Proof.Machine.execSlt t s1 d s
  | .sltu t s1 d => Sys2Proof.Machine.execSltu t s1 d s
  | .xor t s1 d => Sys2Proof.Machine.execXor t s1 d s
  | .srl t s1 d => Sys2Proof.Machine.execSrl t s1 d s
  | .sra t s1 d => Sys2Proof.Machine.execSra t s1 d s
  | .or t s1 d => Sys2Proof.Machine.execOr t s1 d s
  | .and t s1 d => Sys2Proof.Machine.execAnd t s1 d s
  | .mul t s1 d => Sys2Proof.Machine.execMul t s1 d s
  | .mulh t s1 d => Sys2Proof.Machine.execMulh t s1 d s
  | .mulhsu t s1 d => Sys2Proof.Machine.execMulhsu t s1 d s
  | .mulhu t s1 d => Sys2Proof.Machine.execMulhu t s1 d s
  | .div t s1 d => Sys2Proof.Machine.execDiv t s1 d s
  | .divu t s1 d => Sys2Proof.Machine.execDivu t s1 d s
  | .rem t s1 d => Sys2Proof.Machine.execRem t s1 d s
  | .remu t s1 d => Sys2Proof.Machine.execRemu t s1 d s
  | .addw t s1 d => Sys2Proof.Machine.execAddw t s1 d s
  | .subw t s1 d => Sys2Proof.Machine.execSubw t s1 d s
  | .sllw t s1 d => Sys2Proof.Machine.execSllw t s1 d s
  | .srlw t s1 d => Sys2Proof.Machine.execSrlw t s1 d s
  | .sraw t s1 d => Sys2Proof.Machine.execSraw t s1 d s
  | .mulw t s1 d => Sys2Proof.Machine.execMulw t s1 d s
  | .divw t s1 d => Sys2Proof.Machine.execDivw t s1 d s
  | .divuw t s1 d => Sys2Proof.Machine.execDivuw t s1 d s
  | .remw t s1 d => Sys2Proof.Machine.execRemw t s1 d s
  | .remuw t s1 d => Sys2Proof.Machine.execRemuw t s1 d s
  | .lb i1 s1 d => Sys2Proof.Machine.execLb i1 s1 d s
  | .lh i1 s1 d => Sys2Proof.Machine.execLh i1 s1 d s
  | .lw i1 s1 d => Sys2Proof.Machine.execLw i1 s1 d s
  | .ld i1 s1 d => Sys2Proof.Machine.execLd i1 s1 d s
  | .lbu i1 s1 d => Sys2Proof.Machine.execLbu i1 s1 d s
  | .lhu i1 s1 d => Sys2Proof.Machine.execLhu i1 s1 d s
  | .lwu i1 s1 d => Sys2Proof.Machine.execLwu i1 s1 d s
  | .sb i1 t s1 j => Sys2Proof.Machine.execSb i1 t s1 j s
  | .sh i1 t s1 j => Sys2Proof.Machine.execSh i1 t s1 j s
  | .sw i1 t s1 j => Sys2Proof.Machine.execSw i1 t s1 j s
  | .sd i1 t s1 j => Sys2Proof.Machine.execSd i1 t s1 j s
  | .shw e r f s1 => Sys2Proof.Machine.execShw e r f s1 s
  | .shr e r f d => Sys2Proof.Machine.execShr e r f d s
  | .brld b s1 => Sys2Proof.Machine.execBrld b s1 s
  | .brst b s1 => Sys2Proof.Machine.execBrst b s1 s
  | .getd i1 j d => Sys2Proof.Machine.execGetd i1 j d s
  | .setd i1 j s1 => Sys2Proof.Machine.execSetd i1 j s1 s
  | .clz s1 d => Sys2Proof.Machine.execClz s1 d s
  | .ctz s1 d => Sys2Proof.Machine.execCtz s1 d s
  | .popc s1 d => Sys2Proof.Machine.execPopc s1 d s
  | .spillx h l s1 => Sys2Proof.Machine.execSpillx h l s1 s
  | .fillx h l d => Sys2Proof.Machine.execFillx h l d s
  | .ldfW s1 d => Sys2Proof.Machine.execLdfW s1 d s
  | .ldfD s1 d => Sys2Proof.Machine.execLdfD s1 d s
  | .ldfeW s1 d => Sys2Proof.Machine.execLdfeW s1 d s
  | .ldfeD s1 d => Sys2Proof.Machine.execLdfeD s1 d s
  | .ldt s1 d => Sys2Proof.Machine.execLdt s1 d s
  | .steW t s1 => Sys2Proof.Machine.execSteW t s1 s
  | .steD t s1 => Sys2Proof.Machine.execSteD t s1 s
  | .stfW t s1 => Sys2Proof.Machine.execStfW t s1 s
  | .stfD t s1 => Sys2Proof.Machine.execStfD t s1 s
  | .sete s1 => Sys2Proof.Machine.execSete s1 s
  | .setf s1 => Sys2Proof.Machine.execSetf s1 s
  | .bari t s1 => Sys2Proof.Machine.execBari t s1 s
  | .bara t s1 => Sys2Proof.Machine.execBara t s1 s
  | .barw t s1 d => Sys2Proof.Machine.execBarw t s1 d s
  | .baraw t s1 d => Sys2Proof.Machine.execBaraw t s1 d s
  | .barc t s1 => Sys2Proof.Machine.execBarc t s1 s
  | .bart s1 d => Sys2Proof.Machine.execBart s1 d s
  | .waitvEq t s1 d => Sys2Proof.Machine.execWaitvEq t s1 d s
  | .waitvNe t s1 d => Sys2Proof.Machine.execWaitvNe t s1 d s
  | .amoadd c t s1 z d => Sys2Proof.Machine.execAmoadd c t s1 z d s
  | .amoswap c t s1 z d => Sys2Proof.Machine.execAmoswap c t s1 z d s
  | .amocas c t s1 z d => Sys2Proof.Machine.execAmocas c t s1 z d s
  | .amoand c t s1 z d => Sys2Proof.Machine.execAmoand c t s1 z d s
  | .amoor c t s1 z d => Sys2Proof.Machine.execAmoor c t s1 z d s
  | .amoxor c t s1 z d => Sys2Proof.Machine.execAmoxor c t s1 z d s
  | .amomin c t s1 z d => Sys2Proof.Machine.execAmomin c t s1 z d s
  | .amomax c t s1 z d => Sys2Proof.Machine.execAmomax c t s1 z d s
  | .amominu c t s1 z d => Sys2Proof.Machine.execAmominu c t s1 z d s
  | .amomaxu c t s1 z d => Sys2Proof.Machine.execAmomaxu c t s1 z d s
  | .amofadd c t s1 d => Sys2Proof.Machine.execAmofadd c t s1 d s
  | .redadd c t s1 z => Sys2Proof.Machine.execRedadd c t s1 z s
  | .redand c t s1 z => Sys2Proof.Machine.execRedand c t s1 z s
  | .redor c t s1 z => Sys2Proof.Machine.execRedor c t s1 z s
  | .redxor c t s1 z => Sys2Proof.Machine.execRedxor c t s1 z s
  | .redmin c t s1 z => Sys2Proof.Machine.execRedmin c t s1 z s
  | .redmax c t s1 z => Sys2Proof.Machine.execRedmax c t s1 z s
  | .redminu c t s1 z => Sys2Proof.Machine.execRedminu c t s1 z s
  | .redmaxu c t s1 z => Sys2Proof.Machine.execRedmaxu c t s1 z s
  | .redfadd c t s1 => Sys2Proof.Machine.execRedfadd c t s1 s
  | .redofadd c t s1 d => Sys2Proof.Machine.execRedofadd c t s1 d s
  | .lda c s1 z d => Sys2Proof.Machine.execLda c s1 z d s
  | .stl c t s1 z => Sys2Proof.Machine.execStl c t s1 z s
  | .fence c k => Sys2Proof.Machine.execFence c k s
  | .tget b w d => Sys2Proof.Machine.execTget b w d s
  | .tdone s1 => Sys2Proof.Machine.execTdone s1 s
  | .tabort s1 => Sys2Proof.Machine.execTabort s1 s
  | .tspawn t s1 => Sys2Proof.Machine.execTspawn t s1 s
  | .launch t s1 d => Sys2Proof.Machine.execLaunch t s1 d s
  | .lwait s1 d => Sys2Proof.Machine.execLwait s1 d s
  | .rand d => Sys2Proof.Machine.execRand d s
  | .valuNop => Sys2Proof.Machine.execValuNop s
  | .vadd t d s1 v p => Sys2Proof.Machine.execVadd t d s1 v p s
  | .vsub t d s1 v p => Sys2Proof.Machine.execVsub t d s1 v p s
  | .vmul t d s1 v p => Sys2Proof.Machine.execVmul t d s1 v p s
  | .vmulh t d s1 v p u => Sys2Proof.Machine.execVmulh t d s1 v p u s
  | .vmac t d s1 v p => Sys2Proof.Machine.execVmac t d s1 v p s
  | .vand t d s1 v p => Sys2Proof.Machine.execVand t d s1 v p s
  | .vor t d s1 v p => Sys2Proof.Machine.execVor t d s1 v p s
  | .vxor t d s1 v p => Sys2Proof.Machine.execVxor t d s1 v p s
  | .vshl t d s1 v p i1 a => Sys2Proof.Machine.execVshl t d s1 v p i1 a s
  | .vshr t d s1 v p i1 a => Sys2Proof.Machine.execVshr t d s1 v p i1 a s
  | .vsra t d s1 v p i1 a => Sys2Proof.Machine.execVsra t d s1 v p i1 a s
  | .vmin t d s1 v p u => Sys2Proof.Machine.execVmin t d s1 v p u s
  | .vmax t d s1 v p u => Sys2Proof.Machine.execVmax t d s1 v p u s
  | .vabs t d s1 p => Sys2Proof.Machine.execVabs t d s1 p s
  | .vadds t d s1 v p b u => Sys2Proof.Machine.execVadds t d s1 v p b u s
  | .vfadd t d s1 v p => Sys2Proof.Machine.execVfadd t d s1 v p s
  | .vfsub t d s1 v p => Sys2Proof.Machine.execVfsub t d s1 v p s
  | .vfmul t d s1 v p => Sys2Proof.Machine.execVfmul t d s1 v p s
  | .vfma t d s1 v p => Sys2Proof.Machine.execVfma t d s1 v p s
  | .vfms t d s1 v p => Sys2Proof.Machine.execVfms t d s1 v p s
  | .vfmin t d s1 v p => Sys2Proof.Machine.execVfmin t d s1 v p s
  | .vfmax t d s1 v p => Sys2Proof.Machine.execVfmax t d s1 v p s
  | .vfsgn t d s1 v p m => Sys2Proof.Machine.execVfsgn t d s1 v p m s
  | .vcmp t d s1 v p u c => Sys2Proof.Machine.execVcmp t d s1 v p u c s
  | .vsel t d s1 v p => Sys2Proof.Machine.execVsel t d s1 v p s
  | .vmovi t d i1 j p k => Sys2Proof.Machine.execVmovi t d i1 j p k s
  | .vmovx t d p x => Sys2Proof.Machine.execVmovx t d p x s
  | .vmov t d s1 p => Sys2Proof.Machine.execVmov t d s1 p s
  | .xmv t d s1 p => Sys2Proof.Machine.execXmv t d s1 p s
  | .vshuf4 t d s1 p => Sys2Proof.Machine.execVshuf4 t d s1 p s
  | .vrand d p x => Sys2Proof.Machine.execVrand d p x s
  | .vperm t d s1 v p z => Sys2Proof.Machine.execVperm t d s1 v p z s
  | .vrot t d s1 p a => Sys2Proof.Machine.execVrot t d s1 p a s
  | .vbcast t d s1 p a => Sys2Proof.Machine.execVbcast t d s1 p a s
  | .vzip t d s1 v p h => Sys2Proof.Machine.execVzip t d s1 v p h s
  | .vuzp t d s1 v p h => Sys2Proof.Machine.execVuzp t d s1 v p h s
  | .vrsum t d s1 p => Sys2Proof.Machine.execVrsum t d s1 p s
  | .vrmax t d s1 p => Sys2Proof.Machine.execVrmax t d s1 p s
  | .vrmin t d s1 p => Sys2Proof.Machine.execVrmin t d s1 p s
  | .vcvt t d s1 v p f m => Sys2Proof.Machine.execVcvt t d s1 v p f m s
  | .vpack t d s1 v p f m => Sys2Proof.Machine.execVpack t d s1 v p f m s
  | .vunpk t d s1 v p f m => Sys2Proof.Machine.execVunpk t d s1 v p f m s
  | .plog d s1 v b => Sys2Proof.Machine.execPlog d s1 v b s
  | .pcnt t p x => Sys2Proof.Machine.execPcnt t p x s
  | .pfirst t p x => Sys2Proof.Machine.execPfirst t p x s
  | .pset t d x => Sys2Proof.Machine.execPset t d x s
  | .vspill s1 l => Sys2Proof.Machine.execVspill s1 l s
  | .vfill d l => Sys2Proof.Machine.execVfill d l s
  | .vext t i1 s1 j x => Sys2Proof.Machine.execVext t i1 s1 j x s
  | .vins t d i1 j x => Sys2Proof.Machine.execVins t d i1 j x s
  | .vexp2 t d s1 p => Sys2Proof.Machine.execVexp2 t d s1 p s
  | .vlog2 t d s1 p => Sys2Proof.Machine.execVlog2 t d s1 p s
  | .vrcp t d s1 p => Sys2Proof.Machine.execVrcp t d s1 p s
  | .vrsqrt t d s1 p => Sys2Proof.Machine.execVrsqrt t d s1 p s
  | .vsqrt t d s1 p => Sys2Proof.Machine.execVsqrt t d s1 p s
  | .vtanh t d s1 p => Sys2Proof.Machine.execVtanh t d s1 p s
  | .verf t d s1 p => Sys2Proof.Machine.execVerf t d s1 p s
  | .acr t d c b m p a r => Sys2Proof.Machine.execAcr t d c b m p a r s
  | .acw t c s1 p a r => Sys2Proof.Machine.execAcw t c s1 p a r s
  | .acs d l k p => Sys2Proof.Machine.execAcs d l k p s
  | .acsw l k s1 p => Sys2Proof.Machine.execAcsw l k s1 p s
  | .vmNop => Sys2Proof.Machine.execVmNop s
  | .vld v b x p i1 => Sys2Proof.Machine.execVld v b x p i1 s
  | .vst v b x p i1 => Sys2Proof.Machine.execVst v b x p i1 s
  | .vlds v b x p i1 => Sys2Proof.Machine.execVlds v b x p i1 s
  | .vsts v b x p i1 => Sys2Proof.Machine.execVsts v b x p i1 s
  | .vgth v b x p i1 => Sys2Proof.Machine.execVgth v b x p i1 s
  | .vsct v b x p i1 => Sys2Proof.Machine.execVsct v b x p i1 s
  | .vldl v x p i1 => Sys2Proof.Machine.execVldl v x p i1 s
  | .vstl v x p i1 => Sys2Proof.Machine.execVstl v x p i1 s
  | .vldf v b x p i1 => Sys2Proof.Machine.execVldf v b x p i1 s
  | .vste v b x p i1 => Sys2Proof.Machine.execVste v b x p i1 s
  | .vpush v q => Sys2Proof.Machine.execVpush v q s
  | .vpop v q => Sys2Proof.Machine.execVpop v q s
  | .vstb v b x p i1 => Sys2Proof.Machine.execVstb v b x p i1 s
  | .vred v b x p o => Sys2Proof.Machine.execVred v b x p o s
  | .vpref b x p i1 => Sys2Proof.Machine.execVpref b x p i1 s
  | .mxNop => Sys2Proof.Machine.execMxNop s
  | .mwl q l => Sys2Proof.Machine.execMwl q l s
  | .mma c q n l r => Sys2Proof.Machine.execMma c q n l r s
  | .mmz c q n l r => Sys2Proof.Machine.execMmz c q n l r s
  | .mmg c q n l z r => Sys2Proof.Machine.execMmg c q n l z r s
  | .mtl c q n l m r => Sys2Proof.Machine.execMtl c q n l m r s
  | .msm c q n m r o => Sys2Proof.Machine.execMsm c q n m r o s
  | .mclr c z => Sys2Proof.Machine.execMclr c z s
  | .mout c q n m r => Sys2Proof.Machine.execMout c q n m r s
  | .mside c o m => Sys2Proof.Machine.execMside c o m s
  | .mwait g => Sys2Proof.Machine.execMwait g s
  | .stNop => Sys2Proof.Machine.execStNop s
  | .cpy m s1 d x t => Sys2Proof.Machine.execCpy m s1 d x t s
  | .cpyq q s1 m x t => Sys2Proof.Machine.execCpyq q s1 m x t s
  | .cpyo q m d x t => Sys2Proof.Machine.execCpyo q m d x t s
  | .cwait a t => Sys2Proof.Machine.execCwait a t s
  | .ringi q x => Sys2Proof.Machine.execRingi q x s
  | .wset q s1 m x t => Sys2Proof.Machine.execWset q s1 m x t s
  | .wadv q x t => Sys2Proof.Machine.execWadv q x t s
  | .kpost k s1 r x t => Sys2Proof.Machine.execKpost k s1 r x t s
  | .kwait x t => Sys2Proof.Machine.execKwait x t s
  | .ovl x t => Sys2Proof.Machine.execOvl x t s
  | .pref s1 m x => Sys2Proof.Machine.execPref s1 m x s
  | .res k s1 => Sys2Proof.Machine.execRes k s1 s
  | .resultLand core => Sys2Proof.Machine.execResultLand core s
  | .interlockedResultLand core id => Sys2Proof.Machine.execInterlockedResultLand core id s
  | .waitcExpire core => Sys2Proof.Machine.execWaitcExpire core s
  | .waitvTimeout core => Sys2Proof.Machine.execWaitvTimeout core s
  | .lwbReplayLand core => Sys2Proof.Machine.execLwbReplayLand core s
  | .baseRegionLoad core region => Sys2Proof.Machine.execBaseRegionLoad core region s
  | .ovlRegionWritten core tag region => Sys2Proof.Machine.execOvlRegionWritten core tag region s
  | .jobStart core job => Sys2Proof.Machine.execJobStart core job s
  | .ringSlotClaim core job => Sys2Proof.Machine.execRingSlotClaim core job s
  | .jobComplete core job => Sys2Proof.Machine.execJobComplete core job s
  | .jobFault core job => Sys2Proof.Machine.execJobFault core job s
  | .mxSlotRelease core => Sys2Proof.Machine.execMxSlotRelease core s
  | .mxRowPush core => Sys2Proof.Machine.execMxRowPush core s
  | .mtlStep core => Sys2Proof.Machine.execMtlStep core s
  | .mxFinish core => Sys2Proof.Machine.execMxFinish core s
  | .idleCorePass core => Sys2Proof.Machine.execIdleCorePass core s
  | .taskStart core => Sys2Proof.Machine.execTaskStart core s
  | .taskComplete core => Sys2Proof.Machine.execTaskComplete core s
  | .subversionMerge ctx launch slot => Sys2Proof.Machine.execSubversionMerge ctx launch slot s
  | .admissionRead ctx queue => Sys2Proof.Machine.execAdmissionRead ctx queue s
  | .admission ctx launch => Sys2Proof.Machine.execAdmission ctx launch s
  | .launchComplete ctx launch => Sys2Proof.Machine.execLaunchComplete ctx launch s
  | .launchCommit ctx launch => Sys2Proof.Machine.execLaunchCommit ctx launch s
  | .prepareAcknowledge ctx launch holder => Sys2Proof.Machine.execPrepareAcknowledge ctx launch holder s
  | .prepareTimeout ctx launch => Sys2Proof.Machine.execPrepareTimeout ctx launch s
  | .preparedAccessResume core => Sys2Proof.Machine.execPreparedAccessResume core s
  | .rehearsalCompare ctx launch => Sys2Proof.Machine.execRehearsalCompare ctx launch s
  | .versionFree die entry => Sys2Proof.Machine.execVersionFree die entry s
  | .collectiveComplete ctx comm => Sys2Proof.Machine.execCollectiveComplete ctx comm s
  | .chunkComplete ctx comm chunk => Sys2Proof.Machine.execChunkComplete ctx comm chunk s
  | .laneBoundary lane => Sys2Proof.Machine.execLaneBoundary lane s
  | .hopGrant cls phase => Sys2Proof.Machine.execHopGrant cls phase s
  | .preemptDecision ctx newcomer launch => Sys2Proof.Machine.execPreemptDecision ctx newcomer launch s
  | .drainWindowExpire core => Sys2Proof.Machine.execDrainWindowExpire core s
  | .park ctx => Sys2Proof.Machine.execPark ctx s
  | .saveComplete ctx => Sys2Proof.Machine.execSaveComplete ctx s
  | .restore ctx clusters => Sys2Proof.Machine.execRestore ctx clusters s
  | .restoreComplete ctx => Sys2Proof.Machine.execRestoreComplete ctx s
  | .watchdogFire ctx => Sys2Proof.Machine.execWatchdogFire ctx s
  | .contextKill ctx => Sys2Proof.Machine.execContextKill ctx s
  | .contextCreate ctx p => Sys2Proof.Machine.execContextCreate ctx p s
  | .pageWalkComplete walk => Sys2Proof.Machine.execPageWalkComplete walk s
  | .pagePresent ctx page => Sys2Proof.Machine.execPagePresent ctx page s
  | .addressInvalid ctx page => Sys2Proof.Machine.execAddressInvalid ctx page s
  | .mappingChange ctx place entry => Sys2Proof.Machine.execMappingChange ctx place entry s
  | .pageMigrate ctx page frame => Sys2Proof.Machine.execPageMigrate ctx page frame s
  | .codeLoad ctx o => Sys2Proof.Machine.execCodeLoad ctx o s
  | .codeUnload id => Sys2Proof.Machine.execCodeUnload id s
  | .forcedUnload id => Sys2Proof.Machine.execForcedUnload id s
  | .dbgSet ctx core index value => Sys2Proof.Machine.execDbgSet ctx core index value s
  | .debugResume core => Sys2Proof.Machine.execDebugResume core s
  | .codeSample channel tdbi tltc => Sys2Proof.Machine.execCodeSample channel tdbi tltc s
  | .codeChange channel => Sys2Proof.Machine.execCodeChange channel s
  | .heartbeat stack => Sys2Proof.Machine.execHeartbeat stack s
  | .heartbeatDeadline stack => Sys2Proof.Machine.execHeartbeatDeadline stack s
  | .takeover stack => Sys2Proof.Machine.execTakeover stack s
  | .patrolScrub stack => Sys2Proof.Machine.execPatrolScrub stack s
  | .wipe what => Sys2Proof.Machine.execWipe what s
  | .classifyWindow ctx => Sys2Proof.Machine.execClassifyWindow ctx s
  | .demote ctx area => Sys2Proof.Machine.execDemote ctx area s
  | .promote ctx area => Sys2Proof.Machine.execPromote ctx area s
  | .flyBind ctx node accepted => Sys2Proof.Machine.execFlyBind ctx node accepted s
  | .flyCancel ctx => Sys2Proof.Machine.execFlyCancel ctx s
  | .flySave ctx => Sys2Proof.Machine.execFlySave ctx s
  | .flySwitch ctx => Sys2Proof.Machine.execFlySwitch ctx s
  | .flyAbandon ctx => Sys2Proof.Machine.execFlyAbandon ctx s
  | .flyRelease ctx => Sys2Proof.Machine.execFlyRelease ctx s
  | .recreate ctx copy p => Sys2Proof.Machine.execRecreate ctx copy p s
  | .remoteStore p => Sys2Proof.Machine.execRemoteStore p s
  | .loadRequest p => Sys2Proof.Machine.execLoadRequest p s
  | .loadResponse p => Sys2Proof.Machine.execLoadResponse p s
  | .acknowledgement p => Sys2Proof.Machine.execAcknowledgement p s
  | .refusal p => Sys2Proof.Machine.execRefusal p s
  | .remoteAtomic p => Sys2Proof.Machine.execRemoteAtomic p s
  | .remoteReduction p => Sys2Proof.Machine.execRemoteReduction p s
  | .chorusUpOrdered p => Sys2Proof.Machine.execChorusUpOrdered p s
  | .chorusUpUnordered p => Sys2Proof.Machine.execChorusUpUnordered p s
  | .chorusDown p => Sys2Proof.Machine.execChorusDown p s
  | .reservationRequest p => Sys2Proof.Machine.execReservationRequest p s
  | .grant p => Sys2Proof.Machine.execGrant p s
  | .commitControl p => Sys2Proof.Machine.execCommitControl p s
  | .flyControl p => Sys2Proof.Machine.execFlyControl p s
  | .flyData p => Sys2Proof.Machine.execFlyData p s
  | .flitRetransmit port vc => Sys2Proof.Machine.execFlitRetransmit port vc s
  | .portRetrainFail port => Sys2Proof.Machine.execPortRetrainFail port s
  | .routeSet node port => Sys2Proof.Machine.execRouteSet node port s
  | .nodeNumberSet node => Sys2Proof.Machine.execNodeNumberSet node s
  | .doorbell offset head tail => Sys2Proof.Machine.execDoorbell offset head tail s
  | .bar2Read addr len => Sys2Proof.Machine.execBar2Read addr len s
  | .bar2Write addr bytes => Sys2Proof.Machine.execBar2Write addr bytes s
  | .registerWrite reg value => Sys2Proof.Machine.execRegisterWrite reg value s
  | .completionFree ctx count => Sys2Proof.Machine.execCompletionFree ctx count s
  | .status => Sys2Proof.Machine.execStatus s
  | .fwStage off bytes => Sys2Proof.Machine.execFwStage off bytes s
  | .fwCommit len => Sys2Proof.Machine.execFwCommit len s
  | .reset => Sys2Proof.Machine.execReset s
  | .lcAdvance target => Sys2Proof.Machine.execLcAdvance target s
  | .report nonce ctx => Sys2Proof.Machine.execReport nonce ctx s
  | .idkey => Sys2Proof.Machine.execIdkey s
  | .setLtol value => Sys2Proof.Machine.execSetLtol value s
  | .powerOnReset => Sys2Proof.Machine.execPowerOnReset s
  | .hostReset => Sys2Proof.Machine.execHostReset s
  | .bootComplete => Sys2Proof.Machine.execBootComplete s
  | .lowPowerEntry => Sys2Proof.Machine.execLowPowerEntry s
  | .wake => Sys2Proof.Machine.execWake s
  | .throttle => Sys2Proof.Machine.execThrottle s
  | .clockRestore => Sys2Proof.Machine.execClockRestore s
  | .thermalTrip => Sys2Proof.Machine.execThermalTrip s
  | .logicalClockTick core => Sys2Proof.Machine.execLogicalClockTick core s
  | .powerLoss => Sys2Proof.Machine.execPowerLoss s
  | .contextResume ctx => Sys2Proof.Machine.execContextResume ctx s
  | .contextFree ctx => Sys2Proof.Machine.execContextFree ctx s
  | .debuggerAttach ctx on => Sys2Proof.Machine.execDebuggerAttach ctx on s
  | .debugContextSave ctx => Sys2Proof.Machine.execDebugContextSave ctx s
  | .commitOutcomeQuery ctx launch holder => Sys2Proof.Machine.execCommitOutcomeQuery ctx launch holder s

end Sys2Proof.Machine
end

