-- ==== Sys2Proof/Machine/Names.lean ====
section
/-!
DEFINITION. The destinations that a slot word names (R74) and the destinations that it reads (R75, R81, R84), by slot. x0, pa0
and pb0 are no destinations.
-/
namespace Sys2Proof.Machine

/-- x[r] as a destination. -/
def nameX (r : BitVec 5) : List Dest := if r = 0 then [] else [.x r.toNat]

/-- A vector register of the slot's own cluster (R117): B in slot 5. -/
def nameV (k : Nat) (r : BitVec 4) : List Dest := [.v (k == 5) r.toNat]

/-- A predicate of the slot's own cluster. -/
def nameP (k : Nat) (r : BitVec 3) : List Dest := if r = 0 then [] else [.p (k == 5) r.toNat]

/-- The register that V selects in a VM word, whichever cluster it lies in (R142). -/
def nameVm (v : BitVec 5) : List Dest := [.v (decide (16 ≤ v.toNat)) (v.toNat % 16)]

/-- An accumulator with its side registers. -/
def nameAcc (c : BitVec 2) : List Dest := [.acc c.toNat]

/-- A buffer record. -/
def nameRec (b : BitVec 6) : List Dest := [.record b.toNat]

/-- The destinations that the instruction of slot k names (R74). -/
def destsOf (k : Nat) (i : Instr) : List Dest :=
  match i with
  | .call _ _ _ => [.x 1]
  | .lui _ d => nameX d
  | .addi _ _ d | .slti _ _ d | .sltiu _ _ d | .xori _ _ d | .ori _ _ d | .andi _ _ d | .addiw _ _ d => nameX d
  | .slli _ _ d | .srli _ _ d | .srai _ _ d => nameX d
  | .slliw _ _ d | .srliw _ _ d | .sraiw _ _ d => nameX d
  | .add _ _ d | .sub _ _ d | .sll _ _ d | .slt _ _ d | .sltu _ _ d | .xor _ _ d | .srl _ _ d | .sra _ _ d | .or _ _ d
  | .and _ _ d | .mul _ _ d | .mulh _ _ d | .mulhsu _ _ d | .mulhu _ _ d | .div _ _ d | .divu _ _ d | .rem _ _ d
  | .remu _ _ d | .addw _ _ d | .subw _ _ d | .sllw _ _ d | .srlw _ _ d | .sraw _ _ d | .mulw _ _ d | .divw _ _ d
  | .divuw _ _ d | .remw _ _ d | .remuw _ _ d => nameX d
  | .lb _ _ d | .lh _ _ d | .lw _ _ d | .ld _ _ d | .lbu _ _ d | .lhu _ _ d | .lwu _ _ d => nameX d
  | .shw e r f _ => [.shape e.toNat r.toNat f.toNat]
  | .shr _ _ _ d => nameX d
  | .brld b _ => nameRec b
  | .getd _ _ d => nameX d
  | .setd i j _ => [.dev (32 * i.toNat + j.toNat)]
  | .clz _ d | .ctz _ d | .popc _ d => nameX d
  | .spillx h l _ => [.spillX (8 * h.toNat + l.toNat)]
  | .fillx _ _ d => nameX d
  | .ldfW _ d | .ldfD _ d | .ldfeW _ d | .ldfeD _ d | .ldt _ d | .bart _ d => nameX d
  | .barw _ _ d | .baraw _ _ d | .waitvEq _ _ d | .waitvNe _ _ d => nameX d
  | .amoadd _ _ _ _ d | .amoswap _ _ _ _ d | .amocas _ _ _ _ d | .amoand _ _ _ _ d | .amoor _ _ _ _ d
  | .amoxor _ _ _ _ d | .amomin _ _ _ _ d | .amomax _ _ _ _ d | .amominu _ _ _ _ d | .amomaxu _ _ _ _ d => nameX d
  | .amofadd _ _ _ d => nameX d
  | .lda _ _ _ d => nameX d
  | .tget _ _ d => nameX d
  | .launch _ _ d => nameX d
  | .lwait _ d => nameX d
  | .rand d => .dev 0x012 :: nameX d
  | .vadd _ d _ _ _ | .vsub _ d _ _ _ | .vmul _ d _ _ _ | .vmac _ d _ _ _ | .vand _ d _ _ _ | .vor _ d _ _ _
  | .vxor _ d _ _ _ | .vfadd _ d _ _ _ | .vfsub _ d _ _ _ | .vfmul _ d _ _ _ | .vfma _ d _ _ _ | .vfms _ d _ _ _
  | .vfmin _ d _ _ _ | .vfmax _ d _ _ _ | .vsel _ d _ _ _ => nameV k d
  | .vmulh _ d _ _ _ _ | .vmin _ d _ _ _ _ | .vmax _ d _ _ _ _ | .vperm _ d _ _ _ _ | .vzip _ d _ _ _ _
  | .vuzp _ d _ _ _ _ => nameV k d
  | .vshl _ d _ _ _ _ _ | .vshr _ d _ _ _ _ _ | .vsra _ d _ _ _ _ _ => nameV k d
  | .vabs _ d _ _ | .vmov _ d _ _ | .xmv _ d _ _ | .vshuf4 _ d _ _ | .vrsum _ d _ _ | .vrmax _ d _ _
  | .vrmin _ d _ _ => nameV k d
  | .vadds _ d _ _ _ _ _ => nameV k d
  | .vfsgn _ d _ _ _ _ => nameV k d
  | .vcmp _ d _ _ _ _ _ => nameP k d
  | .vmovi _ d _ _ _ _ => nameV k d
  | .vmovx _ d _ _ => nameV k d
  | .vrand d _ _ => nameV k d
  | .vrot _ d _ _ _ | .vbcast _ d _ _ _ => nameV k d
  | .vcvt _ d _ _ _ _ _ | .vpack _ d _ _ _ _ _ | .vunpk _ d _ _ _ _ _ => nameV k d
  | .plog d _ _ _ => nameP k d
  | .pcnt _ _ x | .pfirst _ _ x => nameX x
  | .pset _ d _ => nameP k d
  | .vspill _ l => [.spillV l.toNat]
  | .vfill d _ => nameV k d
  | .vext _ _ _ _ x => nameX x
  | .vins _ d _ _ _ => nameV k d
  | .vexp2 _ d _ _ | .vlog2 _ d _ _ | .vrcp _ d _ _ | .vrsqrt _ d _ _ | .vsqrt _ d _ _ | .vtanh _ d _ _
  | .verf _ d _ _ => nameV k d
  | .acr _ d _ _ _ _ _ _ => nameV k d
  | .acw _ c _ _ _ _ => nameAcc c
  | .acs d _ _ _ => nameV k d
  | .acsw _ c _ _ => nameAcc c
  | .vld v _ _ _ _ | .vlds v _ _ _ _ | .vldf v _ _ _ _ => nameVm v
  | .vgth v _ _ _ _ => nameVm v
  | .vldl v _ _ _ => nameVm v
  | .vpop v _ => nameVm v
  | .mma c _ _ _ _ | .mmz c _ _ _ _ => nameAcc c
  | .mmg c _ _ _ _ _ | .mtl c _ _ _ _ _ => nameAcc c
  | .msm _ _ _ _ _ o => nameAcc o
  | .mclr c _ => nameAcc c
  | .mside c _ _ => nameAcc c
  | _ => []

/-- The destinations that the instruction of slot k reads: registers, predicates and records. -/
def readsOf (k : Nat) (i : Instr) : List Dest :=
  match i with
  | .br _ _ _ x _ => nameX x
  | .brp _ _ c p _ _ => if p = 0 then [] else [.p (c == 1) p.toNat]
  | .jmpx _ _ x => nameX x
  | .loop _ _ x _ => nameX x
  | .addi _ s _ | .slti _ s _ | .sltiu _ s _ | .xori _ s _ | .ori _ s _ | .andi _ s _ | .addiw _ s _ => nameX s
  | .slli _ s _ | .srli _ s _ | .srai _ s _ => nameX s
  | .slliw _ s _ | .srliw _ s _ | .sraiw _ s _ => nameX s
  | .add t s _ | .sub t s _ | .sll t s _ | .slt t s _ | .sltu t s _ | .xor t s _ | .srl t s _ | .sra t s _ | .or t s _
  | .and t s _ | .mul t s _ | .mulh t s _ | .mulhsu t s _ | .mulhu t s _ | .div t s _ | .divu t s _ | .rem t s _
  | .remu t s _ | .addw t s _ | .subw t s _ | .sllw t s _ | .srlw t s _ | .sraw t s _ | .mulw t s _ | .divw t s _
  | .divuw t s _ | .remw t s _ | .remuw t s _ => nameX s ++ nameX t
  | .lb _ s _ | .lh _ s _ | .lw _ s _ | .ld _ s _ | .lbu _ s _ | .lhu _ s _ | .lwu _ s _ => nameX s
  | .sb _ t s _ | .sh _ t s _ | .sw _ t s _ | .sd _ t s _ => nameX s ++ nameX t
  | .shw _ _ _ s => nameX s
  | .shr e r f _ => [.shape e.toNat r.toNat f.toNat]
  | .brld _ s => nameX s
  | .brst b s => nameRec b ++ nameX s
  | .getd i j _ => [.dev (32 * i.toNat + j.toNat)]
  | .setd _ _ s => nameX s
  | .clz s _ | .ctz s _ | .popc s _ => nameX s
  | .spillx _ _ s => nameX s
  | .fillx h l _ => [.spillX (8 * h.toNat + l.toNat)]
  | .ldfW s _ | .ldfD s _ | .ldfeW s _ | .ldfeD s _ | .ldt s _ | .bart s _ => nameX s
  | .steW t s | .steD t s | .stfW t s | .stfD t s | .bari t s | .bara t s | .barc t s => nameX s ++ nameX t
  | .sete s | .setf s => nameX s
  | .barw t s _ | .baraw t s _ | .waitvEq t s _ | .waitvNe t s _ => nameX s ++ nameX t
  | .amoadd _ t s _ _ | .amoswap _ t s _ _ | .amoand _ t s _ _ | .amoor _ t s _ _ | .amoxor _ t s _ _
  | .amomin _ t s _ _ | .amomax _ t s _ _ | .amominu _ t s _ _ | .amomaxu _ t s _ _ => nameX s ++ nameX t
  | .amocas _ t s _ d => nameX s ++ nameX t ++ nameX d
  | .amofadd _ t s _ => nameX s ++ nameX t
  | .redadd _ t s _ | .redand _ t s _ | .redor _ t s _ | .redxor _ t s _ | .redmin _ t s _ | .redmax _ t s _
  | .redminu _ t s _ | .redmaxu _ t s _ => nameX s ++ nameX t
  | .redfadd _ t s => nameX s ++ nameX t
  | .redofadd _ t s d => nameX s ++ nameX t ++ nameX d
  | .lda _ s _ _ => nameX s
  | .stl _ t s _ => nameX s ++ nameX t
  | .tdone s | .tabort s => nameX s
  | .tspawn t s => nameX s ++ nameX t
  | .launch t s _ => nameX s ++ nameX t
  | .lwait s _ => nameX s
  | .rand _ => [.dev 0x012]
  | .vadd _ _ s v p | .vsub _ _ s v p | .vmul _ _ s v p | .vand _ _ s v p | .vor _ _ s v p | .vxor _ _ s v p
  | .vfadd _ _ s v p | .vfsub _ _ s v p | .vfmul _ _ s v p | .vfmin _ _ s v p | .vfmax _ _ s v p
  | .vsel _ _ s v p => nameV k s ++ nameV k v ++ nameP k p
  | .vmac _ d s v p | .vfma _ d s v p | .vfms _ d s v p => nameV k d ++ nameV k s ++ nameV k v ++ nameP k p
  | .vmulh _ _ s v p _ | .vmin _ _ s v p _ | .vmax _ _ s v p _ | .vperm _ _ s v p _ | .vzip _ _ s v p _
  | .vuzp _ _ s v p _ => nameV k s ++ nameV k v ++ nameP k p
  | .vshl _ _ s v p i _ | .vshr _ _ s v p i _ | .vsra _ _ s v p i _ =>
    nameV k s ++ (if i = 1 then [] else nameV k v) ++ nameP k p
  | .vabs _ _ s p | .vmov _ _ s p | .vshuf4 _ _ s p | .vrsum _ _ s p | .vrmax _ _ s p | .vrmin _ _ s p =>
    nameV k s ++ nameP k p
  | .xmv _ _ s p => [.v (k == 3) s.toNat] ++ nameP k p
  | .vadds _ _ s v p _ _ => nameV k s ++ nameV k v ++ nameP k p
  | .vfsgn _ _ s v p _ => nameV k s ++ nameV k v ++ nameP k p
  | .vcmp _ _ s v p _ _ => nameV k s ++ nameV k v ++ nameP k p
  | .vmovi _ _ _ _ p _ => nameP k p
  | .vmovx _ _ p x => nameP k p ++ nameX x
  | .vrand _ p x => nameP k p ++ nameX x ++ [.dev 0x012]
  | .vrot _ _ s p _ | .vbcast _ _ s p _ => nameV k s ++ nameP k p
  | .vcvt _ _ s v p _ m | .vpack _ _ s v p _ m | .vunpk _ _ s v p _ m =>
    nameV k s ++ (if m = 5 then nameV k v else []) ++ nameP k p
  | .plog _ s v _ => nameP k s ++ nameP k v
  | .pcnt _ p _ | .pfirst _ p _ => nameP k p
  | .pset _ _ x => nameX x
  | .vspill s _ => nameV k s
  | .vfill _ l => [.spillV l.toNat]
  | .vext _ _ s _ _ => nameV k s
  | .vins _ _ _ _ x => nameX x
  | .vexp2 _ _ s p | .vlog2 _ _ s p | .vrcp _ _ s p | .vrsqrt _ _ s p | .vsqrt _ _ s p | .vtanh _ _ s p
  | .verf _ _ s p => nameV k s ++ nameP k p
  | .acr _ _ c _ _ p _ _ => nameAcc c ++ nameP k p
  | .acw _ _ s p _ _ => nameV k s ++ nameP k p
  | .acs _ _ c p => nameAcc c ++ nameP k p
  | .acsw _ _ s p => nameV k s ++ nameP k p
  | .vld _ b x p _ | .vlds _ b x p _ | .vldf _ b x p _ => nameRec b ++ nameX x ++ nameP 4 p
  | .vst v b x p _ | .vsts v b x p _ | .vste v b x p _ | .vstb v b x p _ =>
    nameV 4 v ++ nameRec b ++ nameX x ++ nameP 4 p
  | .vgth _ b x p _ => nameRec b ++ nameV 4 x ++ nameP 4 p
  | .vsct v b x p _ => nameV 4 v ++ nameRec b ++ nameV 4 x ++ nameP 4 p
  | .vldl _ x p _ => nameV 4 x ++ nameP 4 p
  | .vstl v x p _ => nameV 4 v ++ nameV 4 x ++ nameP 4 p
  | .vpush v _ => nameV 4 v
  | .vred v b x p o =>
    nameV 4 v ++ nameRec b ++ nameX x ++ (if o = 0x18 then [.x (x.toNat + 1)] else []) ++ nameP 4 p
  | .vpref b x p _ => nameRec b ++ nameX x ++ nameP 4 p
  | .mma c _ _ _ _ => nameAcc c
  | .mmg c _ _ _ _ _ | .mtl c _ _ _ _ _ => nameAcc c
  | .msm c _ _ _ _ o => nameAcc c ++ nameAcc o
  | .mout c _ _ _ _ => nameAcc c
  | .cpy _ s d x _ => nameRec s ++ nameRec d ++ nameX x
  | .cpyq _ s _ x _ | .wset _ s _ x _ => nameRec s ++ nameX x
  | .cpyo _ _ d x _ => nameRec d ++ nameX x
  | .ringi _ x => nameX x
  | .wadv _ x _ => nameX x
  | .kpost _ s r x _ => nameRec s ++ nameRec r ++ nameX x
  | .kwait x _ => nameX x
  | .ovl x _ => nameX x
  | .pref s _ x => nameRec s ++ nameX x
  | .res _ s => nameRec s
  | _ => []

/-- The fields of active shape copies that the instruction of a slot reads (R23, R112): engine, register and field. -/
def shapesRead (g : Regs) (i : Instr) : List (Nat × Nat × Nat) :=
  let st := fun (m : Nat) (fs : List Nat) => fs.map (fun f => (2, m, f))
  match i with
  | .shr e r f _ => [(e.toNat, r.toNat, f.toNat)]
  | .mtl _ _ _ _ m _ => [(1, m.toNat, 2)]
  | .msm _ _ _ m _ _ => [(1, m.toNat, 0)]
  | .mout _ _ _ m _ => [(1, m.toNat, 1)]
  | .mside _ o m => if o = 0 then [] else [(1, m.toNat, 3)]
  | .cpy m _ _ _ _ | .cpyq _ _ m _ _ | .cpyo _ m _ _ _ | .wset _ _ m _ _ => st m.toNat [0, 1, 2]
  | .kpost _ _ _ x _ => st (paramsOf (g.readX x.toNat).toNat).fh [1, 2, 3]
  | .pref _ m _ => st m.toNat [0]
  | _ => []

end Sys2Proof.Machine
end

