-- ==== Sys2Proof/Machine/Issue.lean ====
section
/-!
DEFINITION. One context cycle of a core: fetch and its checks (R42, R63, R73 to R75, R93, R333), the issue checks of a bundle and
their merge (R76, R77), the scoreboard (R84), commit in memory order (R82), and the end of the cycle (R13, R35, R80, R315).
-/
namespace Sys2Proof.Machine

/-! ## Fetch -/

/-- A slot word that decodes, with its slot. -/
abbrev Word8 := Nat × Option Instr

/-- The eight slot words of a bundle, each decoded by its own slot's format (R63, R64). -/
def bundleWords (b : Bundle) : List Word8 := (upTo 8).map (fun k => (k, decodeSlot k (slotWord b k)))

/-- The bundle at the program counter. -/
def fetched (c : Core) : Bundle := spGet 0 c.imem.bundles c.ctl.pc

/-- The fetch succeeds: an index inside the scratchpad, in a region that is valid with the running kernel's tag (R42, R93). -/
def fetchOk (c : Core) : Bool := decide (c.ctl.pc < 4096) && regionReady c (c.ctl.pc / 32)

/-- A word that is no instruction, breaks its entry's limits, or is ILLEGAL where the core stands (R73, R98, R104, R165). -/
def badWord (c : Core) (e : Word8) : Bool :=
  match e.2 with
  | none => true
  | some i => !wellFormedIn e.1 i || ctlIllegal c i || mxIllegal c i

/-- A word shares a destination with another slot's (R74). -/
def sharesDest (es : List Word8) (e : Word8) : Bool :=
  match e.2 with
  | none => false
  | some i => es.any (fun q =>
      q.1 != e.1 && (match q.2 with
        | some j => (destsOf q.1 j).any (fun d => (destsOf e.1 i).contains d)
        | none => false))

/-- The ring that a VM or MX word names. -/
def ringNamed (i : Instr) : Option Nat :=
  match i with
  | .vpush _ q => some q.toNat
  | .vpop _ q => some q.toNat
  | .mwl q _ => some q.toNat
  | .mma _ q _ _ _ => some q.toNat
  | .mmz _ q _ _ _ => some q.toNat
  | .mmg _ q _ _ _ _ => some q.toNat
  | .mtl _ q _ _ _ _ => some q.toNat
  | .msm _ q _ _ _ _ => some q.toNat
  | .mout _ q _ _ _ => some q.toNat
  | _ => none

/-- A RINGI whose ring the VM or MX slot of its bundle names (R218): the failing slot is the RINGI's. -/
def setsNamedRing (es : List Word8) (e : Word8) : Bool :=
  match e.2 with
  | some (.ringi q _) => es.any (fun w =>
      match w.2 with
      | some i => ringNamed i == some q.toNat
      | none => false)
  | _ => false

/-- The mask of the ILLEGAL slots of a fetched bundle (R73, R74). -/
def illegalMask (c : Core) (es : List Word8) : Nat :=
  es.foldl (fun m e => if badWord c e || sharesDest es e || setsNamedRing es e then m + 2 ^ e.1 else m) 0

/-- The index of the comparator that the fetch matches (R333): enabled, with this context and this bundle. Of several it is the lowest
(DESIGN CHOICE: R333 does not say which index DTADDR receives; log entry 97). -/
def comparator (x : Ctx) (slot logical pc : Nat) : Option Nat :=
  (upTo 8).find? (fun i =>
    let w := (spGet 0 x.dbg (8 * logical + i)).toNat
    bitAt w 31 && field w 18 6 == slot && field w 0 12 == pc)

/-- The comparator that stops a core at its next bundle, unless it is the first after a resume (R334). -/
def breakAt (s : State) (n : Nat) : Option Nat :=
  let c := getCore s n
  if c.ctl.skipBreak then none else comparator (ctxOfCore s n) (slotOfCore s n) c.logical c.ctl.pc

/-! ## Interlocks and the order of accesses (R75, R81, R84, R184) -/

/-- Every slot's decoded word with its slot; a word that does not decode is dropped (the bundle has been refused). -/
def decoded (es : List Word8) : List (Nat × Instr) := es.filterMap (fun e => e.2.map (fun i => (e.1, i)))

/-- A bundle reads or would write a destination whose interlocked result is pending (R75, R81). -/
def waitsForResult (c : Core) (is : List (Nat × Instr)) : Bool :=
  is.any (fun e => (readsOf e.1 e.2 ++ destsOf e.1 e.2).any (fun d => c.interlocked d))

/-- A slot reads a destination whose fixed-latency result is due after the issue cycle begins (R84). -/
def readsEarly (c : Core) (e : Nat × Instr) : Bool :=
  (readsOf e.1 e.2).any (fun d => c.pend.any (fun q => q.due.isSome && q.dest == some d))

/-- A scalar memory access. -/
def scalarAccess (i : Instr) : Bool :=
  match i with
  | .lb _ _ _ | .lh _ _ _ | .lw _ _ _ | .ld _ _ _ | .lbu _ _ _ | .lhu _ _ _ | .lwu _ _ _ => true
  | .sb _ _ _ _ | .sh _ _ _ _ | .sw _ _ _ _ | .sd _ _ _ _ => true
  | .brld _ _ | .brst _ _ => true
  | _ => false

/-- A VM access: every VM instruction but NOP and the hint. -/
def vectorAccess (i : Instr) : Bool :=
  match i with
  | .vld _ _ _ _ _ | .vst _ _ _ _ _ | .vlds _ _ _ _ _ | .vsts _ _ _ _ _ | .vgth _ _ _ _ _ | .vsct _ _ _ _ _
  | .vldf _ _ _ _ _ | .vste _ _ _ _ _ | .vstb _ _ _ _ _ | .vred _ _ _ _ _ => true
  | .vldl _ _ _ _ | .vstl _ _ _ _ => true
  | .vpush _ _ | .vpop _ _ => true
  | _ => false

/-- A posting ST instruction (R208). -/
def postsJob (i : Instr) : Bool :=
  match i with
  | .cpy _ _ _ _ _ | .cpyq _ _ _ _ _ | .cpyo _ _ _ _ _ | .wset _ _ _ _ _ | .kpost _ _ _ _ _ => true
  | .wadv _ _ _ => true
  | .ovl _ _ => true
  | _ => false

/-- An instruction of "Synchronisation, atomic and task instructions" other than RAND. -/
def syncInstr (i : Instr) : Bool :=
  match i with
  | .rand _ => false
  | _ => onlySb i

/-- What is held until every earlier instruction of that chapter has been performed (R184). -/
def heldBySync (i : Instr) : Bool := scalarAccess i || vectorAccess i || postsJob i || syncInstr i

/-! ## The issue checks (R76) -/

/-- The checks of one slot, gathered: what they raise, whether the slot is held, and what a hold asks for (a walk, the prepared
line, the joining of a gang). Nothing else of the slot takes effect. -/
def probeSlot (base s : State) (e : Nat × Instr) : State :=
  match exec e.2 { base with issue := { base.issue with slot := e.1 } } with
  | .next t =>
    let n := base.issue.core
    let walks := t.hw.walks.foldl (fun ws w => if ws.contains w then ws else ws ++ [w]) s.hw.walks
    let s1 := { s with
      hw := { s.hw with walks := walks }
      issue := { s.issue with held := s.issue.held || t.issue.held, raised := s.issue.raised ++ t.issue.raised } }
    if t.issue.held then
      modCore s1 n (fun c =>
        { c with heldOn := if (getCore t n).heldOn.isSome then (getCore t n).heldOn else c.heldOn
                 mx := { c.mx with joined := c.mx.joined || (getCore t n).mx.joined } })
    else s1
  | _ => s

/-- The merge of failing checks (R76): the smallest cause, the slots that have it, and the address of the lowest of them. -/
def mergeFaults (fs : List SlotFault) : Option (Cause × Nat × Nat) :=
  match fs.foldl (fun c f => minCause c f.cause) .none with
  | .none => none
  | c =>
    let same := fs.filter (fun f => f.cause == c)
    let mask := (upTo 8).foldl (fun m k => if same.any (fun f => f.slot == k) then m + 2 ^ k else m) 0
    let low := same.foldl (fun best (f : SlotFault) =>
      match best with
      | none => some f
      | some b => if f.slot < b.slot then some f else some b) (none : Option SlotFault)
    some (c, mask, (low.map (fun f => f.addr)).getD 0)

/-- The scoreboard's faults, when DCTL.SCB is 1 (R84). -/
def scoreFaults (c : Core) (is : List (Nat × Instr)) : List SlotFault :=
  if bitAt c.dev.ctl.toNat 0 then (is.filter (readsEarly c)).map (fun e => ⟨e.1, .scoreboard, 0⟩) else []

/-- The instruction of a slot reads a word of the core with an uncorrectable error: a register, an accumulator, a record, a spill slot
or the active copy of a shape register (R338). -/
def readsBad (c : Core) (e : Nat × Instr) : Bool :=
  (readsOf e.1 e.2).any (fun d =>
    match d with
    | .shape _ _ _ => false
    | _ => c.bad.contains (.file d)) ||
    (shapesRead c.regs e.2).any (fun f => c.bad.contains (.active f.1 f.2.1 f.2.2))

/-- The slots that read a word with an uncorrectable error (R338). -/
def errorFaults (c : Core) (is : List (Nat × Instr)) : List SlotFault :=
  if c.bad.isEmpty then [] else (is.filter (readsBad c)).map (fun e => ⟨e.1, .eccUncorr, 0⟩)

/-- The slots of a bundle whose words in the instruction scratchpad hold an uncorrectable error (R338). -/
def badWords (c : Core) : Nat :=
  (upTo 8).foldl (fun m k => if c.bad.contains (.instr (8 * c.ctl.pc + k)) then m + 2 ^ k else m) 0

/-! ## Commit (R82) -/

/-- A word that stores: it follows every load of its bundle. An access of the synchronisation chapter counts as a store. -/
def storesWord (i : Instr) : Bool :=
  match i with
  | .sb _ _ _ _ | .sh _ _ _ _ | .sw _ _ _ _ | .sd _ _ _ _ | .brst _ _ => true
  | .vst _ _ _ _ _ | .vsts _ _ _ _ _ | .vsct _ _ _ _ _ | .vste _ _ _ _ _ | .vstb _ _ _ _ _ | .vred _ _ _ _ _ => true
  | .vpush _ _ => true
  | i => syncInstr i

/-- The order in which the slots of a bundle take effect: everything that does not store in slot order, then the stores, then
the ring claims of MX and of ST, and the choice of the next bundle last (R82, R93, R167). -/
def commitOrder (is : List (Nat × Instr)) : List (Nat × Instr) :=
  let mid := is.filter (fun e => e.1 != 0 && e.1 != 6 && e.1 != 7)
  mid.filter (fun e => !storesWord e.2) ++ mid.filter (fun e => storesWord e.2) ++ is.filter (fun e => e.1 == 6) ++
    is.filter (fun e => e.1 == 7) ++ is.filter (fun e => e.1 == 0)

/-- One slot takes effect. A slot before it that has ended the task (an abort by the L2) leaves nothing to do. -/
def commitSlot (s : State) (e : Nat × Instr) : State :=
  if (curCore s).status ≠ .running then s
  else
    match exec e.2 { s with issue := { s.issue with slot := e.1 } } with
    | .next t => t
    | _ => s

/-- A bundle has committed: its age is spent, the comparators are live again, and the watchdog hears of it (R326, R334). -/
def afterCommit (s : State) : State :=
  pulse (modCur s (fun c => { c with ctl := { c.ctl with age := c.ctl.age + 1, skipBreak := false } })) (slotOfCore s s.issue.core)

/-- The scratch of an issue put back to rest. -/
def clearIssue (s : State) : State := { s with issue := {} }

/-- A bundle that fails: the trap of the merged faults, and nothing of the bundle (R76, R77). -/
def failBundle (s : State) (n : Nat) (f : Cause × Nat × Nat) : State :=
  let pc := (getCore s n).ctl.pc
  takeTrap (modCore s n (fun c => { c with ctl := { c.ctl with skipBreak := false } })) n f.1 f.2.1 pc f.2.2 pc

/-- The scratch for the issue of a core's bundle. -/
def startIssue (s : State) (n : Nat) : State :=
  { s with issue := { core := n, pc := (getCore s n).ctl.pc, probe := true } }

/-- The swap bits of a bundle's CTL word. -/
def swapBits (is : List (Nat × Instr)) : BitVec 3 :=
  match is.find? (fun e => e.1 == 0) with
  | some (_, i) =>
    match i with
    | .next _ w => w | .br _ w _ _ _ => w | .brp _ w _ _ _ _ => w | .jmp _ w _ => w | .call _ w _ => w | .jmpx _ w _ => w
    | .loop _ w _ _ => w | .loopi _ w _ _ => w | .waitc _ w _ => w | .trap _ w _ => w | .eret _ w => w | .done _ w => w
    | .halt _ w => w | .brk _ w _ => w | .iwait _ w _ => w
    | _ => 0
  | none => 0

/-- The bundle's exchange of shape copies, before any slot reads its operands (R24). -/
def exchanged (s : State) (is : List (Nat × Instr)) : State :=
  let s1 := swapShapes s (swapBits is)
  { s1 with issue := { s1.issue with swapped := true } }

/-- The slots of a bundle that has passed its checks take effect. -/
def commitAll (s : State) (is : List (Nat × Instr)) : State :=
  (commitOrder is).foldl commitSlot { s with issue := { s.issue with commit := true } }

/-- What a hold keeps of the probing of a bundle: walks, the prepared line and the joining of a gang. -/
def keepHold (s t : State) (n : Nat) : State :=
  modCore { s with hw := { s.hw with walks := t.hw.walks } } n (fun c =>
    { c with heldOn := (getCore t n).heldOn, mx := { c.mx with joined := (getCore t n).mx.joined } })

/-- The issue of a legal bundle (R75 to R77): held, failed or committed. -/
def issueBundle (s : State) (n : Nat) (is : List (Nat × Instr)) : State :=
  let c := getCore s n
  if waitsForResult c is || (!c.sync.isEmpty && is.any (fun e => heldBySync e.2)) then s
  else
    let s0 := exchanged (startIssue s n) is
    let t := is.foldl (probeSlot s0) s0
    if t.issue.held then keepHold s t n
    else
      match mergeFaults (t.issue.raised ++ scoreFaults c is ++ errorFaults (getCore s0 n) is) with
      | some f => failBundle s n f
      | none =>
        let u := commitAll s0 is
        if u.issue.held then s
        else
          match mergeFaults u.issue.raised with
          | some f => failBundle s n f
          | none => clearIssue (afterCommit u)

/-- A core that runs looks at its next bundle (R75): ILLEGAL words at once; in the eligible cycle IFETCH, words that cannot be read
(R338), a comparator, then the issue. -/
def fetchAndIssue (s : State) (n : Nat) : State :=
  let c := getCore s n
  let es := bundleWords (fetched c)
  let ready := decide (c.ctl.eligible ≤ c.now)
  let bad := badWords c
  let mask := if fetchOk c && bad == 0 then illegalMask c es else 0
  if mask ≠ 0 ∧ (breakAt s n).isNone then failBundle s n (.illegal, mask, 0)
  else if !ready then s
  else if !fetchOk c then
    takeTrap s n .ifetch 0 (min c.ctl.pc 4095) 0 c.ctl.pc
  else if bad ≠ 0 then failBundle s n (.eccUncorr, bad, 0)
  else
    match breakAt s n with
    | some i => stageTrap s n .brk 0 c.ctl.pc i
    | none => issueBundle s n (decoded es)

/-! ## The cycle of a core -/

/-- A core's task stands in the phase that issues bundles. -/
def issuing (c : Core) : Bool :=
  match c.task with
  | some t => t.phase == .running
  | none => false

/-- A context cycle passes on a core (R13): its task runs, and neither the core nor its context is stopped, saved or restored. -/
def cyclePasses (s : State) (n : Nat) : Bool :=
  let c := getCore s n
  let x := ctxOfCore s n
  c.status == .running && x.state == .running && !x.restoring && ((x.decided.isNone && !x.saving) || c.outcome == .drain) &&
    (match c.task with
     | some t => t.phase != .held
     | none => false)

/-- A task whose base regions are all valid begins to run (R426). -/
def baseLoaded (s : State) (n : Nat) : State :=
  match (getCore s n).task with
  | some t =>
    if t.phase = .loading ∧ (taskObject s n).isSome ∧ (nextBase s n).isNone then
      modCore s n (fun c => { c with task := some { t with phase := .running }
                                     ctl := { c.ctl with eligible := max c.ctl.eligible c.now } })
    else s
  | none => s

/-- The end of a context cycle on a core: DEST falls, results land, time passes (R35, R36, R80), and a WAITC that has run out
is over (R100). -/
def Core.endCycle (c : Core) : Core :=
  let d := { c.dev with est := if c.dev.est = 0 then 0 else c.dev.est - 1 }
  let c1 := { c with dev := d }.landDue
  let now := c1.now + 1
  { c1 with now := now, dev := { c1.dev with dcyc := c1.dev.dcyc + 1 }
            ctl := { c1.ctl with wait := c1.ctl.wait.bind (fun w => if w ≤ now then none else some w) } }

/-- The logical clock of a core advances at least once in 256 context cycles (R232): here every 240, so that the 17 ticks that end a
lease of 16 pass within 4,096 (R233). -/
def tickDue (c : Core) : Bool := decide (c.lastTick + 240 ≤ c.now)

/-- The answer of a meaning that always goes on, and the state itself otherwise. -/
def orSame (o : Out) (s : State) : State :=
  match o with
  | .next t => t
  | _ => s

/-- The end of a context cycle (R13, R80): the core's own, its clock's tick, WAITVs that time out, a core now held saves its
results in flight (R315, R334), and every wait that has become performable is served. -/
def endCycle (s : State) (n : Nat) : State :=
  let s1 := modCore s n Core.endCycle
  let s2 := if tickDue (getCore s1 n) then orSame (execLogicalClockTick n s1) s1 else s1
  let s3 := orSame (execWaitvTimeout n s2) s2
  settle (if (getCore s3 n).status = .held then modCore s3 n Core.toBuffer else s3)

/-- One context cycle of a core. -/
def coreCycle (s : State) (n : Nat) : State :=
  let s1 := baseLoaded s n
  let s2 := if issuing (getCore s1 n) && (getCore s1 n).heldOn.isNone then fetchAndIssue s1 n else s1
  endCycle (clearIssue s2) n

end Sys2Proof.Machine
end

