-- ==== Sys2Proof/Machine/Policy.lean ====
section
/-!
DEFINITION. The package's turn of a clock: what passes with time, and one pass over the events that the package makes by itself,
each by its meaning, which leaves the state as it is where its event is not due. The order of the pass, and what the stage manager
does where its policy is not architectural, are the model's (DESIGN CHOICE; log entry 5).
-/
namespace Sys2Proof.Machine

/-- A meaning taken over a list of subjects. -/
def each {α : Type} (xs : List α) (f : α → State → Out) (s : State) : State := xs.foldl (fun st x => orSame (f x st) st) s

/-! ## Time -/

/-- The watchdog counts the clock cycles without a pulse of a context whose progress it awaits (R326). -/
def Ctx.dogTick (c : Ctx) : Ctx :=
  match c.dog with
  | .armed | .saving => if c.dogPulse then { c with dogPulse := false } else { c with dogCount := c.dogCount + 1 }
  | _ => { c with dogPulse := false }

/-- The package is up, active or in a low-power state (R385). -/
def Power.up : Power → Bool
  | .active | .low _ => true
  | _ => false

/-- The end of a clock cycle of the package: the clock, the watchdogs, and the time for which the package has been idle (R326, R385). -/
def clockTurn (s : State) : State :=
  let idle := if s.plat.power.up && packageIdle s then s.plat.idle + 1 else 0
  let s1 := { s with clock := s.clock + 1, plat := { s.plat with idle := idle }, ctxs := s.ctxs.map (fun e => (e.1, e.2.dogTick)) }
  each (s1.ctxs.map (fun e => e.1)) execWatchdogFire s1

/-! ## The events of a core -/

/-- The events of a core's task: landings, base regions, the matrix unit, jobs, overlays, and its completion. -/
def corePass (n : Nat) (s : State) : State :=
  let ids := fun (st : State) => (getCore st n).jobs.map (fun j => j.id)
  let s1 := each ((getCore s n).pend.map (fun e => e.id)) (execInterlockedResultLand n) s
  let s2 := match nextBase s1 n with
    | some r => orSame (execBaseRegionLoad n r s1) s1
    | none => s1
  let s3 := each [execMxSlotRelease n, execMtlStep n, execMxRowPush n, execMxFinish n] (fun f => f) s2
  let s4 := each (ids s3) (execJobStart n) s3
  let s5 := each (ids s4) (execJobFault n) s4
  let s6 := each (ids s5) (execRingSlotClaim n) s5
  let ovls := (getCore s6 n).jobs.filterMap (fun j =>
    match j.kind, j.tag, j.regions with
    | .ovl, some t, r :: _ => some (t, r)
    | _, _, _ => none)
  let s7 := each ovls (fun e => execOvlRegionWritten n e.1 e.2) s6
  let s8 := each (ids s7) (execJobComplete n) s7
  each [execTaskComplete n, execDrainWindowExpire n, execPreparedAccessResume n] (fun f => f) s8

/-- The core would pop its own deque: an idle one, or one that waits in TGET (R200, R299). -/
def ownsWork (s : State) (n : Nat) : Bool :=
  let c := getCore s n
  match c.ctx.bind (fun k => (getCtx s k).map (fun x => (k, x))) with
  | none => false
  | some (k, x) =>
    match c.task, (waitingTget c).map (fun (o : SyncOp) => o.kind) with
    | none, _ => (takeOwn s ⟨k, c.logical, none⟩ x).isSome
    | some t, some (.tget false _ none) => (takeOwn s ⟨k, c.logical, some (t.launch, t.run)⟩ x).isSome
    | _, _ => false

/-- The cores look for work in one pass each: owners of deques first, then the others by number (R299, R301, R303); then what they
have taken starts (R253). -/
def findAll (s : State) : State :=
  let ns := s.cores.map (fun e => e.1)
  let owners := ns.filter (ownsWork s)
  each ns execTaskStart (each (owners ++ ns.filter (fun n => !owners.contains n)) execIdleCorePass s)

/-! ## The events of a context -/

/-- The completed slots of a launch. -/
def completedSlots (l : Launch) : List Slot := (l.a.slots ++ l.b.slots).filter (fun t => t.completed)

/-- The place of a merge among those of one cycle: points by row, then blocks by the logical index of their core (R301). -/
def mergeRank (l : Launch) (t : Slot) : Nat :=
  match t.kind with
  | .point => (l.desc.rowOf t.item).1
  | _ => 2 ^ 64 + t.core

/-- A value put into its place in a list that rises by a key, after its equals. -/
def insertBy {α : Type} (key : α → Nat) (x : α) : List α → List α
  | [] => [x]
  | y :: ys => if key x < key y then x :: y :: ys else y :: insertBy key x ys

/-- The completed sub-versions of a context merge (R255), in the order of R301. -/
def mergePass (k : Nat) (s : State) : State :=
  let all := ((getCtx s k).map (fun (c : Ctx) =>
    c.launches.flatMap (fun l => (completedSlots l).map (fun t => (mergeRank l t, l.handle, t.num))))).getD []
  let sorted := all.foldl (fun acc e => insertBy (fun (q : Nat × Nat × Nat) => q.1) e acc) []
  each sorted (fun e => execSubversionMerge k e.2.1 e.2.2) s

/-- The admission, the completion and the curtain of a launch. -/
def launchPass (k h : Nat) (s : State) : State :=
  let s2 := each [execAdmission k h, execLaunchComplete k h, execRehearsalCompare k h, execLaunchCommit k h] (fun f => f) s
  each [execPrepareAcknowledge k h 65537, execPrepareTimeout k h] (fun f => f) s2

/-- The chunks of a context's running collectives that may be complete (R226). -/
def chunksDue (s : State) (k : Nat) (c : Ctx) : List (Nat × Nat) :=
  c.colls.flatMap (fun q =>
    if q.go && !q.done then
      ((upTo (q.chunks (commOf c q.k).pos)).filter (fun i => chunkDue s k c q i)).map (fun i => (q.k, i))
    else [])

/-- A parked context has work for its cores. -/
def wantsCores (c : Ctx) : Bool := c.state == .parked && !c.restoring && c.launches.any (fun l => l.phase == .running)

/-- A running context has nothing left to do: no launch that has not ended, and no record to read. -/
def nothingLeft (c : Ctx) : Bool :=
  c.launches.all (fun l => l.ended) && c.queues.all (fun q => !q.2.en || q.2.head == q.2.tail)

/-! ## Placement (R305) -/

/-- The clusters of a partition on a die. -/
def onDie (d : Nat) (part : List Nat) : List Nat := part.filter (fun x => x / 8 == d)

/-- A die's running contexts use 4 clusters or fewer and include one of the opposite intensity class. -/
def suits (s : State) (c : Ctx) (d : Nat) : Bool :=
  let here := s.ctxs.filter (fun e => e.2.state == .running && !(onDie d e.2.part).isEmpty)
  decide (here.foldl (fun a e => a + (onDie d e.2.part).length) 0 ≤ 4) &&
    here.any (fun e => (e.2.intensity == 2 && c.intensity == 0) || (e.2.intensity == 0 && c.intensity == 2))

/-- The dies in the order of preference for a context (R305). -/
def dieOrder (s : State) (c : Ctx) : List Nat :=
  let room := fun (d : Nat) => (onDie d (freeClusters s)).length
  let more := if room 0 < room 1 then [1, 0] else [0, 1]
  if 4 < c.clusters then more
  else
    match [0, 1].find? (fun d => suits s c d && decide (c.clusters ≤ room d)) with
    | some 0 => [0, 1]
    | some _ => [1, 0]
    | none => more

/-- The free clusters of a physical half of a die: 0 and 1 lie on die 0. -/
def halfFree (s : State) (h : Nat) : List Nat := (freeClusters s).filter (fun x => x / 4 == h)

/-- The ways in which n free clusters of one die make a partition whose half-die instances each lie within a physical half (R277). -/
def dieTakes (s : State) (n d : Nat) : List (List Nat) :=
  (if n ≤ 4 then [(halfFree s (2 * d)).take n, (halfFree s (2 * d + 1)).take n]
   else if (halfFree s (2 * d)).length = 4 then [(halfFree s (2 * d) ++ halfFree s (2 * d + 1)).take n]
   else []).filter (fun cl => cl.length == n)

/-- The partitions that a context may be given, in the order of preference for dies (R277, R305). -/
def partitionsFor (s : State) (c : Ctx) (order : List Nat) : List (List Nat) :=
  if c.clusters ≤ 8 then order.flatMap (dieTakes s c.clusters)
  else (dieTakes s 8 0).flatMap (fun cl => (dieTakes s (c.clusters - 8) 1).map (fun more => cl ++ more))

/-- Where a parked context is placed, if it has room for its cores and its frontiers (R288, R305). -/
def placement (s : State) (c : Ctx) : Option (List Nat) :=
  (partitionsFor s c (dieOrder s c)).find? (fun cl =>
    decide (frontierUsed s (boardDie { c with part := cl }) + frontierNeed c ≤ 65536))

/-- The clusters that a pre-emption freed pass to the newcomer (R325): a context for which a decision was made, which can be
placed, comes before the others. -/
def yields (s : State) (c : Ctx) : Bool :=
  !c.claim && s.ctxs.any (fun e => e.2.claim && wantsCores e.2 && (placement s e.2).isSome)

/-- A parked context with work is restored where it can be placed. -/
def restorePass (k : Nat) (s : State) : State :=
  match getCtx s k with
  | none => s
  | some c =>
    if !wantsCores c || yields s c then s
    else
      match placement s c with
      | some cl => orSame (execRestore k cl s) s
      | none => s

/-- A running context with nothing left is parked (R428). -/
def parkPass (k : Nat) (s : State) : State :=
  match getCtx s k with
  | none => s
  | some c => if c.state == .running && nothingLeft c then orSame (execPark k s) s else s

/-- The events of a context. -/
def ctxPass (k : Nat) (s : State) : State :=
  let queues := ((getCtx s k).map (fun (c : Ctx) => c.queues.map (fun q => q.1))).getD []
  let s1 := each queues (execAdmissionRead k) s
  let handles := ((getCtx s1 k).map (fun (c : Ctx) => c.launches.map (fun l => l.handle))).getD []
  let s2 := handles.foldl (fun st h => launchPass k h st) s1
  let s3 := each (((getCtx s2 k).map (chunksDue s2 k)).getD []) (fun e => execChunkComplete k e.1 e.2) s2
  let comms := ((getCtx s3 k).map (fun (c : Ctx) => c.colls.map (fun q => q.k))).getD []
  let s4 := each comms (execCollectiveComplete k) s3
  let s5 := each [execSaveComplete k, execRestoreComplete k] (fun f => f) s4
  let s6 := parkPass k (restorePass k s5)
  if s.clock % (1000 * s.plat.clockMHz) = 0 then orSame (execClassifyWindow k s6) s6 else s6

/-! ## The events of the package -/

/-- The keys of a version table's entries. -/
def versionKeys (t : Sparse Version) : List Nat := t.map (fun e => e.1)

/-- The numbers of the walks that end, highest first, so that each is still in its place when it ends (R328). -/
def walksDue (s : State) : List Nat :=
  let run := runningWalks s
  ((upTo s.hw.walks.length).filter (fun i => run.contains i)).reverse

/-- The events of the link: packets that no route takes, held accesses, outcomes asked for, and flies (R262, R263, R356, R363). -/
def linkPass (s : State) : State :=
  let s1 := if s.link.lost.isEmpty then s else refuseLost s
  let s2 := if s1.link.heldHere.isEmpty then s1 else orSame (execPreparedAccessResume 256 s1) s1
  let s3 := if s2.link.peers.isEmpty then s2 else askOutcomes s2
  let flies := s3.link.flies.map (fun f => f.ctx)
  each flies execFlyAbandon (each flies execFlySwitch (each flies execFlySave s3))

/-- The events of the package's own hardware: walks, versions, the chorus, the link, channels, boot and power. -/
def packagePass (s : State) : State :=
  let s1 := each (walksDue s) execPageWalkComplete s
  let s2 := each (versionKeys s1.hw.versions0) (execVersionFree 0) s1
  let s3 := each (versionKeys s2.hw.versions1) (execVersionFree 1) s2
  let s4 := if laneWork s3 then each (upTo 8) execLaneBoundary s3 else s3
  let s5 := each ((upTo 2).flatMap (fun p => (upTo 4).map (fun c => (c, p)))) (fun e => execHopGrant e.1 e.2) s4
  let s6 := linkPass s5
  let s7 := each ((s6.hw.channels.filter (fun e => e.2.changing)).map (fun e => e.1)) execCodeChange s6
  let s8 := if s7.plat.writing then flashWritten s7 else s7
  each [execBootComplete, execLowPowerEntry] (fun f => f) s8

/-- One pass over the events that the package makes by itself. -/
def internalPass (s : State) : State :=
  let s1 := (s.cores.map (fun e => e.1)).foldl (fun st n => corePass n st) s
  let s2 := (s1.ctxs.map (fun e => e.1)).foldl (fun st k => mergePass k st) s1
  let s3 := findAll s2
  packagePass ((s3.ctxs.map (fun e => e.1)).foldl (fun st k => ctxPass k st) s3)

/-- The package's turn: errors strike, its events happen unless a delay still runs (log entry 5), and the clock cycle ends. -/
def packageTurn (s : State) : State :=
  let s1 := takeUpsets s
  clockTurn (
    match s1.delays with
    | [] => internalPass s1
    | 0 :: ds => internalPass { s1 with delays := ds }
    | (d + 1) :: ds => { s1 with delays := d :: ds })

/-! ## The package's own step -/

/-- The next core of this clock on which a context cycle passes. -/
def nextCore (s : State) : Option Nat :=
  (s.cores.find? (fun e => decide (s.turn ≤ e.1) && cyclePasses s e.1)).map (fun e => e.1)

/-- A step of the package's own: the context cycle of the next core of this clock, and the package's turn after the last. -/
def ownStep (s : State) : State :=
  match nextCore s with
  | some n => { coreCycle s n with turn := n + 1 }
  | none => { packageTurn s with turn := 0 }

/-- An event of the agenda is taken; an instruction of a slot is no event, and is dropped. -/
def agendaStep (i : Instr) (s : State) : Out := if homeSlot i = 8 then exec i s else .next s

/-! ## The place of an instruction that the host lays out -/

/-- A bundle that holds one word in a slot and NOPs elsewhere (R65). -/
def oneWordBundle (slot w : Nat) : Bundle := BitVec.ofNat 256 (w * 2 ^ (32 * slot))

/-- A launch of a context whose record names code object 1 and asks for nothing. -/
def placedLaunch : Launch :=
  { handle := 1, queue := 0, origin := .host 0, phase := .running, a := { started := true }
    desc := { code := 1, entry := 0, arg := 0, mode := 2, flags := 0, cls := 0, tokens := 0, est := 0, budget := 0, ext := []
              ndim := 0, ndep := 0, deps := [], tcb := 0, ntcb := 0, levels := [], foot := [] } }

/-- A context on cluster 0 with that launch. -/
def placedCtx : Ctx := { job := 1, rank := 0, nranks := 1, key0 := 0, key1 := 0, state := .running, clusters := 1, part := [0]
                         launches := [placedLaunch], nextHandle := 2 }

/-- A resident program of that launch. -/
def placedTask : Task := { launch := 1, run := false, kind := .resident, mode := 2, item := 0, ident := 0, slot := none, entry := 0
                           code := 1, codeTag := 1, exact := false, firstOvl := 0, ovls := 0, ckpt := false, phase := .running }

/-- A context that lets core 0 run. -/
def runningCtx (c : Ctx) : Ctx :=
  { c with state := .running, saving := false, restoring := false, decided := none
           part := if c.part.contains 0 then c.part else 0 :: c.part }

/-- Core 0 with a bundle at index 0 that it fetches in its next cycle, in a region valid with its task's tag. -/
def placeBundle (c : Core) (b : Bundle) : Core :=
  let t := { c.task.getD placedTask with phase := .running, codeTag := 1 }
  { c with ctx := some 0, status := .running, task := some t, heldOn := none, outcome := .nothing
           ctl := { c.ctl with pc := 0, eligible := c.now, wait := none, skipBreak := true }
           imem := { bundles := spSet 0 c.imem.bundles 0 b, tags := spPut c.imem.tags 0 1 }, pend := [], sync := [] }

/-- The package with power, its core 0 next, and the bundle in place. -/
def placeWord (s : State) (slot w : Nat) : State :=
  let b := oneWordBundle slot w
  let c := runningCtx ((getCtx s 0).getD placedCtx)
  modCore (setCtx { s with agenda := [], turn := 0, plat := { s.plat with power := .active, ready := true } } 0 c) 0
    (fun k => placeBundle k b)

end Sys2Proof.Machine
end

