-- ==== Sys2Proof/Machine/Step.lean ====
section
/-!
DEFINITION. The step of the machine: an event of the agenda, a context cycle of one core, or the package's turn (log entry 5), and
the placing of an instruction that the next step runs (log entry 6).
-/
namespace Sys2Proof.Machine

/-- One step. Inputs of the agenda come first, each between two steps; then the cores of this clock, by number; then the package.
A package without power does nothing until an input gives it power (R378, R381, R388). -/
def step (s : State) : Host.Outcome State Fault Refusal :=
  match s.agenda with
  | some i :: rest => agendaStep i { s with agenda := rest }
  | none :: rest => .next (ownStep { s with agenda := rest })
  | [] => if poweredOn s then .next (ownStep s) else .fault .packageStopped

/-- The word, laid into its slot of a bundle at index 0 of core 0 with NOPs beside it, which the next step of s fetches and runs: the
package has power, core 0 runs a task of context 0 whose code object's tag the region carries, and is the next core. -/
def State.withFetchWord (s : State) (nbits w : Nat) : State :=
  let v := tableWord (w % 2 ^ nbits % 2 ^ 32)
  let slot := match decodeTableWord nbits w with
    | some i => homeSlot i
    | none => 1
  placeWord s slot v

end Sys2Proof.Machine
end

