-- ==== Sys2Proof/Safety.lean ====
section
/-!
DEFINITION. What counts as a safe state and a safe run, in the terms that statements use: the canonical form of memory, the
promises of the register files, and a step that neither stops nor is refused.
-/
namespace Sys2Proof.Machine

/-- Memory is in its one canonical form: addresses strictly rising, and no entry equal to what an unlisted address reads as. -/
def Memory.wf (m : List Host.Cell) : Bool := spWf restByte m

/-- The state's memory is canonical. -/
def State.memOk (s : State) : Bool := Memory.wf s.mem

/-- The fuses hold a legal life-cycle state (R383): manufacturing, provisioned, deployed or decommissioned. -/
def Platform.lifeOk (p : Platform) : Bool := decide (p.life ≤ 3)

/-- What a step answers is a next state. -/
def goesOn (s : State) : Bool :=
  match step s with
  | .next _ => true
  | .fault _ => false
  | .refused _ => false

/-- A run of n steps goes on throughout. -/
def safeRun : Nat → State → Prop
  | 0, _ => True
  | n + 1, s => ∃ t, step s = .next t ∧ safeRun n t

end Sys2Proof.Machine
end

