-- ==== Sys2Proof/Certificates/Slice0/Obligations.lean ====
section
/-!
DEFINITION. The statements for the provers, each a Prop under its own name: what the machine does, what each instruction and each
event does, and what they leave unchanged.
-/

namespace Sys2Proof.Claims
open Sys2Proof.Machine

/-! ## Words of the statements

A statement says what a meaning answers in full: the next state is written out, so that everything it does not name is unchanged. -/

/-- The core whose bundle is being issued. -/
def me (s : State) : Core := getCore s s.issue.core

/-- The state with the issuing core replaced, and nothing else changed. -/
def meIs (s : State) (c : Core) : State := setCore s s.issue.core c

/-- The state in which the issuing core has one more result in flight and nothing else has changed: the destination (R74), the
cycle at whose end it lands (none for an interlocked result), the remote answers it awaits, the flags it raises and what it
writes. -/
def inFlight (s : State) (dest : Option Dest) (due : Option Nat) (waits : Nat) (flags : FpFlags) (what : Payload) : State :=
  meIs s { me s with
    pend := (me s).pend ++ [{ id := (me s).nextId, dest := dest, what := what, due := due, waits := waits, age := (me s).ctl.age,
                              flags := flags, replay := false }]
    nextId := (me s).nextId + 1 }

/-- The cycle at whose end a result of a latency lands that issues now: t + L − 1 (R80). -/
def lands (s : State) (latency : Nat) : Option Nat := some ((me s).now + latency - 1)

/-- A result to x[r]; x0 is no destination, and a landing there writes nothing (R17, R74). -/
def toX (s : State) (r : BitVec 5) (latency : Nat) (v : Word) : State :=
  inFlight s (if r = 0 then none else some (.x r.toNat)) (lands s latency) 0 0 (.x r.toNat v)

/-- The value of x[r] at issue. -/
def x (s : State) (r : BitVec 5) : Word := if r = 0 then 0 else spGet 0 (me s).regs.x r.toNat

end Sys2Proof.Claims

open Sys2Proof Sys2Proof.Machine Sys2Proof.Claims

/-! ## The machine -/

/-- Every word of the table, laid out by the encoder in the slot that takes it, decodes to the instruction it was made from, with
every operand at every value (Tables 3.2 to 3.4). -/
def Obligations.EncodedInstructionDecodesBack : Prop :=
  ∀ i : Instr, homeSlot i ≠ 8 → decodeSlot (homeSlot i) (encode i) = some i

/-- Worked encodings that the spec prints (R98, R148, Tables 3.8, 4.4, 5.4, 7.8, 8.7, 18.2 and 23.2,
and the CPY of chapter 9) decode, in the slot they stand in, to the instructions they stand for. -/
def Obligations.WorkedEncodingsDecode : Prop :=
  decodeSlot 0 0x1024BFFD = some (.br 1 0 1 5 0x1FFD) ∧
  decodeSlot 0 0x00E00602 = some (.loopi 0 0 3 2) ∧
  decodeSlot 0 0x00E02033 = some (.loopi 0 0 16 51) ∧
  decodeSlot 0 0x2021A008 = some (.br 2 0 0 13 8) ∧
  decodeSlot 1 0xFFF28293 = some (.addi 0xFFF 5 5) ∧
  decodeSlot 1 0x0020428B = some (.getd 0 2 5) ∧
  decodeSlot 2 0x5803000B = some (.shw 1 1 2 6) ∧
  decodeSlot 2 0x8C06800B = some (.shw 2 0 3 13) ∧
  decodeSlot 2 0x3204F00B = some (.spillx 25 0 9) ∧
  decodeSlot 2 0x0007042B = some (.ldfW 14 8) ∧
  decodeSlot 2 0x0403042B = some (.ldfeW 6 8) ∧
  decodeSlot 2 0x0073102B = some (.steW 7 6) ∧
  decodeSlot 2 0x067322AB = some (.baraw 7 6 5) ∧
  decodeSlot 2 0x007332DB = some (.amoadd 0 7 6 1 5) ∧
  decodeSlot 2 0xC873245B = some (.redofadd 0 7 6 8) ∧
  decodeSlot 2 0xF420005B = some (.fence 2 2) ∧
  decodeSlot 2 0x000054FB = some (.rand 9) ∧
  decodeSlot 3 0x42891800 = some (.vfadd 5 1 2 3 0) ∧
  decodeSlot 3 0x5EC44001 = some (.vfsgn 5 8 8 8 0 1) ∧
  decodeSlot 3 0xB0398808 = some (.plog 7 3 1 8) ∧
  decodeSlot 3 0x4E824700 = some (.vfma 5 0 4 8 7) ∧
  decodeSlot 5 0xD2A20000 = some (.vexp2 5 4 4 0) ∧
  decodeSlot 5 0xEE890005 = some (.acr 5 1 2 0 0 0 0 5) ∧
  decodeSlot 5 0x96908000 = some (.vrsum 5 2 1 0) ∧
  decodeSlot 5 0xA2988048 = some (.vcvt 5 3 1 0 0 9 0) ∧
  decodeSlot 4 0x08C22910 = some (.vld 3 2 5 1 16) ∧
  decodeSlot 4 0x29406840 = some (.vgth 5 0 13 0 64) ∧
  decodeSlot 6 0x3A001000 = some (.mclr 1 1) ∧
  decodeSlot 6 0x089F8000 = some (.mwl 4 0) ∧
  decodeSlot 6 0x307F8001 = some (.msm 0 3 63 0 0 1) ∧
  decodeSlot 6 0x127F8000 = some (.mma 1 3 63 0 0) ∧
  decodeSlot 7 0x04000403 = some (.cpy 0 0 1 0 3) ∧
  decodeSlot 7 0x044414C3 = some (.cpy 1 4 5 6 3) ∧
  decodeSlot 7 0x200004E1 = some (.kpost 0 0 1 7 1) ∧
  decodeSlot 7 0 = some .stNop

/-- A core that runs its task, in the cycle in which its next bundle is eligible, legal and free of a matching comparator, issues
exactly that bundle in this step, and its context cycle ends; that the step serves one core and the next one follows is the model's
choice (log entry 5). What a log entry is named for is the model's choice, no rule of the spec. -/
def Obligations.StepIssuesTheFetchedBundle : Prop :=
  ∀ (s : State) (n : Nat), s.agenda = [] → poweredOn s = true → nextCore s = some n →
    let s1 := baseLoaded s n
    let c := getCore s1 n
    let words := bundleWords (fetched c)
    issuing c = true → c.heldOn = none → c.ctl.eligible ≤ c.now → fetchOk c = true → badWords c = 0 → illegalMask c words = 0 →
    breakAt s1 n = none →
    step s = .next { endCycle (clearIssue (issueBundle s1 n (decoded words))) n with turn := n + 1 }

/-- A bundle whose interlocked operands have landed, with no unperformed access before it, none of whose slots is held or fails a
check, commits whole: each of its instructions has its effect by exec, in the order of R82 with the CTL slot last, after the
exchange that its swap bits ask for (R24, R75, R76). The order of the slots beyond R82 and the scratch of an issue are the model's choice
(log entries 53 and 3). -/
def Sys2Proof.Claims.BundleCommitsBySlots : Prop :=
  ∀ (s : State) (n : Nat) (is : List (Nat × Instr)),
    let c := getCore s n
    let s0 := exchanged (startIssue s n) is
    let probed := is.foldl (probeSlot s0) s0
    let done := commitAll s0 is
    waitsForResult c is = false → (c.sync = [] ∨ is.any (fun e => heldBySync e.2) = false) →
    probed.issue.held = false → mergeFaults (probed.issue.raised ++ scoreFaults c is ++ errorFaults (getCore s0 n) is) = none →
    done.issue.held = false → mergeFaults done.issue.raised = none →
    issueBundle s n is = clearIssue (afterCommit done) ∧
    commitAll s0 is = (commitOrder is).foldl commitSlot { s0 with issue := { s0.issue with commit := true } }

/-- One slot of a committing bundle runs exec of its instruction. -/
def Sys2Proof.Claims.CommittedSlotRunsItsInstruction : Prop :=
  ∀ (s t : State) (k : Nat) (i : Instr), (curCore s).status = .running →
    exec i { s with issue := { s.issue with slot := k } } = .next t → commitSlot s (k, i) = t

/-- An event at the head of the agenda is the step: exec of that event, on the state without it (the model's choice, log entry 5). -/
def Sys2Proof.Claims.AgendaEventIsTheStep : Prop :=
  ∀ (s : State) (i : Instr) (rest : List (Option Instr)), s.agenda = some i :: rest → homeSlot i = 8 →
    step s = exec i { s with agenda := rest }

/-- A package that has no power, with nothing to come, stops under its name; one with power always has a next state, and so has
every state whose agenda holds something (R381, R388). -/
def Sys2Proof.Claims.OnlyAPackageWithoutPowerStops : Prop :=
  ∀ s : State, (s.agenda = [] → poweredOn s = false → step s = .fault .packageStopped) ∧
    ((s.agenda ≠ [] ∨ poweredOn s = true) → ∃ t, step s = .next t)

/-- Every instruction and every event answers a next state, in every state and with every operand: no meaning refuses, and none
stops the machine. -/
def Obligations.EveryInstructionGoesOn : Prop := ∀ (i : Instr) (s : State), ∃ t, exec i s = .next t

/-- A bundle with a failing check takes no effect: the trap of the smallest cause is taken with the mask of the slots that failed
with it and the address of the lowest of them, and nothing else of the bundle happens (R76, R77). -/
def Sys2Proof.Claims.FailedBundleTakesOnlyItsTrap : Prop :=
  ∀ (s : State) (n : Nat) (is : List (Nat × Instr)) (cause : Cause) (mask addr : Nat),
    let c := getCore s n
    let s0 := exchanged (startIssue s n) is
    let probed := is.foldl (probeSlot s0) s0
    waitsForResult c is = false → (c.sync = [] ∨ is.any (fun e => heldBySync e.2) = false) → probed.issue.held = false →
    mergeFaults (probed.issue.raised ++ scoreFaults c is ++ errorFaults (getCore s0 n) is) = some (cause, mask, addr) →
    issueBundle s n is =
      takeTrap (modCore s n (fun k => { k with ctl := { k.ctl with skipBreak := false } })) n cause mask c.ctl.pc addr c.ctl.pc

/-- The failing checks of a bundle merge into the smallest cause code among them (R76). -/
def Sys2Proof.Claims.SmallestCausePrevails : Prop :=
  ∀ (fs : List SlotFault) (cause : Cause) (mask addr : Nat), mergeFaults fs = some (cause, mask, addr) →
    (∃ f ∈ fs, f.cause = cause) ∧ (∀ f ∈ fs, f.cause ≠ .none → cause.code ≤ f.cause.code) ∧
    (∀ f ∈ fs, f.cause = cause → f.slot < 8 → bitAt mask f.slot = true) ∧
    (∃ f ∈ fs, f.cause = cause ∧ f.addr = addr ∧ ∀ g ∈ fs, g.cause = cause → f.slot ≤ g.slot)

/-- After reset (R378): no context, core or task stands, memory reads as zero with every tag empty, and boot has not run. What the fuses
and the flash hold is the model's choice, since no reset touches them (log entry 6): life-cycle state 2, DEPLOYED, security version and
fused minimum 0, an empty flash with no write in progress, no measurement, no boot counted and no identity key. -/
def Obligations.ResetLeavesAnEmptyPackage : Prop :=
  State.reset.ctxs = [] ∧ State.reset.tags = [] ∧ (∀ p, rawByte State.reset p = 0) ∧
  (∀ n, (getCore State.reset n).ctx = none ∧ (getCore State.reset n).task = none ∧ (getCore State.reset n).pend = []) ∧
  State.reset.plat.power = .booting ∧ State.reset.plat.ready = false ∧
  State.reset.plat.life = 2 ∧ State.reset.plat.svn = 0 ∧ State.reset.plat.minSvn = 0 ∧ State.reset.plat.flash = [] ∧
  State.reset.plat.writing = false ∧ State.reset.plat.torn = false ∧ State.reset.plat.fwm = [] ∧ State.reset.plat.boots = 0 ∧
  State.reset.plat.identity = 0

/-- Reset memory is in its canonical form. -/
def Obligations.ResetMemoryIsCanonical : Prop := State.reset.memOk = true

/-- Every step from a state whose memory is canonical (addresses rising, no byte listed that reads as an unlisted one) leads to such
a state, whatever the state and the input. -/
def Obligations.StepKeepsMemoryCanonical : Prop :=
  ∀ s t : State, s.memOk = true → step s = .next t → t.memOk = true

/-! ## Scalar instructions -/

/-- The register-immediate instructions and LUI: each issues, and its result alone is in flight, with latency 1 (R108, Table 4.3). -/
def Sys2Proof.Claims.ScalarImmediateResults : Prop :=
  ∀ (s : State) (i : BitVec 12) (k : BitVec 20) (h : BitVec 6) (g rs rd : BitVec 5),
    let a := x s rs
    let b := i.signExtend 64
    let low := a.extractLsb' 0 32
    exec .scalarNop s = .next s ∧
    exec (.lui k rd) s = .next (toX s rd 1 (BitVec.ofInt 64 (k.toInt * 4096))) ∧
    exec (.addi i rs rd) s = .next (toX s rd 1 (BitVec.ofInt 64 (a.toInt + i.toInt))) ∧
    exec (.slti i rs rd) s = .next (toX s rd 1 (if a.toInt < i.toInt then 1 else 0)) ∧
    exec (.sltiu i rs rd) s = .next (toX s rd 1 (if a.toNat < b.toNat then 1 else 0)) ∧
    exec (.xori i rs rd) s = .next (toX s rd 1 (a ^^^ b)) ∧
    exec (.ori i rs rd) s = .next (toX s rd 1 (a ||| b)) ∧
    exec (.andi i rs rd) s = .next (toX s rd 1 (a &&& b)) ∧
    exec (.slli h rs rd) s = .next (toX s rd 1 (BitVec.ofNat 64 (a.toNat * 2 ^ h.toNat))) ∧
    exec (.srli h rs rd) s = .next (toX s rd 1 (BitVec.ofNat 64 (a.toNat / 2 ^ h.toNat))) ∧
    exec (.srai h rs rd) s = .next (toX s rd 1 (BitVec.ofInt 64 (a.toInt / 2 ^ h.toNat))) ∧
    exec (.addiw i rs rd) s = .next (toX s rd 1 ((low + i.signExtend 32).signExtend 64)) ∧
    exec (.slliw g rs rd) s = .next (toX s rd 1 ((low <<< g.toNat).signExtend 64)) ∧
    exec (.srliw g rs rd) s = .next (toX s rd 1 ((low >>> g.toNat).signExtend 64)) ∧
    exec (.sraiw g rs rd) s = .next (toX s rd 1 ((low.sshiftRight g.toNat).signExtend 64))

/-- The register-register and multiply instructions: each issues, and its result alone is in flight, with latency 1, or 3 for a
multiply; a shift takes the low 6 bits of its amount, a W form the low 5 (R108, Table 4.3). -/
def Sys2Proof.Claims.ScalarRegisterResults : Prop :=
  ∀ (s : State) (rt rs rd : BitVec 5),
    let a := x s rs
    let b := x s rt
    let low := a.extractLsb' 0 32
    let lowb := b.extractLsb' 0 32
    let six := b.toNat % 64
    let five := b.toNat % 32
    exec (.add rt rs rd) s = .next (toX s rd 1 (BitVec.ofInt 64 (a.toInt + b.toInt))) ∧
    exec (.sub rt rs rd) s = .next (toX s rd 1 (BitVec.ofInt 64 (a.toInt - b.toInt))) ∧
    exec (.sll rt rs rd) s = .next (toX s rd 1 (a <<< six)) ∧
    exec (.slt rt rs rd) s = .next (toX s rd 1 (if a.toInt < b.toInt then 1 else 0)) ∧
    exec (.sltu rt rs rd) s = .next (toX s rd 1 (if a.toNat < b.toNat then 1 else 0)) ∧
    exec (.xor rt rs rd) s = .next (toX s rd 1 (a ^^^ b)) ∧
    exec (.srl rt rs rd) s = .next (toX s rd 1 (a >>> six)) ∧
    exec (.sra rt rs rd) s = .next (toX s rd 1 (a.sshiftRight six)) ∧
    exec (.or rt rs rd) s = .next (toX s rd 1 (a ||| b)) ∧
    exec (.and rt rs rd) s = .next (toX s rd 1 (a &&& b)) ∧
    exec (.addw rt rs rd) s = .next (toX s rd 1 ((low + lowb).signExtend 64)) ∧
    exec (.subw rt rs rd) s = .next (toX s rd 1 ((low - lowb).signExtend 64)) ∧
    exec (.sllw rt rs rd) s = .next (toX s rd 1 ((low <<< five).signExtend 64)) ∧
    exec (.srlw rt rs rd) s = .next (toX s rd 1 ((low >>> five).signExtend 64)) ∧
    exec (.sraw rt rs rd) s = .next (toX s rd 1 ((low.sshiftRight five).signExtend 64)) ∧
    exec (.mul rt rs rd) s = .next (toX s rd 3 (BitVec.ofInt 64 (a.toInt * b.toInt))) ∧
    exec (.mulh rt rs rd) s = .next (toX s rd 3 (BitVec.ofInt 64 (a.toInt * b.toInt / 2 ^ 64))) ∧
    exec (.mulhsu rt rs rd) s = .next (toX s rd 3 (BitVec.ofInt 64 (a.toInt * (b.toNat : Int) / 2 ^ 64))) ∧
    exec (.mulhu rt rs rd) s = .next (toX s rd 3 (BitVec.ofNat 64 (a.toNat * b.toNat / 2 ^ 64))) ∧
    exec (.mulw rt rs rd) s = .next (toX s rd 3 ((low * lowb).signExtend 64))

/-- Division, for every operand value, with latency 20: the quotient truncated towards zero and its remainder; by zero the quotient is
all ones and the remainder is the dividend; the signed overflow gives the dividend with remainder 0; the W forms work likewise on
32 bits. It never traps (R109). -/
def Obligations.DivisionForEveryOperand : Prop :=
  ∀ (s : State) (rt rs rd : BitVec 5),
    let a := x s rs
    let b := x s rt
    let low := a.extractLsb' 0 32
    let lowb := b.extractLsb' 0 32
    exec (.div rt rs rd) s = .next (toX s rd 20 (if b = 0 then -1 else BitVec.ofInt 64 (a.toInt.tdiv b.toInt))) ∧
    exec (.rem rt rs rd) s = .next (toX s rd 20 (if b = 0 then a else BitVec.ofInt 64 (a.toInt.tmod b.toInt))) ∧
    exec (.divu rt rs rd) s = .next (toX s rd 20 (if b = 0 then -1 else BitVec.ofNat 64 (a.toNat / b.toNat))) ∧
    exec (.remu rt rs rd) s = .next (toX s rd 20 (if b = 0 then a else BitVec.ofNat 64 (a.toNat % b.toNat))) ∧
    exec (.divw rt rs rd) s =
      .next (toX s rd 20 (BitVec.signExtend 64 (if lowb = 0 then -1 else BitVec.ofInt 32 (low.toInt.tdiv lowb.toInt)))) ∧
    exec (.remw rt rs rd) s =
      .next (toX s rd 20 (BitVec.signExtend 64 (if lowb = 0 then low else BitVec.ofInt 32 (low.toInt.tmod lowb.toInt)))) ∧
    exec (.divuw rt rs rd) s =
      .next (toX s rd 20 (BitVec.signExtend 64 (if lowb = 0 then -1 else BitVec.ofNat 32 (low.toNat / lowb.toNat)))) ∧
    exec (.remuw rt rs rd) s =
      .next (toX s rd 20 (BitVec.signExtend 64 (if lowb = 0 then low else BitVec.ofNat 32 (low.toNat % lowb.toNat)))) ∧
    (a = BitVec.intMin 64 → b = -1 →
      exec (.div rt rs rd) s = .next (toX s rd 20 (BitVec.intMin 64)) ∧ exec (.rem rt rs rd) s = .next (toX s rd 20 0))

/-- A scalar result lands at the end of its cycle: x[r] takes its value (x0 stays 0), every other register keeps its own, the result is
in flight no longer, and a result not yet due lands nothing (R17, R80). -/
def Sys2Proof.Claims.ScalarResultLands : Prop :=
  ∀ (c : Core) (e : Pending) (r : Nat) (v : Word) (d : Nat), e ∈ c.pend → e.what = .x r v → e.due = some d → e.flags = 0 →
    (d ≤ c.now → (∀ q ∈ c.pend, q.isDue c.now = true → q = e) →
      c.landDue.regs.readX r = (if r = 0 then 0 else v) ∧ (∀ k, k ≠ r → c.landDue.regs.readX k = c.regs.readX k) ∧
      e ∉ c.landDue.pend ∧ c.landDue.dev = c.dev ∧ c.landDue.loc = c.loc ∧ c.landDue.mx = c.mx ∧
      c.landDue.regs.v = c.regs.v ∧ c.landDue.regs.p = c.regs.p) ∧
    ((∀ q ∈ c.pend, q.isDue c.now = false) → c.landDue.regs = c.regs ∧ c.landDue.pend = c.pend)

/-- Of two results that land together at one register, the younger bundle's prevails (R81). -/
def Sys2Proof.Claims.YoungerResultPrevails : Prop :=
  ∀ (c : Core) (e f : Pending) (r : Nat) (v w : Word), r ≠ 0 → c.pend = [e, f] → e.what = .x r v → f.what = .x r w →
    e.isDue c.now = true → f.isDue c.now = true → c.landDue.regs.readX r = w ∧ c.landDue.pend = []

/-- The scalar loads: from package memory, with the checks passed and no job in the way, the bytes read are extended as the
instruction says and land with the latency of their space, or interlocked from global memory (R83, R110, Table 3.5). -/
def Sys2Proof.Claims.ScalarLoadsReadTheirBytes : Prop :=
  ∀ (s : State) (i : BitVec 12) (rs rd : BitVec 5) (place : Nat),
    let va := (x s rs + i.signExtend 64).toNat
    let n := s.issue.core
    let ready : Nat → Prop := fun size => checkAccess s n va size true false 0 = .here place ∧ meetsJobs s n (rangeOf va size) false = false
    let got : Nat → State × List Byte := fun size => coreRead s n (whoIs s n) place size
    let result : Nat → Word → State := fun size v =>
      match placeLatency place with
      | some l => toX (got size).1 rd l v
      | none => inFlight (got size).1 (if rd = 0 then none else some (.x rd.toNat)) none 0 0 (.x rd.toNat v)
    let nat : Nat → Nat := fun size => ofBytes (got size).2
    (ready 1 → exec (.lb i rs rd) s = .next (result 1 ((BitVec.ofNat 8 (nat 1)).signExtend 64))) ∧
    (ready 2 → exec (.lh i rs rd) s = .next (result 2 ((BitVec.ofNat 16 (nat 2)).signExtend 64))) ∧
    (ready 4 → exec (.lw i rs rd) s = .next (result 4 ((BitVec.ofNat 32 (nat 4)).signExtend 64))) ∧
    (ready 8 → exec (.ld i rs rd) s = .next (result 8 (BitVec.ofNat 64 (nat 8)))) ∧
    (ready 1 → exec (.lbu i rs rd) s = .next (result 1 (BitVec.ofNat 64 (nat 1)))) ∧
    (ready 2 → exec (.lhu i rs rd) s = .next (result 2 (BitVec.ofNat 64 (nat 2)))) ∧
    (ready 4 → exec (.lwu i rs rd) s = .next (result 4 (BitVec.ofNat 64 (nat 4))))

namespace Sys2Proof.Claims
open Sys2Proof.Machine

/-- A waiting operation that moves a full/empty tag, and so may write or empty a word when it is served (R187). -/
def movesTag (o : SyncOp) : Bool :=
  match o.kind with
  | .ldf _ _ | .ste _ _ | .vldf | .vste => true
  | _ => false

/-- No core waits on a tag. -/
abbrev noTagWaits (s : State) : Prop := ∀ e ∈ s.cores, ∀ o ∈ e.2.sync, movesTag o = false

/-- No die holds a partial, so that no merge changes committed memory (R241). -/
abbrev noPartials (s : State) : Prop := s.hw.partials = []

/-- What a store keeps of every core: registers, spills, matrix unit, sequencing, code, results of fixed latency, and every device
register (R111). -/
def sameRegisters (s t : State) : Prop :=
  ∀ n, (getCore t n).regs = (getCore s n).regs ∧ (getCore t n).loc = (getCore s n).loc ∧ (getCore t n).mx = (getCore s n).mx ∧
    (getCore t n).ctl = (getCore s n).ctl ∧ (getCore t n).imem = (getCore s n).imem ∧ (getCore t n).status = (getCore s n).status ∧
    { (getCore t n).dev with wtoBit := false } = { (getCore s n).dev with wtoBit := false }

/-- A form of a scalar access: its instruction, address, size, and whether it stores. -/
structure ScalarForm where
  instr : Instr
  va : Nat
  size : Nat
  store : Bool

/-- Every form of a scalar access, with the address it reaches (R110, R113). -/
def scalarForms (s : State) (i : BitVec 12) (u : BitVec 7) (j rt rs rd : BitVec 5) (b : BitVec 6) : List ScalarForm :=
  let va := (x s rs + i.signExtend 64).toNat
  let vs := (x s rs + (u ++ j).signExtend 64).toNat
  let vb := (x s rs).toNat
  [⟨.lb i rs rd, va, 1, false⟩, ⟨.lbu i rs rd, va, 1, false⟩, ⟨.lh i rs rd, va, 2, false⟩, ⟨.lhu i rs rd, va, 2, false⟩,
   ⟨.lw i rs rd, va, 4, false⟩, ⟨.lwu i rs rd, va, 4, false⟩, ⟨.ld i rs rd, va, 8, false⟩, ⟨.sb u rt rs j, vs, 1, true⟩,
   ⟨.sh u rt rs j, vs, 2, true⟩, ⟨.sw u rt rs j, vs, 4, true⟩, ⟨.sd u rt rs j, vs, 8, true⟩, ⟨.brld b rs, vb, 32, false⟩,
   ⟨.brst b rs, vb, 32, true⟩]

end Sys2Proof.Claims

/-- The scalar stores and BRST: with the checks passed and no job in the way, the low bytes of x[rs2], or the 32 bytes of the record, go
to the place that the address reaches, through the memory order of the issuing core, and nothing else is done (R110, R113). -/
def Sys2Proof.Claims.ScalarStoresStoreTheirBytes : Prop :=
  ∀ (s : State) (i : BitVec 7) (j rt rs : BitVec 5) (b : BitVec 6) (place : Nat),
    let va := (x s rs + (i ++ j).signExtend 64).toNat
    let vb := (x s rs).toNat
    let n := s.issue.core
    let ready : Nat → Nat → Prop := fun a size =>
      checkAccess s n a size false true 0 = .here place ∧ meetsJobs s n (rangeOf a size) true = false
    (ready va 1 → exec (.sb i rt rs j) s = .next (storeHere s va place (bytesOf 1 (x s rt).toNat))) ∧
    (ready va 2 → exec (.sh i rt rs j) s = .next (storeHere s va place (bytesOf 2 (x s rt).toNat))) ∧
    (ready va 4 → exec (.sw i rt rs j) s = .next (storeHere s va place (bytesOf 4 (x s rt).toNat))) ∧
    (ready va 8 → exec (.sd i rt rs j) s = .next (storeHere s va place (bytesOf 8 (x s rt).toNat))) ∧
    (ready vb 32 → exec (.brst b rs) s = .next (storeHere s vb place (bytesOf 32 (spGet 0 (me s).regs.recs b.toNat).toNat)))

/-- A store to local memory (core scratchpad, cluster memory, chip scratchpad): the stored bytes hold the value, every other byte of
memory and every tag is as before, and no register of any core changes (R41, R77, R110). -/
def Sys2Proof.Claims.LocalStoreWritesOnlyItsBytes : Prop :=
  ∀ (s : State) (va place : Nat) (bytes : List Byte), 2 ^ 40 ≤ place → noTagWaits s →
    let t := storeHere s va place bytes
    (∀ q, rawByte t q = if place ≤ q ∧ q < place + bytes.length then bytes.getD (q - place) 0 else rawByte s q) ∧
    t.tags = s.tags ∧ sameRegisters s t

/-- A store under write entries of the launch's footprint goes to the launch's shadow: committed memory keeps every byte, and the
launch's shadow holds the stored bytes for the storing task (R111, R251, R254). -/
def Sys2Proof.Claims.LaunchStoreGoesToItsShadow : Prop :=
  ∀ (s : State) (va place : Nat) (bytes : List Byte) (l : Launch),
    let n := s.issue.core
    let w := whoIs s n
    place + bytes.length ≤ 2 ^ 40 → noTagWaits s → noPartials s → getLaunch s w.ctx w.launch = some l →
    (∀ k, k < bytes.length → byteKind s w (va + k) = 2) → (storeAt s (.core n) w va place bytes).2 = false →
    let t := storeHere s va place bytes
    (∀ q, rawByte t q = rawByte s q) ∧ t.tags = s.tags ∧ sameRegisters s t ∧
    ∃ l', getLaunch t w.ctx w.launch = some l' ∧
      ∀ k, k < bytes.length → ∃ b ∈ l'.shadow, b.place = place + k ∧ b.slot = w.slot ∧ b.run = w.run ∧ b.byte = bytes.getD k 0

/-- The checks of a scalar access in their order: alignment, the address ranges, the mapping, the permissions, the footprint of a store,
and uncorrectable errors of a read. In global memory the page may be one of the package, of another package or of host memory; an
address whose translation the core lacks waits for its walk, a line of a prepared version waits, and so does a remote access that meets an
earlier one of its core. A local access needs its bytes inside the memory, and in the chip scratchpad inside the context's allocation
(R39, R110, R239, R263, R268, R328). -/
def Sys2Proof.Claims.ScalarChecksInOrder : Prop :=
  ∀ (s : State) (n va size p tgt node addr off : Nat) (sp : Space) (read write rd wr : Bool) (c : Cause),
    let w := whoIs s n
    let check := checkAccess s n va size read write 0
    let foot := if write then footCause s w va 0 0 size else .none
    let denied := (write = true ∧ wr = false) ∨ rd = false
    let global := va % size = 0 ∧ va < 2 ^ 47
    let here := global ∧ xlatCore s n va = .pkg p rd wr
    let there := global ∧ xlatCore s n va = .remote tgt node addr rd wr
    let rehearsed := write = true ∧ read = false ∧ rehearsing s w = true
    let damaged := read = true ∧ (isDamaged s p size = true ∨ spillDamaged s w p size = true)
    let local' := va % size = 0 ∧ classify va = some (sp, off) ∧ sp ≠ .global
    let outside := spaceSize sp < off + size ∨ (sp = .chip ∧ chipAllowed (ctxOfCore s n) off size = false)
    (va % size ≠ 0 → check = .fails .align) ∧
    (va % size = 0 → classify va = none → check = .fails .protect) ∧
    (global → xlatCore s n va = .miss → check = .untranslated) ∧
    (global → xlatCore s n va = .bad c → check = .fails c) ∧
    (here → denied → check = .fails .protect) ∧
    (here → ¬denied → foot ≠ .none → check = .fails foot) ∧
    (here → ¬denied → foot = .none → heldByPrepared s w p size = true → check = .prepared p) ∧
    (here → ¬denied → foot = .none → heldByPrepared s w p size = false → damaged → check = .fails .eccUncorr) ∧
    (here → ¬denied → foot = .none → heldByPrepared s w p size = false → ¬damaged → check = .here p) ∧
    (there → denied ∨ rehearsed → check = .fails .protect) ∧
    (there → ¬denied → ¬rehearsed → foot ≠ .none → check = .fails foot) ∧
    (there → ¬denied → ¬rehearsed → foot = .none →
      check = if awayBusy s n (homeName (remoteNode tgt node) addr) size then .ordered else .away tgt node addr) ∧
    (local' → outside → check = .fails .protect) ∧
    (local' → ¬outside → check =
      if read = true ∧ isDamaged s (localPlace n sp off) size = true then .fails .eccUncorr else .here (localPlace n sp off))

/-- A failing check of a scalar load or store, of BRLD or of BRST, where no job in flight is in its way, stops the slot with that cause and
the address, and the slot has no other effect; where a job's footprint meets the access, the slot waits before issue, whatever its checks
would say (R76, R110, R111, R113). -/
def Sys2Proof.Claims.ScalarAccessFailsWithItsCause : Prop :=
  ∀ (s : State) (i : BitVec 12) (u : BitVec 7) (j rt rs rd : BitVec 5) (b : BitVec 6) (c : Cause),
    let n := s.issue.core
    let va := (x s rs + i.signExtend 64).toNat
    let vs := (x s rs + (u ++ j).signExtend 64).toNat
    let vb := (x s rs).toNat
    let fails : Nat → Nat → Bool → Prop := fun a size write =>
      meetsJobs s n (rangeOf a size) write = false ∧ checkAccess s n a size (!write) write 0 = .fails c
    (fails va 1 false → exec (.lb i rs rd) s = .next (slotFail s c va) ∧ exec (.lbu i rs rd) s = .next (slotFail s c va)) ∧
    (fails va 2 false → exec (.lh i rs rd) s = .next (slotFail s c va) ∧ exec (.lhu i rs rd) s = .next (slotFail s c va)) ∧
    (fails va 4 false → exec (.lw i rs rd) s = .next (slotFail s c va) ∧ exec (.lwu i rs rd) s = .next (slotFail s c va)) ∧
    (fails va 8 false → exec (.ld i rs rd) s = .next (slotFail s c va)) ∧
    (fails vs 1 true → exec (.sb u rt rs j) s = .next (slotFail s c vs)) ∧
    (fails vs 2 true → exec (.sh u rt rs j) s = .next (slotFail s c vs)) ∧
    (fails vs 4 true → exec (.sw u rt rs j) s = .next (slotFail s c vs)) ∧
    (fails vs 8 true → exec (.sd u rt rs j) s = .next (slotFail s c vs)) ∧
    (fails vb 32 false → exec (.brld b rs) s = .next (slotFail s c vb)) ∧
    (fails vb 32 true → exec (.brst b rs) s = .next (slotFail s c vb)) ∧
    (∀ q ∈ scalarForms s i u j rt rs rd b, meetsJobs s n (rangeOf q.va q.size) q.store = true → exec q.instr s = .next (slotHold s))

/-- A scalar load or store, BRLD or BRST whose address is not translated in its core is held and asks for the walk; one that meets a line of
a prepared version is held on it, and a remote one that meets an earlier access of its core is held (R75, R239, R263, R328). -/
def Sys2Proof.Claims.ScalarAccessesAreHeld : Prop :=
  ∀ (s : State) (i : BitVec 12) (u : BitVec 7) (j rt rs rd : BitVec 5) (b : BitVec 6) (p : Nat),
    let n := s.issue.core
    ∀ q ∈ scalarForms s i u j rt rs rd b, meetsJobs s n (rangeOf q.va q.size) q.store = false →
      let check := checkAccess s n q.va q.size (!q.store) q.store 0
      (check = .untranslated → exec q.instr s = .next (holdForWalk s q.va)) ∧
      (check = .prepared p → exec q.instr s = .next (holdForPrepared s p)) ∧
      (check = .ordered → exec q.instr s = .next (slotHold s))

/-- At a page of another package or of the host a scalar load puts its result in flight and sends a load request to the page's home, a
store sends its bytes there in runs of one entry kind, and nothing else is done (R239, R251). -/
def Sys2Proof.Claims.ScalarAccessesAtRemotePages : Prop :=
  ∀ (s : State) (i : BitVec 12) (u : BitVec 7) (j rt rs rd : BitVec 5) (b : BitVec 6) (tgt node addr : Nat),
    let n := s.issue.core
    let va := (x s rs + i.signExtend 64).toNat
    let vs := (x s rs + (u ++ j).signExtend 64).toNat
    let vb := (x s rs).toNat
    let away : Nat → Nat → Bool → Prop := fun a size write =>
      meetsJobs s n (rangeOf a size) write = false ∧ checkAccess s n a size (!write) write 0 = .away tgt node addr
    let asks : Nat → Bool → State := fun size sg =>
      requestLoad (inFlight s (if rd = 0 then none else some (.x rd.toNat)) none 1 0 (.x rd.toNat 0)) tgt node addr va size (me s).nextId 0 sg none
    let sends : Nat → List Byte → State := fun a bytes =>
      (cutKinds (fun k => byteKind s (whoIs s n) (a + k)) 0 bytes).foldl (fun t c =>
        sendStore t n (whoIs s n) (remoteNode tgt node) (addr + c.1) (a + c.1) c.2.1 none s.issue.slot (me s).ctl.pc c.2.2) s
    (away va 1 false → exec (.lb i rs rd) s = .next (asks 1 true) ∧ exec (.lbu i rs rd) s = .next (asks 1 false)) ∧
    (away va 2 false → exec (.lh i rs rd) s = .next (asks 2 true) ∧ exec (.lhu i rs rd) s = .next (asks 2 false)) ∧
    (away va 4 false → exec (.lw i rs rd) s = .next (asks 4 true) ∧ exec (.lwu i rs rd) s = .next (asks 4 false)) ∧
    (away va 8 false → exec (.ld i rs rd) s = .next (asks 8 true)) ∧
    (away vs 1 true → exec (.sb u rt rs j) s = .next (sends vs (bytesOf 1 (x s rt).toNat))) ∧
    (away vs 2 true → exec (.sh u rt rs j) s = .next (sends vs (bytesOf 2 (x s rt).toNat))) ∧
    (away vs 4 true → exec (.sw u rt rs j) s = .next (sends vs (bytesOf 4 (x s rt).toNat))) ∧
    (away vs 8 true → exec (.sd u rt rs j) s = .next (sends vs (bytesOf 8 (x s rt).toNat))) ∧
    (away vb 32 false → exec (.brld b rs) s = .next (requestLoad (inFlight s (some (.record b.toNat)) none 1 0 (.record b.toNat 0 vb)) tgt node
      addr vb 32 (me s).nextId 0 false none)) ∧
    (away vb 32 true → exec (.brst b rs) s = .next (sends vb (bytesOf 32 (spGet 0 (me s).regs.recs b.toNat).toNat)))

/-- The device scalar instructions: shape registers, buffer-record loads, device registers, bit counts and scalar spills each issue with
the result and latency of their entry (R112 to R116). -/
def Sys2Proof.Claims.DeviceScalarResults : Prop :=
  ∀ (s : State) (e r f : BitVec 2) (i : BitVec 7) (h j rs rd : BitVec 5) (l : BitVec 3) (b : BitVec 6) (place : Nat),
    let a := x s rs
    let n := s.issue.core
    let va := a.toNat
    let index := 32 * i.toNat + j.toNat
    let slot := 8 * h.toNat + l.toNat
    let got := coreRead s n (whoIs s n) place 32
    let field := Dest.shape e.toNat r.toNat f.toNat
    exec (.shw e r f rs) s =
      .next (inFlight s (some field) (lands s 1) 0 0 (.shape e.toNat r.toNat f.toNat (a.extractLsb' 0 32))) ∧
    exec (.shr e r f rd) s =
      .next (toX s rd 2 (BitVec.ofNat 64 (spGet 0 (me s).regs.shape (16 * e.toNat + 4 * r.toNat + f.toNat)).toNat)) ∧
    (checkAccess s n va 32 true false 0 = .here place → meetsJobs s n (rangeOf va 32) false = false →
      exec (.brld b rs) s =
        .next (inFlight got.1 (some (.record b.toNat)) none 0 0 (.record b.toNat (BitVec.ofNat 256 (ofBytes got.2)) va))) ∧
    exec (.getd i j rd) s = .next (toX s rd 2 (deviceRead s n index)) ∧
    exec (.setd i j rs) s = .next (inFlight s (some (.dev index)) (lands s 1) 0 0 (.dev index a)) ∧
    (∃ k, exec (.clz rs rd) s = .next (toX s rd 1 (BitVec.ofNat 64 k)) ∧ k ≤ 64 ∧ (∀ q < k, a.getMsbD q = false) ∧
      (k < 64 → a.getMsbD k = true)) ∧
    (∃ k, exec (.ctz rs rd) s = .next (toX s rd 1 (BitVec.ofNat 64 k)) ∧ k ≤ 64 ∧ (∀ q < k, a.getLsbD q = false) ∧
      (k < 64 → a.getLsbD k = true)) ∧
    exec (.popc rs rd) s = .next (toX s rd 1 (BitVec.ofNat 64 ((List.range 64).filter (fun q => a.getLsbD q)).length)) ∧
    exec (.spillx h l rs) s = .next (inFlight s (some (.spillX slot)) (lands s 1) 0 0 (.spillX slot a)) ∧
    exec (.fillx h l rd) s = .next (toX s rd 1 (spGet 0 (me s).loc.spillX slot))

/-- What the device registers read as (Tables 1.4 to 1.6), and what a write that lands leaves in a writable one: reserved bits read as 0,
a 1 written to a flag clears it, and the rank-local count of cycles reads as it stands (R28, R33 to R36). -/
def Sys2Proof.Claims.DeviceRegistersReadAndLand : Prop :=
  ∀ (s : State) (n : Nat) (c : Core) (v : Word) (t : Task),
    let k := getCore s n
    deviceRead s n 0x001 = k.dev.ctl ∧ deviceRead s n 0x002 = k.dev.dcyc ∧ deviceRead s n 0x007 = k.dev.task ∧
    deviceRead s n 0x008 = k.dev.est ∧ deviceRead s n 0x009 = k.dev.wto ∧ (deviceRead s n 0x00A).toNat = k.dev.flags.toNat ∧
    deviceRead s n 0x012 = k.dev.rngc ∧ deviceRead s n 0x013 = k.dev.rngh ∧ deviceRead s n 0x020 = k.dev.tvec ∧
    deviceRead s n 0x021 = k.dev.tcause ∧ deviceRead s n 0x022 = k.dev.tmask ∧ deviceRead s n 0x023 = k.dev.tbundle ∧
    deviceRead s n 0x024 = k.dev.taddr ∧ deviceRead s n 0x025 = k.dev.tsave ∧
    deviceRead s n 0x026 = BitVec.ofNat 64 k.lwb.length ∧ deviceRead s n 0x040 = BitVec.ofNat 64 n ∧
    bitAt (deviceRead s n 0x000).toNat 0 = k.dev.wtoBit ∧ bitAt (deviceRead s n 0x000).toNat 1 = k.dev.inh ∧
    (k.regs.loop.length ≤ 4 → field (deviceRead s n 0x000).toNat 2 3 = k.regs.loop.length ∧
      bitAt (deviceRead s n 0x000).toNat 8 = (k.task.map (fun t => t.exact)).getD false) ∧
    deviceRead s n 0x003 = BitVec.ofNat 64 (ctxOfCore s n).rank ∧ deviceRead s n 0x004 = BitVec.ofNat 64 (ctxOfCore s n).nranks ∧
    (k.task = some t → deviceRead s n 0x006 = BitVec.ofNat 64 t.launch) ∧
    deviceRead s n 0x010 = BitVec.ofNat 64 ((ctxOfCore s n).key0 % 2 ^ 32) ∧
    deviceRead s n 0x011 = BitVec.ofNat 64 ((ctxOfCore s n).key1 % 2 ^ 32) ∧
    (∀ q, q < 16 → (k.regs.ring q).filled < 2 ^ 16 → (k.regs.ring q).free < 2 ^ 16 → (k.regs.ring q).cap < 2 ^ 16 →
      (deviceRead s n (0x030 + q)).toNat = (k.regs.ring q).filled + 2 ^ 16 * (k.regs.ring q).free + 2 ^ 32 * (k.regs.ring q).cap) ∧
    (c.applyPayload (.dev 0x001 v)).dev = { c.dev with ctl := v &&& 1 } ∧
    (c.applyPayload (.dev 0x008 v)).dev = { c.dev with est := v } ∧
    (c.applyPayload (.dev 0x009 v)).dev = { c.dev with wto := v } ∧
    (∀ q, q < 4 → (c.applyPayload (.dev 0x00A v)).dev.flags.getLsbD q = (c.dev.flags.getLsbD q && !v.getLsbD q)) ∧
    (c.applyPayload (.dev 0x012 v)).dev = { c.dev with rngc := v } ∧
    (c.applyPayload (.dev 0x020 v)).dev = { c.dev with tvec := BitVec.ofNat 64 (v.toNat % 2 ^ 13) } ∧
    (c.applyPayload (.dev 0x025 v)).dev = { c.dev with tsave := v }

namespace Sys2Proof.Claims
open Sys2Proof.Machine

/-- The state in which the issuing core's next bundle, the cycle from which it is eligible and its loop stack are set, and nothing else has
changed. -/
def goesTo (s : State) (target eligible : Nat) (stack : List LoopEntry) : State :=
  meIs s { me s with regs := { (me s).regs with loop := stack }, ctl := { (me s).ctl with pc := target, eligible := eligible } }

/-- What PopOutside leaves of the loop stack (R93). -/
def insideLoops (s : State) (target : Nat) : List LoopEntry :=
  (me s).regs.loop.dropWhile (fun e => !(decide (e.first ≤ target) && decide (target ≤ e.last)))

/-- The state in which the issuing core has had an entry pushed on its loop stack. -/
def pushed (s : State) (e : LoopEntry) : State := meIs s { me s with regs := { (me s).regs with loop := e :: (me s).regs.loop } }

/-- The trap registers after a trap (R76, R103). -/
def trapRegisters (d : Dev) (cause : Cause) (mask bundle addr : Nat) : Dev :=
  { d with tcause := BitVec.ofNat 64 cause.code, tmask := BitVec.ofNat 64 mask, tbundle := BitVec.ofNat 64 (bundle % 4096)
           taddr := BitVec.ofNat 64 addr }

end Sys2Proof.Claims

/-! ## The CTL slot -/

/-- NEXT, the branches and the jumps: a target inside the scratchpad is taken with one idle cycle, BR, BRP and JMP leave the loops whose
bodies do not hold it, CALL writes x1 with latency 1, and a branch that is not taken falls through, all after the exchange that the
swap bits ask for (R79, R93 to R97, R105). -/
def Sys2Proof.Claims.BranchesChooseTheNextBundle : Prop :=
  ∀ (s : State) (st : BitVec 4) (w : BitVec 3) (cond : BitVec 3) (xs : BitVec 5) (k : BitVec 1) (p : BitVec 3) (m : BitVec 2)
    (off13 : BitVec 13) (off15 : BitVec 15) (off21 : BitVec 21),
    let s1 := swapShapes s w
    let pc : Int := (me s).ctl.pc
    let a := (x s xs).toInt
    let t13 := pc + off13.toInt
    let t15 := pc + off15.toInt
    let t21 := pc + off21.toInt
    let pred := (me s).regs.readP (k == 1) p.toNat
    let start := (me s).now + 2 + st.toNat
    let inside : Int → Prop := fun t => 0 ≤ t ∧ t ≤ 4095
    let taken := (cond = 0 ∧ a = 0) ∨ (cond = 1 ∧ a ≠ 0) ∨ (cond = 2 ∧ a < 0) ∨ (cond = 3 ∧ 0 ≤ a) ∨ (cond = 4 ∧ 0 < a) ∨ (cond = 5 ∧ a ≤ 0)
    let takenP := (m = 0 ∧ pred ≠ 0) ∨ (m = 1 ∧ pred = BitVec.allOnes 256) ∨ (m = 2 ∧ pred = 0) ∨ (m = 3 ∧ pred ≠ BitVec.allOnes 256)
    exec (.next st w) s = .next (fallThrough s1 st.toNat 0) ∧
    (inside t13 → cond.toNat ≤ 5 → taken → exec (.br st w cond xs off13) s = .next (goesTo s1 t13.toNat start (insideLoops s t13.toNat))) ∧
    (inside t13 → cond.toNat ≤ 5 → ¬taken → exec (.br st w cond xs off13) s = .next (fallThrough s1 st.toNat 0)) ∧
    (inside t15 → takenP → exec (.brp st w k p m off15) s = .next (goesTo s1 t15.toNat start (insideLoops s t15.toNat))) ∧
    (inside t15 → ¬takenP → exec (.brp st w k p m off15) s = .next (fallThrough s1 st.toNat 0)) ∧
    (inside t21 → exec (.jmp st w off21) s = .next (goesTo s1 t21.toNat start (insideLoops s t21.toNat))) ∧
    (inside t21 → exec (.call st w off21) s =
      .next (goesTo (toX s1 1 1 (BitVec.ofNat 64 ((me s).ctl.pc + 1))) t21.toNat start (me s).regs.loop)) ∧
    ((x s xs).toNat < 4096 → exec (.jmpx st w xs) s = .next (goesTo s1 (x s xs).toNat start (me s).regs.loop)) ∧
    (4096 ≤ (x s xs).toNat → exec (.jmpx st w xs) s = .next (slotFail s .align 0))

/-- The end tests of NextBundle (R93): without a loop that ends here, or in a handler, the next bundle follows after the stall count and
the cycles of WAITC; a loop with a count above 1 goes back and counts; one with its last count is popped, and the test goes on. -/
def Sys2Proof.Claims.LoopEndsAreTested : Prop :=
  ∀ (s : State) (stall wait : Nat) (e : LoopEntry) (es : List LoopEntry),
    let c := me s
    ((c.regs.loop = [] ∨ c.dev.inh = true ∨ (c.regs.loop = e :: es ∧ e.last ≠ c.ctl.pc)) →
      fallThrough s stall wait = goesTo s (c.ctl.pc + 1) (c.now + 1 + stall + wait) c.regs.loop) ∧
    (c.dev.inh = false → c.regs.loop = e :: es → e.last = c.ctl.pc → 1 < e.count →
      fallThrough s stall wait = goesTo s e.first (c.now + 1 + stall) ({ e with count := e.count - 1 } :: es)) ∧
    (c.dev.inh = false → c.regs.loop = e :: es → e.last = c.ctl.pc → e.count ≤ 1 →
      ∃ target eligible stack, fallThrough s stall wait = goesTo s target eligible stack ∧
        let popped := meIs s { c with regs := { c.regs with loop := es } }
        fallThrough popped stall wait = goesTo popped target eligible stack)

/-- LOOP and LOOPI push their body, a LOOP count of 0 skips it; WAITC holds the next bundle; IWAIT passes a region that is valid with the
running kernel's tag and is held at any other; DONE and HALT end the task, with an empty loop stack (R98 to R101, R106, R107). -/
def Sys2Proof.Claims.LoopsWaitsAndEnds : Prop :=
  ∀ (s : State) (st : BitVec 4) (w : BitVec 3) (xs : BitVec 5) (len : BitVec 12) (n : BitVec 12) (l : BitVec 9) (cyc : BitVec 21)
    (g : BitVec 12) (t : Task),
    let s1 := swapShapes s w
    let c := me s
    let pc := c.ctl.pc
    let room := c.regs.loop.length < 4 ∧ c.dev.inh = false ∧ c.regs.loop.head?.map (fun e => e.last) ≠ some pc
    let ended : Bool → State := fun halt => meIs s1 { me s1 with
      regs := { (me s1).regs with loop := [] }
      task := c.task.map (fun t => { t with phase := .ending halt })
      ctl := { c.ctl with pc := pc + 1, eligible := c.now + 1 } }
    (pc + len.toNat ≤ 4095 → room → (x s xs).toNat ≠ 0 →
      exec (.loop st w xs len) s = .next (fallThrough (pushed s1 ⟨pc + 1, pc + len.toNat, (x s xs).toNat⟩) st.toNat 0)) ∧
    (pc + len.toNat ≤ 4095 → room → (x s xs).toNat = 0 →
      exec (.loop st w xs len) s = .next (goesTo s1 (pc + len.toNat + 1) (c.now + 2 + st.toNat) c.regs.loop)) ∧
    (pc + l.toNat ≤ 4095 → room →
      exec (.loopi st w n l) s = .next (fallThrough (pushed s1 ⟨pc + 1, pc + l.toNat, n.toNat⟩) st.toNat 0)) ∧
    (let u := fallThrough s1 st.toNat cyc.toNat
     exec (.waitc st w cyc) s = .next (meIs u { me u with ctl := { (me u).ctl with wait := some (me u).ctl.eligible } })) ∧
    (c.task = some t → spFind c.imem.tags g.toNat = some t.codeTag →
      exec (.iwait st w g) s = .next (fallThrough s1 st.toNat 0)) ∧
    (c.task = some t → spFind c.imem.tags g.toNat ≠ some t.codeTag → exec (.iwait st w g) s = .next (slotHold s)) ∧
    (c.dev.inh = false → c.task = some t → exec (.done st w) s = .next (ended (t.mode == 2))) ∧
    (c.dev.inh = false → c.task = some t → t.mode = 2 → exec (.halt st w) s = .next (ended true))

/-- Which CTL words are ILLEGAL where the core stands: a target outside the scratchpad; a loop that leaves it, finds the stack full, stands at
the end of the top loop or in a handler; a software trap in the last bundle; ERET outside a handler; DONE and HALT in one; HALT outside
a persistent launch. Such a word fails its check and has no effect (R94, R98, R102, R104, R106, R107). -/
def Sys2Proof.Claims.IllegalControlWordsFail : Prop :=
  ∀ (s : State) (st : BitVec 4) (w : BitVec 3) (cond : BitVec 3) (xs : BitVec 5) (k : BitVec 1) (p : BitVec 3) (m : BitVec 2)
    (off13 : BitVec 13) (off15 : BitVec 15) (off21 : BitVec 21) (len n : BitVec 12) (l : BitVec 9) (code : BitVec 16)
    (t : Task),
    let c := me s
    let pc := c.ctl.pc
    let outside : Int → Prop := fun q => q < 0 ∨ 4095 < q
    let blocked := 4 ≤ c.regs.loop.length ∨ c.dev.inh = true ∨ c.regs.loop.head?.map (fun e => e.last) = some pc
    let fails : Instr → Prop := fun i => exec i s = .next (slotFail s .illegal 0)
    (outside (pc + off13.toInt) → fails (.br st w cond xs off13)) ∧
    (outside (pc + off15.toInt) → fails (.brp st w k p m off15)) ∧
    (outside (pc + off21.toInt) → fails (.jmp st w off21) ∧ fails (.call st w off21)) ∧
    (4095 < pc + len.toNat ∨ blocked → fails (.loop st w xs len)) ∧
    (4095 < pc + l.toNat ∨ blocked → fails (.loopi st w n l)) ∧
    (pc = 4095 → fails (.trap st w code) ∧ fails (.brk st w code)) ∧
    (c.dev.inh = false → fails (.eret st w)) ∧
    (c.dev.inh = true → fails (.done st w) ∧ fails (.halt st w)) ∧
    (c.task = some t → t.mode ≠ 2 → fails (.halt st w))

/-- TRAP and BRK, and the return from their handler: with DTVEC.EN 1 and INH 0 the trap registers take the cause, mask 1, the bundle and
the code, INH becomes 1, the bundle that would have followed is the resume point, and the handler's bundle is next, two cycles later;
ERET clears INH and goes to the resume point with one idle cycle; otherwise the stage manager takes the trap (R102 to R104). -/
def Sys2Proof.Claims.SoftwareTrapEntersItsHandler : Prop :=
  ∀ (s : State) (st : BitVec 4) (w : BitVec 3) (code : BitVec 16),
    let c := me s
    let s1 := swapShapes s w
    let t := fallThrough s1 st.toNat 0
    let delivered : Cause → State := fun cause => meIs t { me t with
      dev := { trapRegisters c.dev cause 1 c.ctl.pc code.toNat with inh := true }
      ctl := { (me t).ctl with pc := c.dev.tvec.toNat % 4096, eligible := c.now + 2, resume := (me t).ctl.pc } }
    (c.ctl.pc ≠ 4095 → c.dev.tvec.getLsbD 12 = true → c.dev.inh = false →
      exec (.trap st w code) s = .next (delivered .swtrap) ∧ exec (.brk st w code) s = .next (delivered .brk)) ∧
    (c.ctl.pc ≠ 4095 → c.dev.tvec.getLsbD 12 = false ∨ c.dev.inh = true →
      exec (.trap st w code) s = .next (stageTrap t s.issue.core .swtrap 1 c.ctl.pc code.toNat) ∧
      exec (.brk st w code) s = .next (stageTrap t s.issue.core .brk 1 c.ctl.pc code.toNat)) ∧
    (c.dev.inh = true → exec (.eret st w) s = .next (meIs s1 { me s1 with
      dev := { c.dev with inh := false }
      ctl := { c.ctl with pc := c.ctl.resume, eligible := c.now + 2 + st.toNat } }))

/-- Every other cause, and any trap in a handler, goes to the stage manager: the trap registers take the cause, mask, bundle and address,
the core stops, a fault event is posted, and, for a cause that no page or memory repair answers, the launch aborts with it (R103, R312,
Table 14.1). -/
def Sys2Proof.Claims.StageManagerTakesTheTrap : Prop :=
  ∀ (s : State) (n mask bundle addr resume k : Nat) (cause : Cause) (t : Task) (ctx : Ctx),
    let c := getCore s n
    let s1 := setCore s n { c with status := .trapped, dev := trapRegisters c.dev cause mask bundle addr }
    c.ctx = some k → c.task = some t → getCtx s k = some ctx →
    (cause ≠ .scoreboard ∧ cause ≠ .brk ∧ cause ≠ .swtrap) ∨ c.dev.inh = true ∨ c.dev.tvec.getLsbD 12 = false →
    takeTrap s n cause mask bundle addr resume = stageTrap s n cause mask bundle addr ∧
    (cause ≠ .translate → cause ≠ .eccUncorr → (ctx.debugger = false ∨ (cause ≠ .scoreboard ∧ cause ≠ .brk ∧ cause ≠ .swtrap)) →
      stageTrap s n cause mask bundle addr =
        abortLaunch (post s1 (.fault k t.launch c.logical cause.code mask bundle addr)) k t.launch cause)

/-- The exchange that the swap bits ask for: for each engine whose bit is set the active and shadow copies of its shape registers change
places, those of the others stay, and nothing else changes but that a word with an uncorrectable error goes with its copy (R24, R338). -/
def Sys2Proof.Claims.SwapBitsExchangeShapeCopies : Prop :=
  ∀ (s : State) (w : BitVec 3) (r f : Nat), s.issue.swapped = false → r < 4 → f < 4 →
    let t := swapShapes s w
    let g := (me s).regs
    let h := (me t).regs
    let active : Sparse (BitVec 32) → Nat → BitVec 32 := fun m e => spGet 0 m (16 * e + 4 * r + f)
    (∀ e, e < 3 → w.getLsbD (2 - e) = true → active h.shape e = active g.shadow e ∧ active h.shadow e = active g.shape e) ∧
    (∀ e, e < 3 → w.getLsbD (2 - e) = false → active h.shape e = active g.shape e ∧ active h.shadow e = active g.shadow e) ∧
    t = meIs s { me s with
      regs := { g with shape := h.shape, shadow := h.shadow }, bad := (me s).bad.map (CoreWord.exchanged (fun e => w.getLsbD (2 - e))) }

namespace Sys2Proof.Claims
open Sys2Proof.Machine

/-- The access passes its checks, reaches a byte of the package, and meets no footprint of a job of its core (R111, R183). -/
abbrev reaches (s : State) (va size : Nat) (read write : Bool) (cls place : Nat) : Prop :=
  checkAccess s s.issue.core va size read write cls = .here place ∧ meetsJobs s s.issue.core (rangeOf va size) write = false

/-- An interlocked result that is known at once (R81). -/
def answers (s : State) (rd : BitVec 5) (v : Word) : State :=
  inFlight s (if rd = 0 then none else some (.x rd.toNat)) none 0 0 (.x rd.toNat v)

/-- The operation that a waiting instruction with a destination arms (R184). -/
def waitOp (s : State) (rd : BitVec 5) (kind : SyncKind) (place : Nat) : SyncOp :=
  { id := (me s).nextId, kind := kind, place := place, rd := some rd.toNat, armed := 0 }

/-- The state in which a waiting instruction with a destination has issued: its result is in flight with one answer to come, and its
wait is armed at its home, where it is served at once if its condition holds (R184, R187). -/
def waitsAt (s : State) (rd : BitVec 5) (kind : SyncKind) (place : Nat) : State :=
  armSync (inFlight s (if rd = 0 then none else some (.x rd.toNat)) none 1 0 (.x rd.toNat 0)) s.issue.core (waitOp s rd kind place)

/-- The same for an instruction without a destination. -/
def waitsPlain (s : State) (kind : SyncKind) (place : Nat) : State :=
  armSync (meIs s { me s with nextId := (me s).nextId + 1 }) s.issue.core
    { id := (me s).nextId, kind := kind, place := place, rd := none, armed := 0 }

/-- The size of a .W or .D form in bytes. -/
def bytesOfForm (z : BitVec 1) : Nat := if z = 1 then 8 else 4

/-- The signed value of the low 8 × size bits. -/
def signed (size v : Nat) : Int := (BitVec.ofNat (8 * size) v).toInt

/-- Tables 8.4 and 8.5: the new value that an operation leaves in a word of a size, from its old value and the operand. -/
def addOf (size m v : Nat) : Nat := (m + v) % 2 ^ (8 * size)
/-- Signed minimum. -/
def minOf (size m v : Nat) : Nat := if signed size m ≤ signed size v then m else v
/-- Signed maximum. -/
def maxOf (size m v : Nat) : Nat := if signed size m ≤ signed size v then v else m

end Sys2Proof.Claims

/-! ## Synchronisation, atomic and task instructions -/

/-- The tagged instructions at a word of local memory: LDF, LDFE and STE arm their wait at its home; LDT answers with the tag; STF stores
and fills; SETE and SETF change the tag alone; and whoever waits there is served (R187, R188). -/
def Sys2Proof.Claims.TaggedAccessesActAtTheirHome : Prop :=
  ∀ (s : State) (xs xt rd : BitVec 5) (p : Nat),
    let va := (x s xs).toNat
    let v := (x s xt).toNat
    let n := s.issue.core
    let full : State → Nat → Nat → Bool → State := fun t q size f => setTag (if size = 8 then setTag t (q + 4) f else t) q f
    2 ^ 47 ≤ va →
    (reaches s va 4 true false 0 p → exec (.ldfW xs rd) s = .next (waitsAt s rd (.ldf 4 false) p)) ∧
    (reaches s va 8 true false 0 p → exec (.ldfD xs rd) s = .next (waitsAt s rd (.ldf 8 false) p)) ∧
    (reaches s va 4 true true 0 p → exec (.ldfeW xs rd) s = .next (waitsAt s rd (.ldf 4 true) p)) ∧
    (reaches s va 8 true true 0 p → exec (.ldfeD xs rd) s = .next (waitsAt s rd (.ldf 8 true) p)) ∧
    (reaches s va 4 true false 0 p →
      exec (.ldt xs rd) s = .next (answers (loads s (.core n) p 4) rd (if tagFull s p then 1 else 0))) ∧
    (reaches s va 4 false true 0 p → exec (.steW xt xs) s = .next (waitsPlain s (.ste 4 (v % 2 ^ 32)) p)) ∧
    (reaches s va 8 false true 0 p → exec (.steD xt xs) s = .next (waitsPlain s (.ste 8 v) p)) ∧
    (reaches s va 4 false true 0 p →
      exec (.stfW xt xs) s = .next (settle (full (putBytes (stores s (.core n) p 4) p (bytesOf 4 v)) p 4 true))) ∧
    (reaches s va 8 false true 0 p →
      exec (.stfD xt xs) s = .next (settle (full (putBytes (stores s (.core n) p 8) p (bytesOf 8 v)) p 8 true))) ∧
    (reaches s va 4 false true 0 p → exec (.sete xs) s = .next (settle (setTag (stores s (.core n) p 4) p false))) ∧
    (reaches s va 4 false true 0 p → exec (.setf xs) s = .next (settle (setTag (stores s (.core n) p 4) p true)))

/-- A tagged access to global memory fails with TAG, and one that is not aligned with ALIGN, where no job in flight is in its way
(R111, R183). -/
def Sys2Proof.Claims.TaggedAccessToGlobalMemoryFails : Prop :=
  ∀ (s : State) (xs xt rd : BitVec 5),
    let va := (x s xs).toNat
    let free : Nat → Prop := fun size => meetsJobs s s.issue.core (rangeOf va size) true = false
    (va < 2 ^ 47 → va % 4 = 0 → free 4 →
      exec (.ldfW xs rd) s = .next (slotFail s .tag va) ∧ exec (.ldfeW xs rd) s = .next (slotFail s .tag va) ∧
      exec (.ldt xs rd) s = .next (slotFail s .tag va) ∧ exec (.steW xt xs) s = .next (slotFail s .tag va) ∧
      exec (.stfW xt xs) s = .next (slotFail s .tag va) ∧ exec (.sete xs) s = .next (slotFail s .tag va) ∧
      exec (.setf xs) s = .next (slotFail s .tag va)) ∧
    (va < 2 ^ 47 → va % 8 = 0 → free 8 →
      exec (.ldfD xs rd) s = .next (slotFail s .tag va) ∧ exec (.ldfeD xs rd) s = .next (slotFail s .tag va) ∧
      exec (.steD xt xs) s = .next (slotFail s .tag va) ∧ exec (.stfD xt xs) s = .next (slotFail s .tag va)) ∧
    (va % 4 ≠ 0 → free 4 →
      exec (.ldfW xs rd) s = .next (slotFail s .align va) ∧ exec (.ldfeW xs rd) s = .next (slotFail s .align va) ∧
      exec (.ldt xs rd) s = .next (slotFail s .align va) ∧ exec (.steW xt xs) s = .next (slotFail s .align va) ∧
      exec (.stfW xt xs) s = .next (slotFail s .align va) ∧ exec (.sete xs) s = .next (slotFail s .align va) ∧
      exec (.setf xs) s = .next (slotFail s .align va)) ∧
    (va % 8 ≠ 0 → free 8 →
      exec (.ldfD xs rd) s = .next (slotFail s .align va) ∧ exec (.ldfeD xs rd) s = .next (slotFail s .align va) ∧
      exec (.steD xt xs) s = .next (slotFail s .align va) ∧ exec (.stfD xt xs) s = .next (slotFail s .align va))

/-- With nothing else waiting in the package, a tagged wait armed at a word whose tag it wants is served at once: LDF gives the word
sign-extended and leaves the tag, LDFE empties it, STE writes the word and fills it; at a word whose tag it does not want it stays armed
and changes nothing (R187, R188). -/
def Sys2Proof.Claims.TaggedWaitIsServedWhenItsTagAllows : Prop :=
  ∀ (s : State) (rd : BitVec 5) (p v : Nat), v < 2 ^ 32 → (∀ e ∈ s.cores, e.2.sync = []) → s.link.monitors = [] →
    (me s).status ≠ .stopped → p % 4 = 0 →
    let n := s.issue.core
    let value := (BitVec.ofNat 32 (rawNat s p 4)).signExtend 64
    let given : State → Prop := fun t => (getCore t n).sync = [] ∧
      ∃ e ∈ (getCore t n).pend, e.id = (me s).nextId ∧ e.waits = 0 ∧ e.what = .x rd.toNat value
    let waiting : State → Prop := fun t => (getCore t n).sync ≠ [] ∧ t.mem = s.mem ∧ t.tags = s.tags
    (tagFull s p = true →
      given (waitsAt s rd (.ldf 4 false) p) ∧ (waitsAt s rd (.ldf 4 false) p).mem = s.mem ∧
      tagFull (waitsAt s rd (.ldf 4 false) p) p = true ∧
      given (waitsAt s rd (.ldf 4 true) p) ∧ (waitsAt s rd (.ldf 4 true) p).mem = s.mem ∧
      tagFull (waitsAt s rd (.ldf 4 true) p) p = false ∧ waiting (waitsPlain s (.ste 4 v) p)) ∧
    (tagFull s p = false →
      waiting (waitsAt s rd (.ldf 4 false) p) ∧ waiting (waitsAt s rd (.ldf 4 true) p) ∧
      (getCore (waitsPlain s (.ste 4 v) p) n).sync = [] ∧ tagFull (waitsPlain s (.ste 4 v) p) p = true ∧
      ∀ q, rawByte (waitsPlain s (.ste 4 v) p) q = if p ≤ q ∧ q < p + 4 then (bytesOf 4 v).getD (q - p) 0 else rawByte s q)

/-- Of the waits that have become performable, the one armed first is served first (R188). -/
def Sys2Proof.Claims.EarliestArmedWaitIsServedFirst : Prop :=
  ∀ (ws : List Waiter) (w : Waiter), firstArmed ws = some w → w ∈ ws ∧ ∀ q ∈ ws, w.armed ≤ q.armed

/-- The barrier instructions at a name of the running partition: BARI sets the target, BARA adds arrivals, BARC counts the bytes of a
record, each with Complete after it and as one write in the core's logical time; BART answers with the generation; BARW waits for a
generation other than x[xt], BARAW for the one after its own arrival; any other name fails with BOUNDS, and so does a BARC of an EXTENT of
2^32 or more, with the record's BASE (R190, R191, R230, Table 8.3; the order of BARC's checks is log entry 17's).
What a log entry is named for is the model's choice, no rule of the spec. -/
def Sys2Proof.Claims.BarrierInstructionsAct : Prop :=
  ∀ (s : State) (xs xt rd : BitVec 5),
    let name := (x s xs).toNat
    let k := slotOfCore s s.issue.core
    let low := (x s xt).toNat % 2 ^ 32
    let r := (x s xt).toNat
    let b := recordOf ((me s).regs.readRec r)
    let good := name < 2 ^ 24 ∧ name / 4096 < 16 * (ctxOfCore s s.issue.core).part.length
    let timed := barTime s k name (.core s.issue.core) true
    let on : (Barrier → Barrier) → State := fun f => settle (modCtx timed k (fun c => c.setBarrier name (f (c.barrier name)).complete))
    let arrived := on (fun q => { q with count := (q.count + low) % 2 ^ 32 })
    (good → exec (.bari xt xs) s = .next (on (fun q => { q with target := low, bytes := none, armed := true }))) ∧
    (good → exec (.bara xt xs) s = .next arrived) ∧
    (good → exec (.barw xt xs rd) s = .next (waitsAt s rd (.barw low) name)) ∧
    (good → exec (.baraw xt xs rd) s = .next (waitsAt arrived rd (.barw (barrierGen s k name)) name)) ∧
    (good → r ≤ 63 → slotInterlocked s (.record r) = false → b.malformed = false → b.extent < 2 ^ 32 →
      exec (.barc xt xs) s =
        .next (on (fun q => { q with target := b.extent, bytes := some (recordBytes s.issue.core b), armed := true }))) ∧
    (good → exec (.bart xs rd) s = .next (answers (barTime s k name (.core s.issue.core) false) rd (BitVec.ofNat 64 (barrierGen s k name)))) ∧
    (¬good → exec (.bari xt xs) s = .next (slotFail s .bounds name) ∧ exec (.bara xt xs) s = .next (slotFail s .bounds name) ∧
      exec (.barw xt xs rd) s = .next (slotFail s .bounds name) ∧ exec (.baraw xt xs rd) s = .next (slotFail s .bounds name) ∧
      exec (.bart xs rd) s = .next (slotFail s .bounds name)) ∧
    (63 < r → exec (.barc xt xs) s = .next (slotFail s .illegal 0)) ∧
    (r ≤ 63 → slotInterlocked s (.record r) = true → exec (.barc xt xs) s = .next (slotHold s)) ∧
    (r ≤ 63 → slotInterlocked s (.record r) = false → b.malformed = true →
      exec (.barc xt xs) s = .next (slotFail s .illegal ((me s).regs.readRecAddr r))) ∧
    (r ≤ 63 → slotInterlocked s (.record r) = false → b.malformed = false → ¬good → exec (.barc xt xs) s = .next (slotFail s .bounds name)) ∧
    (r ≤ 63 → slotInterlocked s (.record r) = false → b.malformed = false → good → 2 ^ 32 ≤ b.extent →
      exec (.barc xt xs) s = .next (slotFail s .bounds b.base))

/-- The synchronising accesses at a page of another package: LDA and WAITV ask its home, LDA's answer interlocked and WAITV's monitor armed
there; STL sends its bytes, at system scope with a wait for their acknowledgement; an atomic is sent to be made at its home and answers
when its old value comes; a reduction is sent as a store is (R189, R193, R195, R196, R198, R239; the payloads are log entry 11's, the
monitor's requests log entry 13's). What a log entry is named for is the model's choice, no rule of the spec. -/
def Sys2Proof.Claims.SynchronisingAccessesAtRemotePages : Prop :=
  ∀ (s : State) (sc : BitVec 2) (xs xt rd : BitVec 5) (z : BitVec 1) (node addr : Nat),
    let va := (x s xs).toNat
    let n := s.issue.core
    let size := bytesOfForm z
    let v := (x s xt).toNat
    let vz := v % 2 ^ (8 * size)
    let away : Nat → Bool → Bool → Nat → Prop := fun size read write cls =>
      meetsJobs s n (rangeOf va size) write = false ∧ checkAccess s n va size read write cls = .away 1 node addr
    let deadline := if (me s).dev.wto = 0 then none else some ((me s).now + (me s).dev.wto.toNat)
    let monitors : Bool → State := fun ne =>
      requestMonitor (waitsAt s rd (.waitvAway ne v deadline 1 node addr va) 0) n 1 node addr va (me s).nextId 0 (if ne then 2 else 1) v
        s.issue.slot (me s).ctl.pc
    let sent := storeAway s 1 node addr va (bytesOf size v)
    let atomics : List (Nat × Instr) :=
      [(0, .amoadd sc xt xs z rd), (1, .amoswap sc xt xs z rd), (3, .amoand sc xt xs z rd), (4, .amoor sc xt xs z rd),
       (5, .amoxor sc xt xs z rd), (6, .amomin sc xt xs z rd), (7, .amomax sc xt xs z rd), (8, .amominu sc xt xs z rd),
       (9, .amomaxu sc xt xs z rd)]
    let reductions : List (Nat × Instr) :=
      [(0, .redadd sc xt xs z), (1, .redand sc xt xs z), (2, .redor sc xt xs z), (3, .redxor sc xt xs z), (4, .redmin sc xt xs z),
       (5, .redmax sc xt xs z), (6, .redminu sc xt xs z), (7, .redmaxu sc xt xs z)]
    onHost s n va = false →
    (away size true false 0 →
      exec (.lda sc xs z rd) s = .next (requestLoad (waitsAt s rd .remote 0) 1 node addr va size (me s).nextId 0 true none)) ∧
    (away 8 true false 0 → exec (.waitvEq xt xs rd) s = .next (monitors false) ∧ exec (.waitvNe xt xs rd) s = .next (monitors true)) ∧
    (away size false true 0 → s.issue.commit = true ∨ releaseReady s n sc.toNat = true →
      exec (.stl sc xt xs z) s = .next (if sc = 2 then waitsPlain sent (.fence 2 2) 0 else sent)) ∧
    (away size true true 0 →
      (∀ q ∈ atomics, exec q.2 s = .next (atomicAway s 1 node addr va size q.1 vz 0 rd)) ∧
      exec (.amocas sc xt xs z rd) s =
        .next (atomicAway s 1 node addr va size 2 ((x s rd).toNat % 2 ^ (8 * size)) v rd)) ∧
    (away 4 true true 0 → exec (.amofadd sc xt xs rd) s = .next (atomicAway s 1 node addr va 4 10 (v % 2 ^ 32) 0 rd)) ∧
    (away size false true 3 → ∀ q ∈ reductions, exec q.2 s = .next (reduceAway s 1 node addr va size q.1 vz 0 0 0)) ∧
    (away 4 false true 3 → exec (.redfadd sc xt xs) s = .next (reduceAway s 1 node addr va 4 8 (v % 2 ^ 32) 0 0 0)) ∧
    (let j := (x s rd).toNat % 2 ^ 32
     let c := (x s rd).toNat / 2 ^ 32
     away 4 false true 3 → 0 < c → j < c →
      exec (.redofadd sc xt xs rd) s = .next (reduceAway s 1 node addr va 4 0x18 (v % 2 ^ 32) j c (sequenceName s n va)))

/-- An access of the synchronisation chapter that meets no job of its core is held while its address has no translation, which it asks for,
while a prepared version has its line, and while an earlier remote access of its core to the same bytes is outstanding; a failing check
stops it (R75, R183, R239, R263, R328). -/
def Sys2Proof.Claims.SynchronisingAccessesAreHeld : Prop :=
  ∀ (s : State) (sc : BitVec 2) (xs xt rd : BitVec 5) (z : BitVec 1) (p : Nat) (cause : Cause),
    let va := (x s xs).toNat
    let n := s.issue.core
    let size := bytesOfForm z
    let stops : List (Instr × Nat × Bool × Bool × Nat) :=
      [(.lda sc xs z rd, size, true, false, 0), (.waitvEq xt xs rd, 8, true, false, 0), (.waitvNe xt xs rd, 8, true, false, 0),
       (.amoadd sc xt xs z rd, size, true, true, 0), (.amoswap sc xt xs z rd, size, true, true, 0), (.amoand sc xt xs z rd, size, true, true, 0),
       (.amoor sc xt xs z rd, size, true, true, 0), (.amoxor sc xt xs z rd, size, true, true, 0), (.amomin sc xt xs z rd, size, true, true, 0),
       (.amomax sc xt xs z rd, size, true, true, 0), (.amominu sc xt xs z rd, size, true, true, 0), (.amomaxu sc xt xs z rd, size, true, true, 0),
       (.amocas sc xt xs z rd, size, true, true, 0), (.amofadd sc xt xs rd, 4, true, true, 0),
       (.redadd sc xt xs z, size, false, true, 3), (.redand sc xt xs z, size, false, true, 3), (.redor sc xt xs z, size, false, true, 3),
       (.redxor sc xt xs z, size, false, true, 3), (.redmin sc xt xs z, size, false, true, 3), (.redmax sc xt xs z, size, false, true, 3),
       (.redminu sc xt xs z, size, false, true, 3), (.redmaxu sc xt xs z, size, false, true, 3), (.redfadd sc xt xs, 4, false, true, 3)]
    onHost s n va = false →
    ∀ q ∈ stops,
      let check := checkAccess s n va q.2.1 q.2.2.1 q.2.2.2.1 q.2.2.2.2
      (meetsJobs s n (rangeOf va q.2.1) q.2.2.2.1 = true → exec q.1 s = .next (slotHold s)) ∧
      (meetsJobs s n (rangeOf va q.2.1) q.2.2.2.1 = false →
        (check = .untranslated → exec q.1 s = .next (holdForWalk s va)) ∧
        (check = .prepared p → exec q.1 s = .next (holdForPrepared s p)) ∧
        (check = .ordered → exec q.1 s = .next (slotHold s)) ∧
        (check = .fails cause → exec q.1 s = .next (slotFail s cause va)))

/-- Complete (R190): an unarmed barrier stays; an armed one with arrivals below its target stays; one with a target above 0 that is reached
gives its generation and keeps the rest of the count; one with target 0 completes once and is armed no longer. -/
def Sys2Proof.Claims.BarrierCompletesAtItsTarget : Prop :=
  ∀ b : Barrier,
    (b.armed = false → b.complete = b) ∧
    (b.armed = true → b.count < b.target → b.gen < 2 ^ 32 → b.complete = b) ∧
    (b.armed = true → 0 < b.target → b.target ≤ b.count → b.count < 2 * b.target →
      b.complete = { b with count := b.count - b.target, gen := (b.gen + 1) % 2 ^ 32 }) ∧
    (b.armed = true → b.target = 0 → b.complete = { b with gen := (b.gen + 1) % 2 ^ 32, armed := false }) ∧
    (b.armed = true → 0 < b.target →
      b.complete.count < b.target ∧ ∃ k, b.count = k * b.target + b.complete.count ∧ b.complete.gen = (b.gen + k) % 2 ^ 32)

/-- WAITV at a doubleword of the package arms a monitor with its time-out, counted from its issue, and is served when the doubleword
equals, or for NE differs from, x[xt]; the time-out of a core's wait gives the doubleword as it then reads and sets WTO (R189). -/
def Sys2Proof.Claims.MonitoredWaitsArmAndTimeOut : Prop :=
  ∀ (s : State) (xs xt rd : BitVec 5) (p : Nat) (o : SyncOp) (ne : Bool) (d : Nat),
    let va := (x s xs).toNat
    let v := (x s xt).toNat
    let n := s.issue.core
    let c := me s
    let deadline := if c.dev.wto = 0 then none else some (c.now + c.dev.wto.toNat)
    let merged := mergePartials s p 8
    (reaches s va 8 true false 0 p →
      exec (.waitvEq xt xs rd) s = .next (waitsAt merged rd (.waitv false v deadline) p) ∧
      exec (.waitvNe xt xs rd) s = .next (waitsAt merged rd (.waitv true v deadline) p)) ∧
    (canPerform s n { o with kind := .waitv false v (some d) } = true ↔ waitvValue s n o.place = v) ∧
    (canPerform s n { o with kind := .waitv true v (some d) } = true ↔ waitvValue s n o.place ≠ v) ∧
    ((me s).sync = [] → exec (.waitvTimeout n) s = .next s) ∧
    (c.sync = [o] → o.kind = .waitv ne v (some d) → d ≤ c.now → 2 ^ 40 ≤ o.place →
      exec (.waitvTimeout n) s = .next (endWait s n o) ∧ (getCore (endWait s n o) n).dev.wtoBit = true ∧
      (getCore (endWait s n o) n).sync = [] ∧
      ∀ e ∈ c.pend, e.id = o.id →
        { e with waits := 0, what := .x (o.rd.getD 0) (BitVec.ofNat 64 (waitvValue s n o.place)) } ∈ (getCore (endWait s n o) n).pend)

/-- The value-returning atomics at a word of the package: the old value m comes back, sign-extended for .W, and the new value of Table 8.4 is
written in the same step; AMOCAS writes only where the comparison holds, and otherwise only reads (R193, R194). -/
def Sys2Proof.Claims.AtomicsReturnTheOldValue : Prop :=
  ∀ (s : State) (sc : BitVec 2) (xs xt rd : BitVec 5) (z : BitVec 1) (p : Nat),
    let va := (x s xs).toNat
    let size := bytesOfForm z
    let n := s.issue.core
    let w := whoIs s n
    let v := (x s xt).toNat % 2 ^ (8 * size)
    let r := readAt s w p size
    let m := ofBytes r.2
    let old : Nat → State → State := fun sz t => answers t rd (BitVec.ofInt 64 (signed sz m))
    let stored : Nat → State := fun u => (storeAt r.1 (.core n) w va p (bytesOf size u)).1
    let fits : Nat → Prop := fun u => (storeAt r.1 (.core n) w va p (bytesOf size u)).2 = false
    let does : (BitVec 1 → Instr) → Nat → Prop := fun i u => fits u → exec (i z) s = .next (old size (stored u))
    let r4 := readAt s w p 4
    let sum := (addFp32 (ofBytes r4.2) ((x s xt).toNat % 2 ^ 32)).1
    let f4 := storeAt r4.1 (.core n) w va p (bytesOf 4 sum)
    (reaches s va size true true 0 p →
      does (fun z => .amoadd sc xt xs z rd) (addOf size m v) ∧
      does (fun z => .amoswap sc xt xs z rd) v ∧
      does (fun z => .amoand sc xt xs z rd) (m &&& v) ∧
      does (fun z => .amoor sc xt xs z rd) (m ||| v) ∧
      does (fun z => .amoxor sc xt xs z rd) (m ^^^ v) ∧
      does (fun z => .amomin sc xt xs z rd) (minOf size m v) ∧
      does (fun z => .amomax sc xt xs z rd) (maxOf size m v) ∧
      does (fun z => .amominu sc xt xs z rd) (min m v) ∧
      does (fun z => .amomaxu sc xt xs z rd) (max m v) ∧
      (m = v → does (fun z => .amocas sc xt xs z rd) ((x s rd).toNat % 2 ^ (8 * size))) ∧
      (m ≠ v → exec (.amocas sc xt xs z rd) s = .next (old size (loads r.1 (.core n) p size)))) ∧
    (reaches s va 4 true true 0 p → f4.2 = false →
      exec (.amofadd sc xt xs rd) s = .next (answers f4.1 rd (BitVec.ofInt 64 (signed 4 (ofBytes r4.2)))))

/-- The non-returning reductions at a word of local memory write the new value of Table 8.5, as a store does; at a global word the operand goes
where the hardware holds it, into the word or into its die's partial (log entry 4); REDOFADD adds in ordinal order (R196, R197, R241).
What a log entry is named for is the model's choice, no rule of the spec. -/
def Sys2Proof.Claims.ReductionsUpdateTheirWord : Prop :=
  ∀ (s : State) (sc : BitVec 2) (xs xt rd : BitVec 5) (z : BitVec 1) (p : Nat),
    let va := (x s xs).toNat
    let size := bytesOfForm z
    let n := s.issue.core
    let w := whoIs s n
    let v := (x s xt).toNat % 2 ^ (8 * size)
    let m := ofBytes (viewBytes s w p size)
    let m4 := ofBytes (viewBytes s w p 4)
    let v4 := (x s xt).toNat % 2 ^ 32
    let writes : Nat → Nat → State := fun sz u => (storeAt { s with fresh := s.fresh + 1 } (.core n) w va p (bytesOf sz u)).1
    let either : Nat → State := fun op => (reduceAt s (.core n) w va p size op v).1
    let fits : Nat → Prop := fun op => (reduceAt s (.core n) w va p size op v).2 = false
    let j := (x s rd).toNat % 2 ^ 32
    let c := (x s rd).toNat / 2 ^ 32
    (reaches s va size false true 3 p → 2 ^ 40 ≤ p →
      exec (.redadd sc xt xs z) s = .next (writes size (addOf size m v)) ∧
      exec (.redand sc xt xs z) s = .next (writes size (m &&& v)) ∧
      exec (.redor sc xt xs z) s = .next (writes size (m ||| v)) ∧
      exec (.redxor sc xt xs z) s = .next (writes size (m ^^^ v)) ∧
      exec (.redmin sc xt xs z) s = .next (writes size (minOf size m v)) ∧
      exec (.redmax sc xt xs z) s = .next (writes size (maxOf size m v)) ∧
      exec (.redminu sc xt xs z) s = .next (writes size (min m v)) ∧
      exec (.redmaxu sc xt xs z) s = .next (writes size (max m v))) ∧
    (reaches s va 4 false true 3 p → 2 ^ 40 ≤ p →
      exec (.redfadd sc xt xs) s = .next (writes 4 (addFp32 m4 v4).1)) ∧
    (reaches s va size false true 3 p →
      (fits 0 → exec (.redadd sc xt xs z) s = .next (either 0)) ∧ (fits 1 → exec (.redand sc xt xs z) s = .next (either 1)) ∧
      (fits 2 → exec (.redor sc xt xs z) s = .next (either 2)) ∧ (fits 3 → exec (.redxor sc xt xs z) s = .next (either 3)) ∧
      (fits 4 → exec (.redmin sc xt xs z) s = .next (either 4)) ∧ (fits 5 → exec (.redmax sc xt xs z) s = .next (either 5)) ∧
      (fits 6 → exec (.redminu sc xt xs z) s = .next (either 6)) ∧ (fits 7 → exec (.redmaxu sc xt xs z) s = .next (either 7))) ∧
    (reaches s va 4 false true 3 p → (reduceAt s (.core n) w va p 4 8 v4).2 = false →
      exec (.redfadd sc xt xs) s = .next (reduceAt s (.core n) w va p 4 8 v4).1) ∧
    (reaches s va 4 false true 3 p → 0 < c → j < c →
      exec (.redofadd sc xt xs rd) s = .next (contributeFrom s n (sequenceName s n va) c p
        { ordinal := j, value := v4, ctx := w.ctx, launch := w.launch, run := w.run, slot := w.slot, va := va })) ∧
    (reaches s va 4 false true 3 p → c = 0 ∨ c ≤ j → exec (.redofadd sc xt xs rd) s = .next (slotFail s .bounds va))

/-- LDA answers with the word, sign-extended for .W, interlocked, at system scope read at its home; STL stores once its release is
through and is held before; FENCE is armed until the accesses and jobs of its kind and scope are through: a FENCE without a release part
waits for the core's loads alone, and is performed as it issues where none is outstanding (R198, R199, Table 10.2). -/
def Sys2Proof.Claims.AcquireReleaseAndFence : Prop :=
  ∀ (s : State) (sc k : BitVec 2) (xs xt rd : BitVec 5) (z : BitVec 1) (p : Nat) (o : SyncOp) (n : Nat),
    let va := (x s xs).toNat
    let size := bytesOfForm z
    let me' := s.issue.core
    let w := whoIs s me'
    let atHome := readAt s w p size
    let near := coreRead s me' w p size
    let release := loadsPerformed s n = true ∧ (∀ j ∈ (getCore s n).jobs, releaseWaitsFor s (ctxOfCore s n) sc.toNat j = false) ∧
      (sc = 2 → (getCore s n).acks = [])
    (reaches s va size true false 0 p → sc = 2 →
      exec (.lda sc xs z rd) s = .next (answers (loads atHome.1 (.core me') p size) rd (BitVec.ofInt 64 (signed size (ofBytes atHome.2))))) ∧
    (reaches s va size true false 0 p → sc ≠ 2 →
      exec (.lda sc xs z rd) s = .next (answers near.1 rd (BitVec.ofInt 64 (signed size (ofBytes near.2))))) ∧
    (reaches s va size false true 0 p → s.issue.commit = true ∨ releaseReady s me' sc.toNat = true →
      exec (.stl sc xt xs z) s = .next (storeHere s va p (bytesOf size (x s xt).toNat))) ∧
    (s.issue.commit = false → releaseReady s me' sc.toNat = false → exec (.stl sc xt xs z) s = .next (slotHold s)) ∧
    exec (.fence sc k) s = .next (waitsPlain s (.fence k.toNat sc.toNat) 0) ∧
    (canPerform s n { o with kind := .fence 1 sc.toNat } = true ↔ loadsPerformed s n = true) ∧
    (canPerform s n { o with kind := .fence 0 sc.toNat } = true ↔ release) ∧
    (canPerform s n { o with kind := .fence 2 sc.toNat } = true ↔ release)

/-- The instructions of a resident program's blocks: TGET arms its search; TDONE completes the block's slot, and TABORT discards it; TSPAWN
acts on a block at its home. Outside their mode, or with a wrong operand, they fail with the cause of their entry: TSPAWN with ALIGN for a
block that is not 64-byte aligned, with PROTECT for one outside global memory (R200 to R202). -/
def Sys2Proof.Claims.BlockInstructionsAct : Prop :=
  ∀ (s : State) (b w : BitVec 1) (xs xt rd : BitVec 5) (k sl : Nat) (t : Task),
    let c := me s
    let n := s.issue.core
    let va := (x s xs).toNat
    let closes : State → State := fun u => meIs u { me u with
      dev := { (me u).dev with task := 0 }, task := some { t with slot := none, item := 0, ckpt := launchCkpt s k t.launch } }
    c.ctx = some k → c.task = some t →
    (t.mode = 2 → c.dev.task = 0 → exec (.tget b w rd) s = .next (waitsAt s rd (.tget (b == 1) (w == 1) none) 0)) ∧
    (t.mode ≠ 2 ∨ c.dev.task ≠ 0 → exec (.tget b w rd) s = .next (slotFail s .illegal 0)) ∧
    (t.mode = 2 → x s xs = c.dev.task → s.issue.commit = true ∨ drained c = true → t.slot = some sl →
      exec (.tdone xs) s = .next (completeSlot (closes (managerFollows s n)) k t.launch t.run sl) ∧
      exec (.tabort xs) s = .next (discardSlot (closes s) k sl .tabort)) ∧
    (t.mode ≠ 2 ∨ x s xs ≠ c.dev.task →
      exec (.tdone xs) s = .next (slotFail s .illegal va) ∧ exec (.tabort xs) s = .next (slotFail s .illegal va)) ∧
    (t.mode ≠ 0 → s.issue.commit = true ∨ releaseReady s n 0 = true → va % 64 = 0 → va < 2 ^ 47 →
      exec (.tspawn xt xs) s = .next (spawnBlock (managerFollows s n) k t.launch t.run va (x s xt).toNat c.logical)) ∧
    (t.mode ≠ 0 → s.issue.commit = false → releaseReady s n 0 = false → exec (.tspawn xt xs) s = .next (slotHold s)) ∧
    (t.mode ≠ 0 → s.issue.commit = true ∨ releaseReady s n 0 = true → va % 64 ≠ 0 →
      exec (.tspawn xt xs) s = .next (slotFail s .align va)) ∧
    (t.mode ≠ 0 → s.issue.commit = true ∨ releaseReady s n 0 = true → va % 64 = 0 → 2 ^ 47 ≤ va →
      exec (.tspawn xt xs) s = .next (slotFail s .protect va)) ∧
    (t.mode = 0 → exec (.tspawn xt xs) s = .next (slotFail s .illegal 0))

/-- A TGET that has issued looks once in each clock cycle: a block that the search of R303 finds, with a slot free, is taken and its
address answered once the hardware can read it, and is held until then (R294; the requests to the home of a block of another package are
log entry 34's); without WAIT, or once the launch is drained, a search that finds nothing answers 0; with WAIT it goes on; and a core
that drains takes nothing, and its TGET without WAIT answers 0 (R200, R303, R321; the model's reading, log entry 14).
What a log entry is named for is the model's choice, no rule of the spec. -/
def Sys2Proof.Claims.BlocksAreGotInPasses : Prop :=
  ∀ (s : State) (n k sl addr : Nat) (t : Task) (o : SyncOp) (board wait : Bool) (f : Found),
    let c := getCore s n
    let search := findWork s { ctx := k, logical := c.logical, only := some (t.launch, t.run) } board
    let idle := announcePages s k
    let nothing : State → State := fun u => dropSync (fillPending u n o.id (.x (o.rd.getD 0) 0)) n o.id
    c.ctx = some k → c.task = some t → c.dev.task = 0 → o.kind = .tget board wait none →
    (search = some f → f.entry.work = .block addr → freeTaskSlot f.after = some sl → blockAt f.after (hwWho k t.launch t.run) addr = true →
      tgetPass s n o true = takeBlock (follows f.after (.core n) .manager) n k sl t addr o) ∧
    (search = some f → f.entry.work = .block addr → freeTaskSlot f.after = some sl → blockAt f.after (hwWho k t.launch t.run) addr = false →
      tgetPass s n o true =
        awaitTake (putSync f.after n { o with kind := .tget board wait (some addr) }) k t.launch t.run addr (getCore f.after n).logical) ∧
    (search = some f → f.entry.work = .block addr → freeTaskSlot f.after = none →
      tgetPass s n o true = putSync f.after n { o with kind := .tget board wait (some addr) }) ∧
    (search = none → wait = false ∨ isDrained idle k t.launch t.run = true →
      tgetPass s n o true = nothing (follows idle (.core n) .manager)) ∧
    (search = none → wait = true → isDrained idle k t.launch t.run = false → tgetPass s n o true = idle) ∧
    (wait = true → tgetPass s n o false = s) ∧
    (wait = false → tgetPass s n o false = nothing s)

namespace Sys2Proof.Claims
open Sys2Proof.Machine

/-- A checked access reaches a byte of the package. -/
def isHere (a : Access) : Bool :=
  match a with
  | .here _ => true
  | _ => false

end Sys2Proof.Claims

/-- LAUNCH of a record that lies readable in the package copies it into its queue as a child of the launching task and gives the handle; LWAIT
gives UNKNOWN at once for a handle never received, and otherwise waits for the launch's status; RAND gives the next word of the task's
scalar stream and counts it (R59, R203 to R205). -/
def Sys2Proof.Claims.LaunchWaitAndRandom : Prop :=
  ∀ (s : State) (xs xt rd : BitVec 5) (k : Nat) (t : Task) (l : Launch),
    let c := me s
    let n := s.issue.core
    let va := (x s xs).toNat
    let parts := recordParts s va
    let kind := SyncKind.launch (x s xt).toNat
    let read := readParts c.nextId va parts (waitsAt s rd kind 0, [])
    let o := { waitOp s rd kind 0 with armed := s.seq, got := read.2 }
    let ready := putSync read.1 n o
    let placed := placeRecord (managerFollows ready n) k (x s xt).toNat (joinParts o.got) (.child t.launch t.run (t.slot.getD mergedSlot))
    let bound := modLaunch s k t.launch (fun q => { q with lwaits := insertNat va q.lwaits })
    let ctx := ctxOfCore s n
    let word := scalarRandom (ctx.key0 % 2 ^ 32) ((ctx.key1 % 2 ^ 32) ^^^ c.dev.rngh.toNat) c.dev.rngc.toNat
    c.ctx = some k → c.task = some t →
    (s.issue.commit = true ∨ releaseReady s n 0 = true → va % 64 = 0 → va < 2 ^ 47 → (∀ q ∈ parts, isHere q.2 = true) →
      meetsJobs s n (rangeOf va 512) false = false → (∀ q ∈ s.cores, q.2.sync = []) →
      exec (.launch xt xs rd) s =
        .next (dropSync (fillPending placed.1 n o.id (.x rd.toNat (BitVec.ofNat 64 placed.2))) n o.id)) ∧
    (getLaunch s k va = none → exec (.lwait xs rd) s = .next (answers s rd 0x04)) ∧
    (getLaunch s k va = some l → exec (.lwait xs rd) s = .next (waitsAt bound rd (.lwait va) 0)) ∧
    exec (.rand rd) s =
      .next (inFlight (toX s rd 2 (BitVec.ofNat 64 word)) (some (.dev 0x012)) (lands s 1) 0 0 (.dev 0x012 (c.dev.rngc + 1)))

namespace Sys2Proof.Claims
open Sys2Proof.Machine

/-- The issuing slot is VB, whose registers are those of the B cluster (R117). -/
def isB (s : State) : Bool := s.issue.slot == 5

/-- A vector register of the slot's own cluster at issue. -/
def vec (s : State) (r : BitVec 4) : Vec := spGet 0 (me s).regs.v ((if isB s then 16 else 0) + r.toNat)

/-- A predicate of the slot's own cluster at issue; p0 is all ones (R20). -/
def pred (s : State) (p : BitVec 3) : Pred :=
  if p = 0 then BitVec.allOnes 256 else spGet 0 (me s).regs.p ((if isB s then 8 else 0) + p.toNat)

/-- The state in which a vector result to the slot's own cluster is in flight, and nothing else has changed. -/
def toV (s : State) (d : BitVec 4) (latency : Nat) (flags : FpFlags) (v : Vec) (bytes : Pred) : State :=
  inFlight s (some (.v (isB s) d.toNat)) (lands s latency) 0 flags (.vec (isB s) d.toNat v bytes)

/-- The state in which a predicate result is in flight; a write to p0 is discarded when it lands. -/
def toP (s : State) (d : BitVec 3) (latency : Nat) (v : Pred) : State :=
  inFlight s (if d = 0 then none else some (.p (isB s) d.toNat)) (lands s latency) 0 0 (.pred (isB s) d.toNat v)

/-- The flags that some of n element results raise together (R48). -/
def flagsOver (n : Nat) (f : Nat → FpFlags) : FpFlags := (List.range n).foldl (fun acc i => acc ||| f i) 0

/-- What an element-wise instruction answers (R118): one vector result of a latency, whose enabled elements are the given ones, whose byte
enables are those of the enabled elements, and whose flags are theirs. -/
def merges (s : State) (out : Out) (size : Nat) (d : BitVec 4) (p : Pred) (latency : Nat) (f : Nat → Nat × FpFlags) : Prop :=
  ∃ v bytes, out = .next (toV s d latency (flagsOver (256 / size) (fun i => if p.getLsbD (i * size) then (f i).2 else 0)) v bytes) ∧
    (∀ i, i < 256 / size → p.getLsbD (i * size) = true → elem v size i = (f i).1 % 2 ^ (8 * size)) ∧
    (∀ j, j < 256 → bytes.getLsbD j = p.getLsbD (j / size * size))

/-- The same for results that raise no flag. -/
def mergesNat (s : State) (out : Out) (size : Nat) (d : BitVec 4) (p : Pred) (latency : Nat) (f : Nat → Nat) : Prop :=
  merges s out size d p latency (fun i => (f i, 0))

/-- What an instruction answers that writes every byte of its register (R128 to R130). -/
def writesAll (s : State) (out : Out) (size : Nat) (d : BitVec 4) (latency : Nat) (f : Nat → Nat × FpFlags) : Prop :=
  ∃ v, out = .next (toV s d latency (flagsOver (256 / size) (fun i => (f i).2)) v (BitVec.allOnes 256)) ∧
    ∀ i, i < 256 / size → elem v size i = (f i).1 % 2 ^ (8 * size)

/-- An integer wrapped to an element. -/
def wrap (size : Nat) (z : Int) : Nat := (BitVec.ofInt (8 * size) z).toNat

/-- The integer value of an element: unsigned when U. -/
def value (size : Nat) (u : BitVec 1) (a : Nat) : Int := if u = 1 then (a : Int) else signed size a

end Sys2Proof.Claims

/-! ## The vector slots -/

/-- The integer instructions of VA and VB for every integer type, element by element with latency 2, merging under the predicate; a shift by
register takes its amount modulo the width, VABS of the most negative value and VADDS saturate (R118, R122). -/
def Obligations.VectorIntegerResults : Prop :=
  ∀ (s : State) (t : BitVec 3) (d vs vt : BitVec 4) (p : BitVec 3) (u b k : BitVec 1) (amt : BitVec 5), t.toNat ≤ 2 →
    let size := typeSize t.toNat
    let w := 8 * size
    let a := fun i => elem (vec s vs) size i
    let c := fun i => elem (vec s vt) size i
    let old := fun i => elem (vec s d) size i
    let sa := fun i => value size u (a i)
    let sc := fun i => value size u (c i)
    let by' := fun i => if k = 1 then amt.toNat else c i % w
    let lo : Int := if u = 1 then 0 else -(2 ^ (w - 1))
    let hi : Int := if u = 1 then 2 ^ w - 1 else 2 ^ (w - 1) - 1
    let sum := fun i => if b = 1 then sa i - sc i else sa i + sc i
    let gives := fun (i : Instr) (f : Nat → Nat) => mergesNat s (exec i s) size d (pred s p) 2 f
    gives (.vadd t d vs vt p) (fun i => a i + c i) ∧
    gives (.vsub t d vs vt p) (fun i => wrap size ((a i : Int) - c i)) ∧
    gives (.vmul t d vs vt p) (fun i => a i * c i) ∧
    gives (.vmulh t d vs vt p u) (fun i => wrap size (sa i * sc i / 2 ^ w)) ∧
    gives (.vmac t d vs vt p) (fun i => old i + a i * c i) ∧
    gives (.vand t d vs vt p) (fun i => a i &&& c i) ∧
    gives (.vor t d vs vt p) (fun i => a i ||| c i) ∧
    gives (.vxor t d vs vt p) (fun i => a i ^^^ c i) ∧
    gives (.vshl t d vs vt p k amt) (fun i => a i * 2 ^ by' i) ∧
    gives (.vshr t d vs vt p k amt) (fun i => a i / 2 ^ by' i) ∧
    gives (.vsra t d vs vt p k amt) (fun i => wrap size (signed size (a i) / 2 ^ by' i)) ∧
    gives (.vmin t d vs vt p u) (fun i => wrap size (min (sa i) (sc i))) ∧
    gives (.vmax t d vs vt p u) (fun i => wrap size (max (sa i) (sc i))) ∧
    gives (.vabs t d vs p) (fun i => min (signed size (a i)).natAbs (2 ^ (w - 1) - 1)) ∧
    gives (.vadds t d vs vt p b u) (fun i => wrap size (max lo (min hi (sum i))))

/-- The floating instructions of VA and VB for every floating type, element by element with latency 4: the exact sum, product or fused result
rounded once to nearest even, with the flags of the enabled elements; minimum, maximum and the sign move; and the special functions with
latency 12 (R118, R123, R137; the special functions' values are those of log entry 12).
What a log entry is named for is the model's choice, no rule of the spec. -/
def Obligations.VectorFloatResults : Prop :=
  ∀ (s : State) (t : BitVec 3) (d vs vt : BitVec 4) (p : BitVec 3) (m : BitVec 2), 3 ≤ t.toNat →
    let size := typeSize t.toNat
    let g := typeFloat t.toNat
    let bits := fun i => elem (vec s vs) size i
    let bitsT := fun i => elem (vec s vt) size i
    let a := fun i => decodeFloat g (bits i)
    let c := fun i => decodeFloat g (bitsT i)
    let old := fun i => decodeFloat g (elem (vec s d) size i)
    let gives := fun (i : Instr) (latency : Nat) (f : Nat → Nat × FpFlags) => merges s (exec i s) size d (pred s p) latency f
    gives (.vfadd t d vs vt p) 4 (fun i => roundRne g (addVal (a i) (c i))) ∧
    gives (.vfsub t d vs vt p) 4 (fun i => roundRne g (addVal (a i) (c i).negate)) ∧
    gives (.vfmul t d vs vt p) 4 (fun i => roundRne g (mulVal (a i) (c i))) ∧
    gives (.vfma t d vs vt p) 4 (fun i => roundRne g (fmaVal (a i) (c i) (old i))) ∧
    gives (.vfms t d vs vt p) 4 (fun i => roundRne g (fmaVal (a i) (c i) (old i).negate)) ∧
    gives (.vfmin t d vs vt p) 4 (fun i => roundRne g (minVal (a i) (c i), 0)) ∧
    gives (.vfmax t d vs vt p) 4 (fun i => roundRne g (maxVal (a i) (c i), 0)) ∧
    gives (.vfsgn t d vs vt p m) 4 (fun i => (signElem g m.toNat (bits i) (bitsT i), 0)) ∧
    gives (.vexp2 t d vs p) 12 (fun i => specialElem .exp2 g (bits i)) ∧
    gives (.vlog2 t d vs p) 12 (fun i => specialElem .log2 g (bits i)) ∧
    gives (.vrcp t d vs p) 12 (fun i => specialElem .rcp g (bits i)) ∧
    gives (.vrsqrt t d vs p) 12 (fun i => specialElem .rsqrt g (bits i)) ∧
    gives (.vsqrt t d vs p) 12 (fun i => specialElem .sqrt g (bits i)) ∧
    gives (.vtanh t d vs p) 12 (fun i => specialElem .tanh g (bits i)) ∧
    gives (.verf t d vs p) 12 (fun i => specialElem .erf g (bits i))

/-- Compare, select and moves: VCMP writes every bit of its predicate, 0 for a disabled element, with a quiet comparison; VSEL chooses by
element; the moves write under the predicate, XMV from the other cluster with latency 1 (R124 to R126). -/
def Sys2Proof.Claims.VectorComparesAndMoves : Prop :=
  ∀ (s : State) (t d3 p : BitVec 3) (d vs vt i4 j4 : BitVec 4) (u : BitVec 1) (c : BitVec 3) (k8 : BitVec 8) (rs : BitVec 5),
    let size := typeSize t.toNat
    let a := fun i => elem (vec s vs) size i
    let e := fun i => elem (vec s vt) size i
    let sa := fun i => value size u (a i)
    let se := fun i => value size u (e i)
    let holds := fun i => (c = 0 ∧ sa i = se i) ∨ (c = 1 ∧ sa i ≠ se i) ∨ (c = 2 ∧ sa i < se i) ∨ (c = 3 ∧ sa i ≤ se i) ∨
      (c = 4 ∧ se i < sa i) ∨ (c = 5 ∧ se i ≤ sa i)
    let on := fun j => (pred s p).getLsbD (j / size * size)
    let imm := 4096 * i4.toNat + 256 * j4.toNat + k8.toNat
    let moveTime := if t.toNat ≤ 2 then 2 else 4
    (∃ q, exec (.vcmp t d3 vs vt p u c) s = .next (toP s d3 4 q) ∧
      ∀ j, j < 256 → c.toNat ≤ 5 →
        (t.toNat ≤ 2 → (q.getLsbD j = true ↔ on j = true ∧ holds (j / size))) ∧
        (3 ≤ t.toNat → q.getLsbD j =
          (on j && floatCond c.toNat (decodeFloat (typeFloat t.toNat) (a (j / size))) (decodeFloat (typeFloat t.toNat) (e (j / size)))))) ∧
    writesAll s (exec (.vsel t d vs vt p) s) size d 4 (fun i => (if (pred s p).getLsbD (i * size) then a i else e i, 0)) ∧
    mergesNat s (exec (.vmovi t d i4 j4 p k8) s) size d (pred s p) moveTime (fun _ => moveImmediate t.toNat imm) ∧
    mergesNat s (exec (.vmovx t d p rs) s) size d (pred s p) moveTime (fun _ => (x s rs).toNat) ∧
    mergesNat s (exec (.vmov t d vs p) s) size d (pred s p) moveTime a ∧
    mergesNat s (exec (.xmv t d vs p) s) size d (pred s p) 1
      (fun i => elem (spGet 0 (me s).regs.v ((if isB s then 0 else 16) + vs.toNat)) size i) ∧
    exec .valuNop s = .next s

/-- The permutes, with latency 3 and merging under the predicate (R127). -/
def Sys2Proof.Claims.VectorPermutes : Prop :=
  ∀ (s : State) (t p : BitVec 3) (d vs vt : BitVec 4) (z h : BitVec 1) (amt : BitVec 8),
    let size := typeSize t.toNat
    let n := 256 / size
    let a := fun i => elem (vec s vs) size i
    let e := fun i => elem (vec s vt) size i
    let gives := fun (i : Instr) (f : Nat → Nat) => mergesNat s (exec i s) size d (pred s p) 3 f
    gives (.vshuf4 t d vs p) (fun i => a (16 * (i / 16) + 4 * (i % 4) + i / 4 % 4)) ∧
    gives (.vperm t d vs vt p z) (fun i => if z = 1 ∧ n ≤ e i then 0 else a (e i % n)) ∧
    gives (.vrot t d vs p amt) (fun i => a ((i + amt.toNat) % n)) ∧
    gives (.vbcast t d vs p amt) (fun _ => a amt.toNat) ∧
    gives (.vzip t d vs vt p h) (fun i => if i % 2 = 0 then a (h.toNat * (n / 2) + i / 2) else e (h.toNat * (n / 2) + i / 2)) ∧
    gives (.vuzp t d vs vt p h) (fun i => if i < n / 2 then a (2 * i + h.toNat) else e (2 * (i - n / 2) + h.toNat))

/-- The reductions in a register, with latency 8 into every element (R61, R128), and the conversions and packed images, with latency 4 over
every byte (R129, R130): an element that the predicate disables counts as the identity, or converts to 0. -/
def Sys2Proof.Claims.VectorReductionsAndConversions : Prop :=
  ∀ (s : State) (t p : BitVec 3) (d vs vt : BitVec 4) (f : BitVec 5) (m : BitVec 3),
    let size := typeSize t.toNat
    let n := 256 / size
    let on := fun i => (pred s p).getLsbD (i * size)
    let a := fun i => elem (vec s vs) size i
    let total : Int := ((List.range n).map (fun i => if on i then signed size (a i) else 0)).sum
    let ds := fmtBits f.toNat / 8
    let big := max size ds
    let src := typeFmt t.toNat
    let dst := (fmtOfCode f.toNat).getD (.int 8 true)
    let sr := fun i => randomWord (vec s vt) (i * size)
    let code := packCode f.toNat
    let kept := packCount f.toNat n
    let image := encodeImage code m.toNat ((List.range kept).map (fun i =>
      (if on i then typeVal t.toNat (a i) else Val.fin false 0 0, sr i)))
    (t.toNat ≤ 2 → ∃ v, exec (.vrsum t d vs p) s = .next (toV s d 8 0 v (BitVec.allOnes 256)) ∧
      ∀ l, l < 64 → elem v 4 l = wrap 4 total) ∧
    (3 ≤ t.toNat → ∃ v, exec (.vrsum t d vs p) s =
        .next (toV s d 8 (registerSum t.toNat (vec s vs) (pred s p)).2 v (BitVec.allOnes 256)) ∧
      ∀ l, l < 64 → elem v 4 l = (registerSum t.toNat (vec s vs) (pred s p)).1 % 2 ^ 32) ∧
    writesAll s (exec (.vrmax t d vs p) s) size d 8 (fun _ => (registerExtreme t.toNat true (vec s vs) (pred s p), 0)) ∧
    writesAll s (exec (.vrmin t d vs p) s) size d 8 (fun _ => (registerExtreme t.toNat false (vec s vs) (pred s p), 0)) ∧
    (vcvtFmtOk f = true → writesAll s (exec (.vcvt t d vs vt p f m) s) ds d 4 (fun i =>
      if i < 256 / big ∧ (pred s p).getLsbD (i * big) = true then convertFmt src dst m.toNat false (sr i) (a i) else (0, 0))) ∧
    (packFmtOk f = true → exec (.vpack t d vs vt p f m) s =
      .next (toV s d 4 image.2 (BitVec.ofNat 2048 image.1) (BitVec.allOnes 256))) ∧
    (packFmtOk f = true → writesAll s (exec (.vunpk t d vs vt p f m) s) size d 4 (fun i =>
      if i < kept ∧ on i = true then encodeVal src m.toNat false (sr i) (imageElem code (vec s vs).toNat i) else (0, 0)))

/-- The largest element of an integer register reduction is one of the enabled elements and none is larger; without one it is the smallest
value of the type (R61, R128). -/
def Sys2Proof.Claims.RegisterExtremeIsTheExtreme : Prop :=
  ∀ (t : Nat) (v : Vec) (p : Pred), t ≤ 2 →
    let size := typeSize t
    let best := registerExtreme t true v p
    let least := registerExtreme t false v p
    ((∀ i, i < 256 / size → enabled p size i = false) → best = 2 ^ (8 * size - 1) ∧ least = 2 ^ (8 * size - 1) - 1) ∧
    (∀ i, i < 256 / size → enabled p size i = true →
      signed size (elem v size i) ≤ signed size best ∧ signed size least ≤ signed size (elem v size i) ∧
      (∃ j, j < 256 / size ∧ enabled p size j = true ∧ best = elem v size j) ∧
      (∃ j, j < 256 / size ∧ enabled p size j = true ∧ least = elem v size j))

/-- Predicates, spills, lanes and random vectors: PLOG by its table, PCNT and PFIRST to x, PSET below x, VSPILL and VFILL, VEXT and VINS of one
element, and VRAND by the counter DRNGC + x[xs] (R60, R131 to R136). -/
def Sys2Proof.Claims.PredicateSpillAndLaneResults : Prop :=
  ∀ (s : State) (t p d3 ps pt : BitVec 3) (d vs i4 j4 b : BitVec 4) (l : BitVec 8) (rs : BitVec 5),
    let size := typeSize t.toNat
    let n := 256 / size
    let k := 16 * i4.toNat + j4.toNat
    let on := fun i => (pred s p).getLsbD (i * size)
    let e := elem (vec s vs) size k
    let ctx := ctxOfCore s s.issue.core
    let counter := ((me s).dev.rngc + x s rs).toNat
    (∃ q, exec (.plog d3 ps pt b) s = .next (toP s d3 1 q) ∧ ∀ j, j < 256 →
      q.getLsbD j = b.getLsbD ((if (pred s ps).getLsbD j then 2 else 0) + (if (pred s pt).getLsbD j then 1 else 0))) ∧
    exec (.pcnt t p rs) s = .next (toX s rs 1 (BitVec.ofNat 64 ((List.range n).filter on).length)) ∧
    exec (.pfirst t p rs) s = .next (toX s rs 1 (BitVec.ofNat 64 (((List.range n).find? on).getD n))) ∧
    (∃ q, exec (.pset t d3 rs) s = .next (toP s d3 1 q) ∧ ∀ j, j < 256 → q.getLsbD j = decide (j / size < (x s rs).toNat)) ∧
    exec (.vspill vs l) s = .next (inFlight s (some (.spillV l.toNat)) (lands s 1) 0 0 (.spillV l.toNat (vec s vs))) ∧
    exec (.vfill d l) s = .next (toV s d 1 0 (spGet 0 (me s).loc.spillV l.toNat) (BitVec.allOnes 256)) ∧
    (k < n → exec (.vext t i4 vs j4 rs) s =
      .next (toX s rs 2 (if t.toNat ≤ 2 then BitVec.ofInt 64 (signed size e) else BitVec.ofNat 64 e))) ∧
    (k < n → ∃ v bytes, exec (.vins t d i4 j4 rs) s = .next (toV s d 2 0 v bytes) ∧
      elem v size k = (x s rs).toNat % 2 ^ (8 * size) ∧ ∀ j, j < 256 → bytes.getLsbD j = decide (j / size = k)) ∧
    mergesNat s (exec (.vrand d p rs) s) 4 d (pred s p) 6
      (fun lane => vectorRandom (ctx.key0 % 2 ^ 32) ((ctx.key1 % 2 ^ 32) ^^^ ((me s).dev.rngh.toNat % 2 ^ 32)) counter lane)

/-- The accumulator moves of VB on a ready accumulator: ACR converts one part of a row with latency 6; ACW writes a part, converted to FP32,
and ACSW a side register, interlocked; ACS copies a side register; each is held while the accumulator is not ready (R138 to R141). -/
def Sys2Proof.Claims.AccumulatorMoves : Prop :=
  ∀ (s : State) (t p m : BitVec 3) (d vs : BitVec 4) (c a : BitVec 2) (b l : BitVec 1) (r : BitVec 6),
    let core := me s
    let size := typeSize t.toNat
    let row := spGet 0 core.mx.acc (64 * c.toNat + r.toNat)
    let side := if l = 1 then spGet 0 core.mx.cl c.toNat else spGet cmRest core.mx.cm c.toNat
    let mine := fun i => decide (i / 64 = a.toNat) && (pred s p).getLsbD (i * size)
    let conv := fun i => convertFmt (.flt fp32) (typeFmt t.toNat) m.toNat (b == 1) 0 (elem row 4 (i - 64 * a.toNat))
    let put := fun (what : Payload) => inFlight s (some (.acc c.toNat)) none 0 0 what
    (accReady s c.toNat = true →
      (∃ v bytes, exec (.acr t d c b m p a r) s =
          .next (toV s d 6 (flagsOver (256 / size) (fun i => if mine i then (conv i).2 else 0)) v bytes) ∧
        (∀ i, i < 256 / size → mine i = true → elem v size i = (conv i).1 % 2 ^ (8 * size)) ∧
        ∀ j, j < 256 → bytes.getLsbD j = mine (j / size)) ∧
      (∃ v bytes, exec (.acw t c vs p a r) s = .next (put (.accRow c.toNat r.toNat v bytes)) ∧
        (∀ j, j < 64 → elem v 4 j =
          (convertFmt (typeFmt t.toNat) (.flt fp32) 0 false 0 (elem (vec s vs) size (64 * a.toNat + j))).1 % 2 ^ 32) ∧
        (64 * (a.toNat + 1) * size ≤ 256 → ∀ j, j < 256 → bytes.getLsbD j = (pred s p).getLsbD ((64 * a.toNat + j / 4) * size))) ∧
      mergesNat s (exec (.acs d l c p) s) 4 d (pred s p) 6 (fun i => elem side 4 i) ∧
      (∃ bytes, exec (.acsw l c vs p) s = .next (put (.side (l == 1) c.toNat (vec s vs) bytes)) ∧
        ∀ j, j < 256 → bytes.getLsbD j = (pred s p).getLsbD (j / 4 * 4))) ∧
    (accReady s c.toNat = false →
      exec (.acr t d c b m p a r) s = .next (slotHold s) ∧ exec (.acw t c vs p a r) s = .next (slotHold s) ∧
      exec (.acs d l c p) s = .next (slotHold s) ∧ exec (.acsw l c vs p) s = .next (slotHold s))

/-- A vector result lands under its byte enables: an enabled byte takes the result's, every other byte and every other register keeps its own,
and the flags that it raises are set; a predicate lands whole, and one to p0 is discarded (R20, R37, R118). -/
def Obligations.VectorAndPredicateResultsLand : Prop :=
  ∀ (c : Core) (e f : Pending) (b b' : Bool) (r r' : Nat) (v : Vec) (bytes q : Pred), e.what = .vec b r v bytes → f.what = .pred b r q →
    r < 16 → r' < 16 →
    let byte := fun (w : Vec) (j : Nat) => elem w 1 j
    (∀ j, j < 256 → byte ((c.land e).regs.readV b r) j = if bytes.getLsbD j then byte v j else byte (c.regs.readV b r) j) ∧
    ((b', r') ≠ (b, r) → (c.land e).regs.readV b' r' = c.regs.readV b' r') ∧
    (c.land e).regs.x = c.regs.x ∧ (c.land e).regs.p = c.regs.p ∧ (c.land e).dev.flags = c.dev.flags ||| e.flags ∧
    (r < 8 → (c.land f).regs.readP b r = if r = 0 then BitVec.allOnes 256 else q) ∧
    (r < 8 → r' < 8 → (b', r') ≠ (b, r) → (c.land f).regs.readP b' r' = c.regs.readP b' r') ∧
    (c.land f).regs.x = c.regs.x ∧ (c.land f).regs.v = c.regs.v

namespace Sys2Proof.Claims
open Sys2Proof.Machine

/-- Everything but what the issuing core has in flight is as it was: every byte of memory and tag, every context, every other core, and
of the issuing core every register, local memory, flag, device register, accumulator, wait and job; at most one result joins its
flight. -/
def onlyInFlight (s t : State) : Prop :=
  let c := me s
  let d := getCore t s.issue.core
  (∀ a, rawByte t a = rawByte s a) ∧ t.tags = s.tags ∧ t.ctxs = s.ctxs ∧ t.hw = s.hw ∧ t.chorus = s.chorus ∧ t.link = s.link ∧
  t.host = s.host ∧ t.plat = s.plat ∧ (∀ n, n ≠ s.issue.core → getCore t n = getCore s n) ∧
  ∃ added, d = { c with pend := c.pend ++ added, nextId := d.nextId } ∧ added.length ≤ 1

/-- The scalar instructions that read and write registers alone: the immediate and register forms of Table 4.3, counts of bits, and the
spills, which land in spill memory (R29, R108, R115, R116). -/
def scalarRegisterForm (i : Instr) : Bool :=
  match i with
  | .scalarNop | .lui _ _ | .addi _ _ _ | .slti _ _ _ | .sltiu _ _ _ | .xori _ _ _ | .ori _ _ _ | .andi _ _ _ | .slli _ _ _
  | .srli _ _ _ | .srai _ _ _ | .addiw _ _ _ | .slliw _ _ _ | .srliw _ _ _ | .sraiw _ _ _ | .add _ _ _ | .sub _ _ _ | .sll _ _ _
  | .slt _ _ _ | .sltu _ _ _ | .xor _ _ _ | .srl _ _ _ | .sra _ _ _ | .or _ _ _ | .and _ _ _ | .mul _ _ _ | .mulh _ _ _
  | .mulhsu _ _ _ | .mulhu _ _ _ | .div _ _ _ | .divu _ _ _ | .rem _ _ _ | .remu _ _ _ | .addw _ _ _ | .subw _ _ _ | .sllw _ _ _
  | .srlw _ _ _ | .sraw _ _ _ | .mulw _ _ _ | .divw _ _ _ | .divuw _ _ _ | .remw _ _ _ | .remuw _ _ _ | .clz _ _ | .ctz _ _
  | .popc _ _ | .spillx _ _ _ | .fillx _ _ _ => true
  | _ => false

end Sys2Proof.Claims

/-- An instruction of the vector and special-function slots, and a scalar one that reads and writes registers alone, changes nothing but what its
core has in flight: its result lands later, and until then every register, flag, byte and tag is as it was (R17, R74, R80, R117). -/
def Obligations.RegisterFormsChangeOnlyWhatIsInFlight : Prop :=
  ∀ (i : Instr) (s t : State), (homeSlot i = 3 ∨ homeSlot i = 5 ∨ scalarRegisterForm i = true) → exec i s = .next t → onlyInFlight s t

namespace Sys2Proof.Claims
open Sys2Proof.Machine

/-- The record that a slot names, as its fields. -/
def record (s : State) (b : BitVec 6) : Record := recordOf (spGet 0 (me s).regs.recs b.toNat)

/-- A predicate of the A cluster, which VM reads (R142). -/
def predA (s : State) (p : BitVec 3) : Pred := if p = 0 then BitVec.allOnes 256 else spGet 0 (me s).regs.p p.toNat

/-- A vector register of the A cluster. -/
def vecA (s : State) (r : BitVec 4) : Vec := spGet 0 (me s).regs.v r.toNat

/-- The units of a record access have their translations, wait for no prepared line and no earlier access to the same remote bytes, pass their
checks and meet no footprint of a job of the core (R75, R145, R147, R239, R263). -/
abbrev clear (s : State) (us : List (Nat × UnitCheck)) (store : Bool) : Prop :=
  unitWalks us = [] ∧ unitPrepared us = none ∧ unitFault us = none ∧ unitMeets s s.issue.core us store = false ∧ unitOrdered us = false

/-- A record's release, if its ORDER asks for one, is through (R238). -/
abbrev released (s : State) (r : Record) : Prop := r.order ≠ 2 ∨ s.issue.commit = true ∨ releaseReady s s.issue.core r.scope = true

/-- After an access, the acquire that a record's ORDER asks for is armed, unless the access was held, failed or stopped its core (R238). -/
def ordered (s t : State) (r : Record) : State :=
  if r.order = 1 ∧ t.issue.held = false ∧ t.issue.raised = s.issue.raised ∧ (me t).status = (me s).status then
    waitsPlain t (.fence 1 r.scope) 0
  else t

/-- The element index that a row access starts at: x[XO] + I (R148). -/
def start (s : State) (xo : BitVec 5) (i : BitVec 8) : Nat := ((x s xo).toNat + i.toNat) % 2 ^ 64

/-- The enabled elements below n of an access, each with its byte in the register and the checks of its offset. -/
def units (s : State) (r : Record) (n : Nat) (on : Nat → Bool) (off : Nat → Int) (read write tagged : Bool) : List (Nat × UnitCheck) :=
  ((List.range n).filter on).map (fun t =>
    (t * fmtSize r.fmt, checkUnit s s.issue.core (whoIs s s.issue.core) r (off t) (fmtSize r.fmt) (fmtSize r.fmt) read write tagged 0))

/-- The offset of element e of a record in row-major order, and t strides further (R144). -/
def offsetOf (r : Record) (e t : Int) : Int := r.offset e t

/-- The byte enables of the enabled elements of a size. -/
abbrev bytesOn (on : Nat → Bool) (size : Nat) (bytes : Pred) : Prop := ∀ j, j < 256 → bytes.getLsbD j = on (j / size)

end Sys2Proof.Claims

/-! ## The VM slot -/

/-- VLD, VLDS and VGTH through a well-formed record of an element format, with every unit clear: the units of their enabled elements (of a row
from k, of a stride from k, or at the lanes' indexes) are read in order, and the result lands with the latency of the record's space; the
record's ORDER is kept (R143 to R150, R238). -/
def Sys2Proof.Claims.VectorLoadsReadTheirUnits : Prop :=
  ∀ (s : State) (v : BitVec 5) (b : BitVec 6) (xo : BitVec 5) (xi : BitVec 4) (p : BitVec 3) (i : BitVec 8),
    let r := record s b
    let size := fmtSize r.fmt
    let n := 256 / size
    let on := fun t => (predA s p).getLsbD (t * size)
    let k := start s xo i
    let lane := fun t => (BitVec.ofNat 32 (elem (vecA s xi) 4 t)).toInt + (i.toNat : Int)
    let row := units s r n on (fun t => offsetOf r ((k + t : Nat) : Int) 0) true false false
    let stride := units s r n on (fun t => offsetOf r (k : Int) (t : Int)) true false false
    let gather := units s r (min n 64) on (fun t => offsetOf r (lane t) 0) true false false
    r.malformed = false → isElementFmt r.fmt = true → released s r →
    (clear s row false → ∃ bytes, bytesOn on size bytes ∧ exec (.vld v b xo p i) s = .next (ordered s (vectorLoad s r.space v bytes row) r)) ∧
    (clear s stride false → ∃ bytes, bytesOn on size bytes ∧
      exec (.vlds v b xo p i) s = .next (ordered s (vectorLoad s r.space v bytes stride) r)) ∧
    (clear s gather false → ∃ bytes, bytesOn (fun t => on t && decide (t < 64)) size bytes ∧
      exec (.vgth v b xi p i) s = .next (ordered s (vectorLoad s r.space v bytes gather) r))

/-- VLD and VST of an image, which takes no predicate: one unit of the image's bytes, with all bytes of the register written, or that many of
its bytes stored, under the unit rule of the format (R143, Table 6.2). -/
def Sys2Proof.Claims.ImageAccessesMoveOneUnit : Prop :=
  ∀ (s : State) (v : BitVec 5) (w : BitVec 4) (b : BitVec 6) (xo : BitVec 5) (i : BitVec 8),
    let r := record s b
    let k := start s xo i
    let one := fun (read write : Bool) =>
      [(0, checkUnit s s.issue.core (whoIs s s.issue.core) r (offsetOf r k 0) (imageBytes r.fmt) 1 read write false 0)]
    let whole := k % fmtUnit r.fmt = 0 ∧ r.rowlen % fmtUnit r.fmt = 0
    r.malformed = false → isElementFmt r.fmt = false → released s r →
    (whole → clear s (one true false) false →
      exec (.vld v b xo 0 i) s = .next (ordered s (vectorLoad s r.space v (BitVec.allOnes 256) (one true false)) r)) ∧
    (whole → clear s (one false true) true →
      exec (.vst w b xo 0 i) s = .next (ordered s (storeUnits (regBytes (vecA s w) (imageBytes r.fmt)) (one false true) s) r)) ∧
    (¬whole → r.order ≠ 1 →
      let cause := if isBlockFmt r.fmt then Cause.bounds else Cause.align
      exec (.vld v b xo 0 i) s = .next (slotFail s cause (r.address (offsetOf r k 0))) ∧
      exec (.vst w b xo 0 i) s = .next (slotFail s cause (r.address (offsetOf r k 0))))

/-- VST, VSTS, VSCT and VSTB through a well-formed record, with every unit clear: the enabled elements' bytes, or nibbles, are stored unit by
unit in ascending order, and the record's ORDER is kept (R148 to R150, R155, R238). -/
def Sys2Proof.Claims.VectorStoresWriteTheirUnits : Prop :=
  ∀ (s : State) (v : BitVec 4) (b : BitVec 6) (xo : BitVec 5) (xi : BitVec 4) (p : BitVec 3) (i : BitVec 8),
    let r := record s b
    let size := fmtSize r.fmt
    let n := 256 / size
    let on := fun t => (predA s p).getLsbD (t * size)
    let k := start s xo i
    let lane := fun t => (BitVec.ofNat 32 (elem (vecA s xi) 4 t)).toInt + (i.toNat : Int)
    let row := units s r n on (fun t => offsetOf r ((k + t : Nat) : Int) 0) false true false
    let stride := units s r n on (fun t => offsetOf r (k : Int) (t : Int)) false true false
    let scatter := units s r (min n 64) on (fun t => offsetOf r (lane t) 0) false true false
    let put := fun us => ordered s (storeUnits (regBytes (vecA s v) size) us s) r
    let nibbles := nibbleUnits s r k p
    r.malformed = false → released s r →
    (isElementFmt r.fmt = true →
      (clear s row true → exec (.vst v b xo p i) s = .next (put row)) ∧
      (clear s stride true → exec (.vsts v b xo p i) s = .next (put stride)) ∧
      (clear s scatter true → exec (.vsct v b xi p i) s = .next (put scatter))) ∧
    (isPacked4 r.fmt = true → clear s nibbles true →
      exec (.vstb v b xo p i) s = .next (ordered s (storeNibbles r k (vecA s v) nibbles s) r))

/-- The units of a vector load in core scratchpad: each element of the result is the number that its bytes hold, memory and tags stay, and the
result lands with latency 4; from cluster memory with latency 16 (R146, Table 3.5). -/
def Sys2Proof.Claims.VectorLoadCollectsItsElements : Prop :=
  ∀ (s : State) (v : BitVec 5) (mask : Pred) (size space latency : Nat) (es : List (Nat × Nat × Nat)),
    size = 1 ∨ size = 2 ∨ size = 4 → (space = 3 ∧ latency = 4) ∨ (space = 1 ∧ latency = 16) →
    es.Pairwise (fun a b => a.1 < b.1) → (∀ e ∈ es, e.1 < 256 / size ∧ 2 ^ 41 ≤ e.2.2) →
    let us := es.map (fun e => (e.1 * size, UnitCheck.go [{ off := 0, len := size, va := e.2.1, acc := .here e.2.2 }]))
    ∃ s' value, vectorLoad s space v mask us =
        inFlight s' (some (.v (decide (16 ≤ v.toNat)) (v.toNat % 16))) (lands s latency) 0 0
          (.vec (decide (16 ≤ v.toNat)) (v.toNat % 16) value mask) ∧
      (∀ e ∈ es, elem value size e.1 = rawNat s e.2.2 size) ∧ s'.mem = s.mem ∧ s'.tags = s.tags ∧ sameRegisters s s'

/-- The units of a vector store in local memory that share no byte: each holds its element's bytes, every other byte of memory and every tag
is as before, and no register changes (R147). -/
def Sys2Proof.Claims.VectorStoreWritesOnlyItsElements : Prop :=
  ∀ (s : State) (w : Vec) (size : Nat) (es : List (Nat × Nat × Nat)),
    size = 1 ∨ size = 2 ∨ size = 4 → noTagWaits s → (∀ e ∈ es, e.1 < 256 / size ∧ 2 ^ 40 ≤ e.2.2) →
    es.Pairwise (fun a b => a.2.2 + size ≤ b.2.2 ∨ b.2.2 + size ≤ a.2.2) →
    let us := es.map (fun e => (e.1 * size, UnitCheck.go [{ off := 0, len := size, va := e.2.1, acc := .here e.2.2 }]))
    let t := storeUnits (regBytes w size) us s
    (∀ e ∈ es, rawNat t e.2.2 size = elem w size e.1) ∧
    (∀ q, (∀ e ∈ es, q < e.2.2 ∨ e.2.2 + size ≤ q) → rawByte t q = rawByte s q) ∧ t.tags = s.tags ∧ sameRegisters s t

/-- A VM access fails with ILLEGAL, at the address its record was loaded from, where the record is malformed or of a format that the
instruction does not take; with the smallest cause of its units, at the lowest unit that has it; and before that waits: for translations,
which it asks for, for a prepared line, and where a unit meets a job or an earlier access to the same remote bytes, whatever its checks say
(R26, R75, R142, R145, R147, R155, R156, R239, R263, R328, Table 6.3). -/
def Sys2Proof.Claims.RecordAccessesFailAsTheirUnits : Prop :=
  ∀ (s : State) (v : BitVec 5) (w : BitVec 4) (b : BitVec 6) (xo : BitVec 5) (xi : BitVec 4) (p : BitVec 3) (i : BitVec 8) (o : BitVec 5)
    (us : List (Nat × UnitCheck)) (store : Bool) (act : State → State) (c : Cause) (a : Nat) (walk : Nat) (walks : List Nat),
    let r := record s b
    let bad : Instr → Prop := fun j => exec j s = .next (slotFail s .illegal (spGet 0 (me s).regs.recAddr b.toNat))
    (r.malformed = true → bad (.vld v b xo p i) ∧ bad (.vst w b xo p i) ∧ bad (.vlds v b xo p i) ∧ bad (.vsts w b xo p i) ∧
      bad (.vgth v b xi p i) ∧ bad (.vsct w b xi p i) ∧ bad (.vldf v b xo p i) ∧ bad (.vste w b xo p i) ∧ bad (.vstb w b xo p i) ∧
      bad (.vred w b xo p o) ∧ bad (.vpref b xo p i)) ∧
    (isElementFmt r.fmt = false → bad (.vlds v b xo p i) ∧ bad (.vsts w b xo p i) ∧ bad (.vgth v b xi p i) ∧ bad (.vsct w b xi p i) ∧
      (p ≠ 0 → bad (.vld v b xo p i) ∧ bad (.vst w b xo p i) ∧ bad (.vpref b xo p i))) ∧
    (isPacked4 r.fmt = false → bad (.vstb w b xo p i)) ∧
    (r.fmt ≠ 0x04 → r.fmt ≠ 0x05 → r.fmt ≠ 0x08 → bad (.vldf v b xo p i) ∧ bad (.vste w b xo p i)) ∧
    (o.toNat < 8 → r.fmt ≠ 0x04 → r.fmt ≠ 0x05 → bad (.vred w b xo p o)) ∧
    (8 ≤ o.toNat → r.fmt ≠ 0x08 → bad (.vred w b xo p o)) ∧
    (unitWalks us = walk :: walks → recordAccess s us store act =
      slotHold ((walk :: walks).foldl (fun t q => requestWalk t (slotOfCore t s.issue.core) q) s)) ∧
    (unitWalks us = [] → unitPrepared us = some a → recordAccess s us store act = holdForPrepared s a) ∧
    (unitWalks us = [] → unitPrepared us = none → unitOrdered us = false → unitMeets s s.issue.core us store = false →
      unitFault us = some (c, a) → recordAccess s us store act = slotFail s c a) ∧
    (unitFault us = some (c, a) → (∀ u ∈ us, ∀ d y z, u.2 = .fails d y z → c.code ≤ d.code) ∧
      ∃ before u after, us = before ++ u :: after ∧ (∃ z, u.2 = .fails c a z) ∧ ∀ q ∈ before, ∀ d y z, q.2 = .fails d y z → c.code < d.code) ∧
    (unitWalks us = [] → unitPrepared us = none → unitOrdered us = true ∨ unitMeets s s.issue.core us store = true →
      recordAccess s us store act = slotHold s)

/-- A unit at a page of another package: a load asks its home for the bytes, which join the interlocked result as they come; a store sends
its bytes; a nibble of VSTB is a masked reduction (log entry 11) and an element of VRED a reduction, ordered or not, sent to the home of its
word (R147, R155 to R157, R239). What a log entry is named for is the model's choice, no rule of the spec. -/
def Sys2Proof.Claims.VectorUnitsAtRemotePages : Prop :=
  ∀ (s : State) (v : BitVec 5) (w : Vec) (mask : Pred) (at' e len va node addr op name j c : Nat) (high : Bool),
    let part : UnitPart := { off := 0, len := len, va := va, acc := .away 1 node addr }
    let us := [(at', UnitCheck.go [part])]
    let dest := (decide (16 ≤ v.toNat), v.toNat % 16)
    vectorLoad s 0 v mask us = inFlight (requestLoad s 1 node addr va len (me s).nextId at' false none)
      (some (.v dest.1 dest.2)) none 1 0 (.vec dest.1 dest.2 0 mask) ∧
    storeUnits (regBytes w len) us s = storeAway s 1 node addr va (bytesOf len (field w.toNat (8 * at') (8 * len))) ∧
    storeNibble s high e part = (reduceAway s 1 node addr va 1 (if high then 17 else 16) e 0 0 0, false) ∧
    reduceWords op w us s = reduceAway s 1 node addr va 4 op (elem w 4 (at' / 4)) 0 0 0 ∧
    contributeWords name j c w us s = reduceAway s 1 node addr va 4 0x18 (elem w 4 (at' / 4)) j c name

/-- Offsets and their resolution: element e of rows of ROWLEN elements lies in row e div ROWLEN (one row where ROWLEN is 0), t strides further;
a byte outside the extent faults, is left out, wraps or is accessed as the boundary mode says (R144). -/
def Sys2Proof.Claims.RecordOffsetsResolve : Prop :=
  ∀ (r : Record) (e t o : Int) (size : Nat), isElementFmt r.fmt = true →
    let outside := o < 0 ∨ (r.extent : Int) < o + size
    (r.rowlen = 0 → r.offset e t = e * fmtSize r.fmt + t * r.stride2) ∧
    (0 < r.rowlen → r.offset e t = e / r.rowlen * r.stride1 + e % r.rowlen * fmtSize r.fmt + t * r.stride2) ∧
    (r.bmode = 0 → r.resolve o size = if outside then .bounds else .at o) ∧
    (r.bmode = 1 → r.resolve o size = if outside then .none else .at o) ∧
    (r.bmode = 2 → r.resolve o size =
      if r.extent = 0 ∨ (r.extent : Int) < o % r.extent + size then .bounds else .at (o % r.extent)) ∧
    (r.bmode = 3 → r.resolve o size = .at o)

/-- Lane slices and rings: VLDL and VSTL act on the word of each enabled lane's own slice, and fail with ALIGN or BOUNDS at the first such
lane, a load with ECC_UNCORR where an uncorrectable error stands in a word it reads, which a store mends; VPUSH claims a free slot, writes it and fills it at issue + 1; VPOP claims the oldest filled slot, reads it with latency 4 and frees
it; a ring that is disabled or of another slot size fails with RING, and a full or empty one is waited for (R151, R154, R338; where some
lanes fail ALIGN and others BOUNDS, ALIGN prevails, which is the model's reading, log entry 17).
What a log entry is named for is the model's choice, no rule of the spec. -/
def Obligations.LaneSlicesAndRings : Prop :=
  ∀ (s : State) (v : BitVec 5) (w xi q : BitVec 4) (p : BitVec 3) (i : BitVec 8) (l : Nat),
    let c := me s
    let n := s.issue.core
    let on := fun m => (predA s p).getLsbD (4 * m)
    let off := fun m => elem (vecA s xi) 4 m + 4 * i.toNat
    let good := ∀ m, m < 64 → on m = true → off m % 4 = 0 ∧ off m < 4096
    let dest := (decide (16 ≤ v.toNat), v.toNat % 16)
    let ring := c.regs.ring q.toNat
    let usable := ring.cap ≠ 0 ∧ ring.slot = 256
    let at' := fun slot => ring.base + 256 * slot
    let pushed := meIs s { c with regs := c.regs.setRing q.toNat { ring with free := ring.free - 1, tail := (ring.tail + 1) % ring.cap } }
    let popped := meIs s { c with regs := c.regs.setRing q.toNat { ring with filled := ring.filled - 1, head := (ring.head + 1) % ring.cap } }
    let stored := (storeAt pushed (.core n) (whoIs pushed n) (0xFF0000000000 + at' ring.tail) (corePlace n (at' ring.tail))
      (bytesOf 256 (vecA s w).toNat)).1
    let got := coreRead popped n (whoIs popped n) (corePlace n (at' ring.head)) 256
    (good → (∀ m, m < 64 → on m = true → CoreWord.slice (1024 * m + off m / 4) ∉ c.bad) → ∃ value bytes, exec (.vldl v xi p i) s =
        .next (inFlight s (some (.v dest.1 dest.2)) (lands s 2) 0 0 (.vec dest.1 dest.2 value bytes)) ∧ bytesOn on 4 bytes ∧
      ∀ m, m < 64 → on m = true → elem value 4 m = (spGet 0 c.loc.slices (1024 * m + off m / 4)).toNat) ∧
    (good → (∃ m, m < 64 ∧ on m = true ∧ CoreWord.slice (1024 * m + off m / 4) ∈ c.bad) →
      exec (.vldl v xi p i) s = .next (slotFail s .eccUncorr 0)) ∧
    (good → ∃ t, exec (.vstl w xi p i) s = .next t ∧
      t = meIs s { c with loc := { c.loc with slices := (me t).loc.slices }, bad := (me t).bad } ∧
      (∀ b, b ∈ (me t).bad ↔ b ∈ c.bad ∧ ∀ m, m < 64 → on m = true → b ≠ .slice (1024 * m + off m / 4)) ∧
      ∀ m k, m < 64 → k < 1024 → spGet 0 (me t).loc.slices (1024 * m + k) =
        if on m = true ∧ off m / 4 = k then BitVec.ofNat 32 (elem (vecA s w) 4 m) else spGet 0 c.loc.slices (1024 * m + k)) ∧
    (l < 64 → on l = true → off l % 4 ≠ 0 → (∀ m, m < l → on m = true → off m % 4 = 0) →
      exec (.vldl v xi p i) s = .next (slotFail s .align (off l)) ∧ exec (.vstl w xi p i) s = .next (slotFail s .align (off l))) ∧
    (l < 64 → on l = true → 4096 ≤ off l → (∀ m, m < 64 → on m = true → off m % 4 = 0) → (∀ m, m < l → on m = true → off m < 4096) →
      exec (.vldl v xi p i) s = .next (slotFail s .bounds (off l)) ∧ exec (.vstl w xi p i) s = .next (slotFail s .bounds (off l))) ∧
    (usable → 0 < ring.free → meetsJobs s n ⟨3, at' ring.tail, at' ring.tail + 256⟩ true = false →
      exec (.vpush w q) s = .next (inFlight stored none (lands s 1) 0 0 (.ringFilled q.toNat))) ∧
    (usable → 0 < ring.filled → meetsJobs s n ⟨3, at' ring.head, at' ring.head + 256⟩ false = false →
      exec (.vpop v q) s = .next (inFlight (inFlight got.1 none (lands s 1) 0 0 (.ringFreed q.toNat)) (some (.v dest.1 dest.2)) (lands s 4) 0 0
        (.vec dest.1 dest.2 (BitVec.ofNat 2048 (ofBytes got.2)) (BitVec.allOnes 256)))) ∧
    (¬usable → exec (.vpush w q) s = .next (slotFail s .ring 0) ∧ exec (.vpop v q) s = .next (slotFail s .ring 0)) ∧
    (usable → ring.free = 0 → exec (.vpush w q) s = .next (slotHold s)) ∧
    (usable → ring.filled = 0 → exec (.vpop v q) s = .next (slotHold s)) ∧
    exec .vmNop s = .next s

/-- Tagged vector access, reduction and prefetch through a well-formed record: VLDF and VSTE arm the words of their enabled lanes; VRED sends
each enabled element to its word in ascending order, VRED.OFADD as contributions under the ordinal and count of x[XO + 1], with BOUNDS for
a bad count; VPREF changes the hint-drop counter, by one for each element that is dropped or for a dropped image (log entry 67), and posts
the page-table events of the walks that it makes (R152, R156, R157, R159, R335, R348).
What a log entry is named for is the model's choice, no rule of the spec. -/
def Sys2Proof.Claims.TaggedReducedAndPrefetchedVectors : Prop :=
  ∀ (s : State) (v : BitVec 5) (w : BitVec 4) (b : BitVec 6) (xo : BitVec 5) (p : BitVec 3) (i : BitVec 8) (o : BitVec 5),
    let r := record s b
    let n := s.issue.core
    let on := fun l => (predA s p).getLsbD (4 * l)
    let k := start s xo i
    let dest := (decide (16 ≤ v.toNat), v.toNat % 16)
    let words := fun (read write : Bool) => units s r 64 (fun l => (predA s p).getLsbD (l * fmtSize r.fmt)) (fun l => offsetOf r ((k + l : Nat) : Int) 0) read write true
    let sends := reduceUnits s r (x s xo).toNat p
    let jc := (rx s (xo.toNat + 1)).toNat
    let first := match r.resolve (offsetOf r (x s xo).toNat 0) 4 with
      | .at y => r.address y
      | _ => r.address (offsetOf r (x s xo).toNat 0)
    r.malformed = false → released s r →
    (wordRecordOk r = true → clear s (words true false) false → ∃ mask, bytesOn on 4 mask ∧
      exec (.vldf v b xo p i) s = .next (ordered s (armSync (inFlight s (some (.v dest.1 dest.2)) none 1 0 (.vec dest.1 dest.2 0 mask)) n
        { id := (me s).nextId, kind := .vldf, place := 0, rd := none, armed := 0, vdest := some dest,
          elems := tagElems (fun _ => 0) (words true false), mask := mask }) r)) ∧
    (wordRecordOk r = true → clear s (words false true) true →
      exec (.vste w b xo p i) s = .next (ordered s (armSync (meIs s { me s with nextId := (me s).nextId + 1 }) n
        { id := (me s).nextId, kind := .vste, place := 0, rd := none, armed := 0,
          elems := tagElems (fun l => elem (vecA s w) 4 l) (words false true) }) r)) ∧
    (o.toNat < 9 → reduceFmtOk o.toNat r = true → clear s sends true →
      exec (.vred w b xo p o) s = .next (ordered s (reduceWords o.toNat (vecA s w) sends s) r)) ∧
    (o = 0x18 → r.fmt = 0x08 → clear s sends true → 0 < jc / 2 ^ 32 % 2 ^ 32 → jc % 2 ^ 32 < jc / 2 ^ 32 % 2 ^ 32 →
      exec (.vred w b xo p o) s =
        .next (ordered s (contributeWords (sequenceName s n first) (jc % 2 ^ 32) (jc / 2 ^ 32 % 2 ^ 32) (vecA s w) sends s) r)) ∧
    (o = 0x18 → r.fmt = 0x08 → r.order ≠ 1 → clear s sends true → jc / 2 ^ 32 % 2 ^ 32 ≤ jc % 2 ^ 32 →
      exec (.vred w b xo p o) s = .next (slotFail s .bounds first)) ∧
    (isElementFmt r.fmt = true ∨ p = 0 →
      let hints : List (Int × Nat) :=
        if isElementFmt r.fmt then ((List.range (256 / fmtSize r.fmt)).filter (fun l => (predA s p).getLsbD (l * fmtSize r.fmt))).map
          (fun l => (offsetOf r ((k + l : Nat) : Int) 0, fmtSize r.fmt))
        else [(offsetOf r (k : Int) 0, imageBytes r.fmt)]
      exec (.vpref b xo p i) s = .next (countDrops (reportHints s (hints.flatMap (fun u => hintPages s r u.1 u.2)))
        (hints.filter (fun u => hintDropped s r u.1 u.2)).length))

namespace Sys2Proof.Claims
open Sys2Proof.Machine

/-- The ring of the issuing core that a word names. -/
def ringOf (s : State) (q : BitVec 4) : Ring := (me s).regs.ring q.toNat

/-- A ring from which rows are read holds enough of them for this instruction's checks (R168). -/
abbrev readable (r : Ring) (count : Nat) : Prop := r.cap ≠ 0 ∧ count ≤ r.cap ∧ mxClass r.fmt ≠ 0 ∧ mxRowBytes r.fmt ≤ r.slot

/-- A ring to which rows are pushed takes this instruction's rows (R168). -/
abbrev writable (r : Ring) (count bytes : Nat) (fmtOk : Prop) : Prop := r.cap ≠ 0 ∧ count ≤ r.cap ∧ fmtOk ∧ bytes ≤ r.slot

/-- The issuing core's array accepts an instruction on accumulator k: its occupancy has passed, no MTL runs, and no interlocked result to the
accumulator from an earlier bundle is pending (R173, R180, R81, R138). -/
abbrev arrayAccepts (s : State) (k : BitVec 2) : Prop :=
  (me s).mx.busy ≤ (me s).now ∧ (∀ o ∈ (me s).mx.queue, o.kind ≠ .mtl) ∧ slotInterlocked s (.acc k.toNat) = false

/-- Rows are claimed for reading from a ring of the issuing core (R167). -/
def rowsClaimed (s : State) (q : BitVec 4) (count : Nat) : State :=
  let r := ringOf s q
  meIs s { me s with regs := (me s).regs.setRing q.toNat { r with filled := r.filled - count, head := (r.head + count) % r.cap } }

/-- Slots are claimed for writing in a ring of the issuing core (R167). -/
def slotsClaimed (s : State) (q : BitVec 4) (count : Nat) : State :=
  let r := ringOf s q
  meIs s { me s with regs := (me s).regs.setRing q.toNat { r with free := r.free - count, tail := (r.tail + count) % r.cap } }

/-- An instruction enters the matrix unit's queue behind the earlier ones, and its array, or its load path, is occupied (R166, R180). -/
def queued (s : State) (cycles : Nat) (load : Bool) (o : MxOp) : State :=
  let c := me s
  meIs s { c with
    nextId := c.nextId + 1
    mx := { c.mx with queue := c.mx.queue ++ [{ o with id := c.nextId }], busy := if load then c.mx.busy else c.now + cycles
                      loadBusy := if load then c.now + cycles else c.mx.loadBusy } }

/-- The places of the next rows of a ring of core n, from a position. -/
def places (n : Nat) (r : Ring) (first count : Nat) : List Nat :=
  (List.range count).map (fun i => corePlace n (r.base + r.slot * ((first + i) % r.cap)))

end Sys2Proof.Claims

/-! ## The MX slot -/

/-- Every MX instruction completes, on conditions on the state and operands alone. MX_NOP always does. MWL with its load path free, its plane
unread and 64 rows of a good ring; MMA, MMZ and MTL with the array free, the accumulator's earlier results landed and their rows in a good ring
of the plane's class; MSM and MOUT with the array free and free slots in a good ring; MCLR and MSIDE with the array free: each claims what it
reads or writes and enters the queue with its occupancy. MMG on the first core of a cluster, with every member joined and its rings, planes and
rows in order, enters the queue of all sixteen members, each band's source claiming and reading the band's rows. MWAIT passes when the unit is
idle, and with GANG once its gang is done (R164 to R180, Table 7.5). -/
def Obligations.MatrixInstructionsEnterTheQueue : Prop :=
  ∀ (s : State) (c o m : BitVec 2) (q : BitVec 4) (k row : BitVec 6) (l z : BitVec 1),
    let u := me s
    let n := s.issue.core
    let r := ringOf s q
    let count := k.toNat + 1
    let shape := fun f => u.regs.readShape 1 m.toNat f
    let f1 := (shape 1).toNat
    let f2 := (shape 2).toNat
    let wr := u.regs.ring (field f2 12 4)
    let plane := mxClass r.fmt = mxClass (planeFmtAfter u.mx l.toNat)
    let seqOp : MxOp := { id := 0, kind := .mtl, acc := c.toNat, ring := q.toNat, wring := field f2 12 4, plane := l.toNat,
                          row := row.toNat, count := count, zero := bitAt f2 17, fmt := r.fmt, wfmt := wr.fmt,
                          steps := field f2 0 12 + 1, reload := bitAt f2 16, stepping := true, slots := places n r r.head count }
    exec .mxNop s = .next s ∧
    (u.mx.loadBusy ≤ u.now → planeRead u.mx l.toNat = false → (∀ e ∈ u.mx.queue, e.kind ≠ .mtl) → readable r 64 → 64 ≤ r.filled →
      exec (.mwl q l) s = .next (queued (rowsClaimed s q 64) 64 true
        { id := 0, kind := .mwl, ring := q.toNat, plane := l.toNat, count := 64, fmt := r.fmt, slots := places n r r.head 64 })) ∧
    (arrayAccepts s c → readable r count → plane → count ≤ r.filled →
      exec (.mma c q k l row) s = .next (queued (rowsClaimed s q count) count false
        { id := 0, kind := .mma, acc := c.toNat, ring := q.toNat, plane := l.toNat, row := row.toNat, count := count, fmt := r.fmt
          slots := places n r r.head count }) ∧
      exec (.mmz c q k l row) s = .next (queued (rowsClaimed s q count) count false
        { id := 0, kind := .mmz, acc := c.toNat, ring := q.toNat, plane := l.toNat, row := row.toNat, count := count, zero := true
          fmt := r.fmt, slots := places n r r.head count })) ∧
    (arrayAccepts s c → mtlFieldOk f2 q.toNat = true → readable r count → plane → count ≤ r.filled →
      (bitAt f2 16 = true → u.mx.loadBusy ≤ u.now ∧ readable wr 64 ∧ mxClass wr.fmt = mxClass r.fmt) →
      exec (.mtl c q k l m row) s = .next (queued (rowsClaimed s q count) (mtlCycles seqOp) false seqOp)) ∧
    (arrayAccepts s c → slotInterlocked s (.acc o.toNat) = false → writable r count 128 (r.fmt = 0x09) → count ≤ r.free →
      exec (.msm c q k m row o) s = .next (queued (slotsClaimed s q count) (4 * count) false
        { id := 0, kind := .msm, acc := c.toNat, out := o.toNat, ring := q.toNat, row := row.toNat, count := count, shape := shape 0
          fmt := r.fmt, outs := places n r r.tail count })) ∧
    (arrayAccepts s c → moutFieldOk f1 = true → writable r count (moutBytes r.fmt) (moutFmt r.fmt = true) → count ≤ r.free →
      exec (.mout c q k m row) s = .next (queued (slotsClaimed s q count) count false
        { id := 0, kind := .mout, acc := c.toNat, ring := q.toNat, row := row.toNat, count := count, shape := shape 1, fmt := r.fmt
          outs := places n r r.tail count })) ∧
    (arrayAccepts s c → exec (.mclr c z) s = .next (queued s 1 false { id := 0, kind := .mclr, acc := c.toNat, zero := z == 1 })) ∧
    (arrayAccepts s c →
      exec (.mside c o m) s = .next (queued s 1 false { id := 0, kind := .mside, acc := c.toNat, out := o.toNat, shape := shape 3 })) ∧
    (u.mx.queue = [] → exec (.mwait 0) s = .next s) ∧
    (u.logical % 16 ≠ 0 → u.mx.gangDone = true →
      exec (.mwait 1) s = .next (meIs s { u with mx := { u.mx with joined := false, gangDone := false } })) ∧
    (u.logical % 16 = 0 → arrayAccepts s c → gangJoined s n c.toNat = true → gangRingsOk s n q.toNat count l.toNat = true →
      gangRowsReady s n q.toNat count = true →
      exec (.mmg c q k l z row) s = .next ((List.range 4).foldl (fun st b => claimRows st (memberOf n (4 * b)) q.toNat count)
        ((List.range 16).foldl (fun st j => gangMember st n c.toNat q.toNat count l.toNat row.toNat (z == 1) j) s)))

/-- An MX instruction is held until its array accepts it; then one whose ring is disabled, too small, of a wrong format or of another class
than its plane fails with RING, and it is held while its rows or slots are not there. MTL and MOUT test the field they read once nothing holds
them any longer, and of two failing checks the smaller cause counts. MMG is held until every member has joined, and is ILLEGAL on a core that
is not the first of its cluster; MWAIT waits for the unit, and with GANG joins its member (R75, R76, R164, R165, R167, R168, R172, R179). -/
def Sys2Proof.Claims.MatrixIssueChecks : Prop :=
  ∀ (s : State) (c m o : BitVec 2) (q : BitVec 4) (k row : BitVec 6) (l z : BitVec 1),
    let u := me s
    let n := s.issue.core
    let r := ringOf s q
    let count := k.toNat + 1
    let plane := mxClass r.fmt = mxClass (planeFmtAfter u.mx l.toNat)
    let f1 := (u.regs.readShape 1 m.toNat 1).toNat
    let f2 := (u.regs.readShape 1 m.toNat 2).toNat
    let wr := u.regs.ring (field f2 12 4)
    let writes := writable r count (moutBytes r.fmt) (moutFmt r.fmt = true)
    let loads := bitAt f2 16 = true → readable wr 64 ∧ mxClass wr.fmt = mxClass r.fmt
    let pathFree := bitAt f2 16 = true → u.mx.loadBusy ≤ u.now
    (arrayAccepts s c → ¬(readable r count ∧ plane) →
      exec (.mma c q k l row) s = .next (slotFail s .ring 0) ∧ exec (.mmz c q k l row) s = .next (slotFail s .ring 0)) ∧
    (arrayAccepts s c → readable r count → plane → r.filled < count →
      exec (.mma c q k l row) s = .next (slotHold s) ∧ exec (.mmz c q k l row) s = .next (slotHold s)) ∧
    (arrayAccepts s c → slotInterlocked s (.acc o.toNat) = false → ¬writable r count 128 (r.fmt = 0x09) →
      exec (.msm c q k m row o) s = .next (slotFail s .ring 0)) ∧
    (arrayAccepts s c → ¬writes →
      exec (.mout c q k m row) s = .next (slotFail s (if moutFieldOk f1 then .ring else .illegal) 0)) ∧
    (arrayAccepts s c → writes → r.free < count → exec (.mout c q k m row) s = .next (slotHold s)) ∧
    (arrayAccepts s c → writes → count ≤ r.free → moutFieldOk f1 = false →
      exec (.mout c q k m row) s = .next (slotFail s .illegal 0)) ∧
    (arrayAccepts s c → pathFree → ¬(readable r count ∧ plane ∧ loads) →
      exec (.mtl c q k l m row) s = .next (slotFail s (if mtlFieldOk f2 q.toNat then .ring else .illegal) 0)) ∧
    (arrayAccepts s c → pathFree → readable r count → plane → loads → r.filled < count →
      exec (.mtl c q k l m row) s = .next (slotHold s)) ∧
    (arrayAccepts s c → pathFree → readable r count → plane → loads → count ≤ r.filled → mtlFieldOk f2 q.toNat = false →
      exec (.mtl c q k l m row) s = .next (slotFail s .illegal 0)) ∧
    (¬arrayAccepts s c →
      exec (.mma c q k l row) s = .next (slotHold s) ∧ exec (.mmz c q k l row) s = .next (slotHold s) ∧
      exec (.mtl c q k l m row) s = .next (slotHold s) ∧ exec (.msm c q k m row o) s = .next (slotHold s) ∧
      exec (.mout c q k m row) s = .next (slotHold s) ∧ exec (.mclr c z) s = .next (slotHold s) ∧
      exec (.mside c o m) s = .next (slotHold s)) ∧
    (u.logical % 16 = 0 → gangJoined s n c.toNat = false → exec (.mmg c q k l z row) s = .next (slotHold s)) ∧
    (u.logical % 16 ≠ 0 → exec (.mmg c q k l z row) s = .next (slotFail s .illegal 0)) ∧
    (u.mx.queue ≠ [] → exec (.mwait 0) s = .next (slotHold s)) ∧
    (u.logical % 16 = 0 → exec (.mwait 1) s = .next (slotFail s .illegal 0)) ∧
    (u.logical % 16 ≠ 0 → u.mx.gangDone = false →
      exec (.mwait 1) s = .next (slotHold (meIs s { u with mx := { u.mx with joined := true } })))

/-- The events of the matrix unit: the next claimed row is read and its slot freed; the oldest instruction pushes its next row; an MTL claims
its weights, completes its step or begins the next; and the oldest instruction that is through lands its results with its flags and leaves the
queue. MCLR leaves its accumulator zero, with RESET also the side registers at rest, and MSIDE sets what it names (R163, R166, R167, R173,
R176, R177); a save that awaits the unit sees progress (R318, R326). -/
def Sys2Proof.Claims.MatrixEventsAdvanceTheUnit : Prop :=
  ∀ (s : State) (n p : Nat) (ps : List Nat) (o : MxOp) (rest : List MxOp) (m : MatrixUnit) (i : Nat),
    let c := getCore s n
    let row := rawNat s p (mxRowBytes o.fmt)
    let read := loads s (.engine n) p (mxRowBytes o.fmt)
    let r := c.regs.ring o.ring
    let res := mxResult c.mx o
    (readerOf c = some o → o.slots = p :: ps → o.gang = [] →
      exec (.mxSlotRelease n) s =
        .next (freeSlot (modCore (if o.kind = .mwl then read else countMacs read n) n (fun k => setMxOp k { o with slots := ps, rows := o.rows ++ [row] })) n o.ring)) ∧
    (readerOf c = none → exec (.mxSlotRelease n) s = .next s) ∧
    (c.mx.queue = o :: rest → o.outs = p :: ps →
      exec (.mxRowPush n) s = .next (modCore (writeAs s (.engine n) p (bytesOf r.slot (nextOut c o))) n (fun k =>
        { setMxOp k { o with outs := ps } with
          regs := k.regs.setRing o.ring { k.regs.ring o.ring with filled := (k.regs.ring o.ring).filled + 1 } }))) ∧
    (c.mx.queue = o :: rest → o.kind = .mtl → o.stepping = true → o.reload = false → o.rows.length = o.count →
      exec (.mtlStep n) s = .next (modCore s n (fun k => mtlComplete k o))) ∧
    (c.mx.queue = o :: rest → o.kind = .mtl → o.stepping = false → o.step < o.steps → o.count ≤ r.filled → c.status = .running →
      exec (.mtlStep n) s = .next (modCore (claimRows s n o.ring o.count) n (fun k =>
        let k1 := setMxOp k { o with stepping := true, slots := filledPlaces n r o.count }
        { k1 with mx := { k1.mx with busy := k.now + mtlCycles o } }))) ∧
    (c.mx.queue = o :: rest → mxReady o = true →
      exec (.mxFinish n) s = .next (savePulse (setCore s n { c with
        mx := { res.1 with queue := rest, gangDone := res.1.gangDone || (o.kind == .mmg && res.1.joined) }
        dev := { c.dev with flags := c.dev.flags ||| res.2 } }) (slotOfCore s n))) ∧
    (o.kind = .mclr → i < 64 → (mxResult m o).1.readRow o.acc i = 0 ∧ (mxResult m o).2 = 0 ∧
      (∀ a, a ≠ o.acc → (mxResult m o).1.readRow a i = m.readRow a i) ∧
      (o.zero = true → (mxResult m o).1.readSide false o.acc = cmRest ∧ (mxResult m o).1.readSide true o.acc = 0) ∧
      (o.zero = false → (mxResult m o).1.cm = m.cm ∧ (mxResult m o).1.cl = m.cl)) ∧
    (o.kind = .mside → (mxResult m o).1.acc = m.acc ∧ (mxResult m o).2 = 0 ∧
      (o.out = 0 → (mxResult m o).1.readSide false o.acc = cmRest ∧ (mxResult m o).1.readSide true o.acc = 0) ∧
      (o.out = 1 → i < 64 → elem ((mxResult m o).1.readSide false o.acc) 4 i = o.shape.toNat) ∧
      (o.out = 2 → i < 64 → elem ((mxResult m o).1.readSide true o.acc) 4 i = o.shape.toNat))

namespace Sys2Proof.Claims
open Sys2Proof.Machine

/-- A job joins those of the issuing core under its next identifier, with the bundle and the task that post it; what its
engine does comes after what the core has done (R208, R235). -/
def jobPosted (s : State) (t : Task) (j : Job) : State :=
  let c := me s
  meIs (follows s (.engine s.issue.core) (.core s.issue.core)) { c with
    nextId := c.nextId + 1
    jobs := c.jobs ++ [{ j with id := c.nextId, bundle := c.ctl.pc, launch := t.launch, run := t.run
                                slot := t.slot.getD mergedSlot }] }

/-- The tag is free among the core's jobs (R208). -/
abbrev tagFree (s : State) (t : BitVec 5) : Prop := ∀ j ∈ (me s).jobs, j.tag ≠ some t.toNat

/-- The shape fields of a job hold no reserved value, and its completion action passes its checks (R207, R210, Table 9.2). -/
abbrev shapeGood (s : State) (m : BitVec 2) : Prop :=
  let f0 := hsField s m.toNat 0
  let f1 := hsField s m.toNat 1
  f0Rows f0 ≠ 0 ∧ f0Cols f0 ≠ 0 ∧ f1Ok f1 (f1Act f1 == 1) = true ∧ (actionFault s f1 (hsField s m.toNat 2)).1 = .none

/-- A tile's counts are whole units of the record's format (R215). -/
abbrev wholeUnits (b : Record) (counts : List Nat) : Prop := ∀ n ∈ counts, n % fmtUnit b.fmt = 0

/-- A ring takes the rows of a job (R217). -/
abbrev ringTakes (r : Ring) (fmt elems : Nat) : Prop := r.cap ≠ 0 ∧ slotBytes r.fmt elems ≤ r.slot ∧ fmtPairOk fmt r.fmt = true

/-- TRANS is set only between element formats (R217). -/
abbrev transGood (r : Ring) (fmt f1 : Nat) : Prop :=
  f1Trans f1 = true → isElementFmt fmt = true ∧ isElementFmt r.fmt = true

end Sys2Proof.Claims

/-! ## The ST slot -/

/-- The copy, ring, window and overlay instructions with a free tag and every check passed post their job, with the records, fields and origins
they read at issue and their footprints; a busy tag holds them, and an OVL waits for one in flight that names any of its regions (R206 to
R220, R227). WSET of an element format with TRANS set posts its rows untransposed, on which R219 is silent (the model's choice, log entry
71). -/
def Obligations.StreamInstructionsPostTheirJob : Prop :=
  ∀ (s : State) (m : BitVec 2) (bs bd : BitVec 6) (q : BitVec 4) (xo tg : BitVec 5) (t : Task) (w : Window) (o : CodeObj),
    let c := me s
    let f0 := hsField s m.toNat 0
    let f1 := hsField s m.toNat 1
    let f2 := hsField s m.toNat 2
    let raw := fun (b : BitVec 6) => spGet 0 c.regs.recs b.toNat
    let src := record s bs
    let dst := record s bd
    let r := ringOf s q
    let origin := (x s xo).toNat
    let lo := origin % 2 ^ 32
    let hi := origin / 2 ^ 32
    let slots := if f1Trans f1 then f0Cols f0 else f0Rows f0
    let elems := if f1Trans f1 then f0Rows f0 else f0Cols f0
    let fields : Job := { id := 0, tag := some tg.toNat, kind := .cpy, bundle := 0, f0 := BitVec.ofNat 32 f0, f1 := BitVec.ofNat 32 f1
                          f2 := BitVec.ofNat 32 f2 }
    let windowed := fun (v : Window) => meIs s { c with regs := c.regs.setRing q.toNat { r with win := some v } }
    let entry := t.firstOvl + origin
    let regions := (List.range (o.overlayCount entry)).map (fun k => o.overlayFirst entry + k)
    let noWindow := ∀ j ∈ c.jobs, (j.kind = .wset ∨ j.kind = .wadv) → j.ring ≠ q.toNat
    c.task = some t →
    (tagFree s tg → shapeGood s m →
      (src.malformed = false → dst.malformed = false → fmtPairOk src.fmt dst.fmt = true →
        (isElementFmt src.fmt = false → f1Trans f1 = false) → wholeUnits src [f0Cols f0, lo, hi] → src.range.meets dst.range = false →
        exec (.cpy m bs bd xo tg) s = .next (jobPosted s t { fields with
          src := raw bs, dst := raw bd, orgA := lo, orgB := hi, rows := f0Rows f0, reads := [src.range], writes := [dst.range] })) ∧
      (src.malformed = false → transGood r src.fmt f1 → wholeUnits src [f0Cols f0, lo] → ringTakes r src.fmt elems →
        exec (.cpyq q bs m xo tg) s = .next (jobPosted s t { fields with
          kind := .cpyq, src := raw bs, orgA := lo, ring := q.toNat, rows := slots, cols := elems, reads := [src.range] })) ∧
      (dst.malformed = false → transGood r dst.fmt f1 → wholeUnits dst [f0Cols f0, lo] → ringTakes r dst.fmt elems →
        exec (.cpyo q m bd xo tg) s = .next (jobPosted s t { fields with
          kind := .cpyo, dst := raw bd, orgB := lo, ring := q.toNat, rows := slots, cols := elems, writes := [dst.range] })) ∧
      (noWindow → src.malformed = false → transGood r src.fmt f1 → wholeUnits src [f0Cols f0] → ringTakes r src.fmt (f0Cols f0) →
        src.fmt = r.fmt → f0Rows f0 ≤ r.cap →
        exec (.wset q bs m xo tg) s = .next (jobPosted (windowed ⟨raw bs, f0Cols f0, lo + f0Rows f0⟩) t { fields with
          kind := .wset, src := raw bs, first := lo, ring := q.toNat, rows := f0Rows f0, cols := f0Cols f0, reads := [src.range] }))) ∧
    (tagFree s tg → r.win = some w → 0 < origin → origin < 2 ^ 16 →
      exec (.wadv q xo tg) s = .next (jobPosted (windowed { w with next := w.next + origin }) t
        { id := 0, tag := some tg.toNat, kind := .wadv, bundle := 0, src := w.record, first := w.next, ring := q.toNat, rows := origin
          cols := w.cols, reads := [(recordOf w.record).range] })) ∧
    (tagFree s tg → curObject s = some o → origin < t.ovls →
      (∀ j ∈ c.jobs, j.kind = .ovl → j.first + j.rows ≤ o.overlayFirst entry ∨ o.overlayFirst entry + o.overlayCount entry ≤ j.first) →
      exec (.ovl xo tg) s = .next (jobPosted
        (inFlight s none (lands s 1) 0 0 (.regionsClear (o.overlayFirst entry) (o.overlayCount entry))) t
        { id := 0, tag := some tg.toNat, kind := .ovl, bundle := 0, first := o.overlayFirst entry, image := entry
          rows := o.overlayCount entry, regions := regions })) ∧
    (curObject s = some o → origin < t.ovls →
      (∃ j ∈ c.jobs, j.kind = .ovl ∧ j.first < o.overlayFirst entry + o.overlayCount entry ∧ o.overlayFirst entry < j.first + j.rows) →
      exec (.ovl xo tg) s = .next (slotHold s)) ∧
    (¬tagFree s tg → exec (.cpy m bs bd xo tg) s = .next (slotHold s) ∧ exec (.cpyq q bs m xo tg) s = .next (slotHold s) ∧
      exec (.cpyo q m bd xo tg) s = .next (slotHold s) ∧ exec (.wset q bs m xo tg) s = .next (slotHold s) ∧
      exec (.wadv q xo tg) s = .next (slotHold s))

/-- KPOST on an enabled communicator, in a committing launch, with parameters, records and action that pass their checks posts its job and,
where the rank has no such collective, the collective under (k, SEQ); a record's format is checked only where the kind reduces. In a
rehearsal, or with parameters that hold a reserved value, it is ILLEGAL (R223 to R225, R268). -/
def Sys2Proof.Claims.CollectivesArePosted : Prop :=
  ∀ (s : State) (k : BitVec 4) (bs br : BitVec 6) (xo tg : BitVec 5) (t : Task),
    let n := s.issue.core
    let ctx := ctxOfCore s n
    let cm : Comm := spGet {} ctx.comms k.toNat
    let word := (x s xo).toNat
    let p := paramsOf word
    let send := record s bs
    let recv := record s br
    let f1 := hsField s p.fh 1
    let us := usesSend p cm.pos
    let ur := usesRecv p cm.pos
    let judged := fun (b : Record) => if p.reduces then b else { b with fmt := 0 }
    (me s).task = some t → tagFree s tg →
    (cm.en = true → paramsOk p cm.size = true → rehearsing s (whoIs s n) = false →
      (p.reduces = true → p.op = 1 → p.ord = false → t.exact = false) → (p.kind = 0 → bs = 0 ∧ br = 0) →
      (us = true → (judged send).malformed = false) → (ur = true → (judged recv).malformed = false) →
      (p.reduces = true → opFmtOk p.op send.fmt = true ∧ (ur = true → recv.fmt = send.fmt)) →
      f1Ok f1 (f1Act f1 == 1 || p.flags) = true → sizeOk p cm.size cm.pos send recv = true →
      (actionFault s f1 (hsField s p.fh 2)).1 = .none →
      (p.flags = true → (flagArrayFault s f1 (hsField s p.fh 3) (chunkCount p cm.pos recv)).1 = .none) →
      exec (.kpost k bs br xo tg) s = .next (postCollective s k.toNat bs br p word tg)) ∧
    (cm.en = false ∨ paramsOk p cm.size = false ∨ rehearsing s (whoIs s n) = true →
      exec (.kpost k bs br xo tg) s = .next (slotFail s .illegal 0))

/-- RINGI sets a ring that nothing claims, at issue + 1, and is held while something does; CWAIT and KWAIT pass when their jobs, or the chunk, are
through, and are held before; PREF changes the hint-drop counter, RES keeps lines under the context's allowance or gives them up, and both
post the page-table events of their walks (R218, R221, R222, R228, R348). -/
def Sys2Proof.Claims.RingsWaitsAndHints : Prop :=
  ∀ (s : State) (q : BitVec 4) (xo tg : BitVec 5) (a : BitVec 1) (bs : BitVec 6) (m : BitVec 2) (j : Job) (key : Nat × Nat) (ctx : Ctx),
    let c := me s
    let n := s.issue.core
    let w := (x s xo).toNat
    let base := w % 2 ^ 19
    let unit := field w 24 8
    let cap := field w 32 16
    let b := record s bs
    let lines := if b.space ≠ 0 ∨ b.extent = 0 then []
      else (List.range ((b.base + b.extent - 1) / 128 + 1 - b.base / 128)).map (fun i => b.base / 128 + i)
    let walked := reportHints s (lines.map (fun l => 128 * l))
    let landed := (c.applyPayload (.ringSet q.toNat (ringWord w))).regs.ring q.toNat
    (ringClaimed c q.toNat = false → ringOperandOk w = true → base + cap * 64 * unit ≤ 524288 →
      exec (.ringi q xo) s = .next (inFlight s none (lands s 1) 0 0 (.ringSet q.toNat (ringWord w))) ∧
      landed = { base := base, slot := 64 * unit, cap := cap, fmt := field w 48 6, filled := 0, free := cap }) ∧
    (ringClaimed c q.toNat = false → ringOperandOk w = false → exec (.ringi q xo) s = .next (slotFail s .illegal 0)) ∧
    (ringClaimed c q.toNat = true → exec (.ringi q xo) s = .next (slotHold s)) ∧
    (a = 1 → c.jobs = [] → exec (.cwait a tg) s = .next s) ∧
    (a = 1 → c.jobs ≠ [] → exec (.cwait a tg) s = .next (slotHold s)) ∧
    (a = 0 → tagFree s tg → exec (.cwait a tg) s = .next s) ∧
    (a = 0 → ¬tagFree s tg → exec (.cwait a tg) s = .next (slotHold s)) ∧
    (tagFree s tg → exec (.kwait xo tg) s = .next s) ∧
    (c.jobs = [j] → j.tag = some tg.toNat → j.coll = some key → getCtx s (slotOfCore s n) = some ctx →
      exec (.kwait xo tg) s = .next
        (if ∃ l ∈ ctx.colls, l.k = key.1 ∧ l.seq = key.2 ∧ w ∈ l.flagged then follows s (.core n) .chorus else slotHold s)) ∧
    (b.malformed = false → f0Rows (hsField s m.toNat 0) ≠ 0 → f0Cols (hsField s m.toNat 0) ≠ 0 →
      let tile := hintLines (tileAddrs b (hsField s m.toNat 0) (w % 2 ^ 32))
      exec (.pref bs m xo) s = .next (countDrops (reportHints s (tile.map (fun l => 128 * l))) (tile.filter (lineDropped s)).length)) ∧
    (b.malformed = false → exec (.res 1 bs) s = .next (lines.foldl keepLine walked)) ∧
    (b.malformed = false → exec (.res 0 bs) s = .next (modCtx walked (slotOfCore s n) (fun k =>
      { k with kept := k.kept.filter (fun h => !(lines.filterMap (homeLine s)).contains h) }))) ∧
    (b.malformed = true → exec (.res 1 bs) s = .next (slotFail s .illegal (spGet 0 c.regs.recAddr bs.toNat))) ∧
    exec .stNop s = .next s

namespace Sys2Proof.Claims
open Sys2Proof.Machine

/-- The results of a core that a test picks and whose last cycle has come. -/
def dueResults (c : Core) (f : Pending → Bool) : List Pending := c.pend.filter (fun e => e.isDue c.now && f e)

/-- A core after the due results that a test picks have landed, older bundles first: they leave the flight, each writes its
destination, and the flags that they raise stay set (R33, R37, R80). -/
def afterLanding (c : Core) (f : Pending → Bool) : Core :=
  let c1 := (dueResults c f).foldl (fun k e => k.land e) { c with pend := c.pend.filter (fun e => !(e.isDue c.now && f e)) }
  { c1 with dev := { c1.dev with flags := (dueResults c f).foldl (fun g e => g ||| e.flags) c1.dev.flags } }

/-- A job of a core with the given identifier. -/
abbrev hasJob (s : State) (n id : Nat) (j : Job) : Prop := findJob (getCore s n) id = some j

/-- A job moves rows through a ring. -/
def isRingJob (j : Job) : Bool := j.kind == .cpyq || j.kind == .cpyo || j.kind == .wset || j.kind == .wadv

/-- A core of a context that takes work: no task, idle, and no decision, save or restore under way (R303, R320). -/
abbrev seeks (s : State) (n k : Nat) (x : Ctx) : Prop :=
  let c := getCore s n
  c.ctx = some k ∧ getCtx s k = some x ∧ ctxTakes x = true ∧ c.task = none ∧ c.status = .idle ∧ c.outcome = .nothing

end Sys2Proof.Claims

/-! ## Events of a core -/

/-- RESULT_LAND, LWB_REPLAY_LAND, INTERLOCKED_RESULT_LAND and WAITC_EXPIRE (R80, R81, R100, R316): the due results land on their
core alone, an interlocked result lands once it awaits no answer, and no unfinished matrix instruction of its bundle reads the accumulator
as it stood at issue, with a pulse to a save that waits for it, and a wait ends when its cycle has come (R138, R166, R318, R326). -/
def Sys2Proof.Claims.ResultsLandOnTheirCore : Prop :=
  ∀ (s : State) (n id d : Nat) (e : Pending),
    let c := getCore s n
    exec (.resultLand n) s = .next (setCore s n (afterLanding c (fun e => !e.replay))) ∧
    exec (.lwbReplayLand n) s = .next (setCore s n (afterLanding c (fun e => e.replay))) ∧
    (landsLater c id = true ↔ (∃ q ∈ c.pend, q.id = id ∧ ∃ k, q.dest = some (.acc k) ∧ ∃ o ∈ c.mx.queue, o.usesAcc k = true)) ∧
    (landsLater c id = true → exec (.interlockedResultLand n id) s = .next s) ∧
    (landsLater c id = false → c.pend.find? (fun q => q.id == id && q.due.isNone && q.waits == 0) = some e →
      exec (.interlockedResultLand n id) s =
        .next (savePulse (setCore s n ({ c with pend := c.pend.filter (fun q => decide (q.id ≠ id)) }.land e)) (slotOfCore s n))) ∧
    (c.ctl.wait = some d → d ≤ c.now →
      exec (.waitcExpire n) s = .next (setCore s n { c with ctl := { c.ctl with wait := none } })) ∧
    (c.ctl.wait = some d → c.now < d → exec (.waitcExpire n) s = .next (setCore s n c))

/-- BASE_REGION_LOAD and OVL_REGION_WRITTEN (R227, R426): a region of the base image that a loading task lacks, or of an overlay that
a running job still owes, is written with its bundles, its valid bit and its tag, its words hold no error any longer (R338), and the
watchdog's count restarts (R326). -/
def Sys2Proof.Claims.RegionsOfCodeAreWritten : Prop :=
  ∀ (s : State) (n k region tag : Nat) (t : Task) (o : CodeObj) (j : Job),
    let c := getCore s n
    let clean := c.bad.filter (fun w => match w with
      | .instr q => decide (q / 256 ≠ region)
      | _ => true)
    c.task = some t → codeOf (ctxOfCore s n) t.code = some o → c.ctx = some k →
    (t.phase = .loading → o.overlayFirst 0 ≤ region → region < o.overlayFirst 0 + o.overlayCount 0 →
      spFind c.imem.tags region ≠ some o.tag →
      exec (.baseRegionLoad n region) s =
        .next (pulse (setCore s n { c with imem := c.imem.loadRegion o 0 (region - o.overlayFirst 0), bad := clean }) k)) ∧
    (c.jobs.find? (fun q => q.tag == some tag && q.kind == .ovl) = some j → j.phase = .running → j.regions.contains region = true →
      exec (.ovlRegionWritten n tag region) s =
        .next (awaitedPulse (modJob (setCore s n { c with imem := c.imem.loadRegion o j.image (region - j.first), bad := clean }) n j.id
          (fun q => { q with regions := q.regions.filter (fun r => decide (r ≠ region)) })) k))

/-- JOB_START and RING_SLOT_CLAIM (R209, R216, R217, R220, R235): a posted job starts once no earlier job of its core conflicts with it, no
instruction of its posting bundle or an earlier one waits to be performed, and no remote access of its core that it follows is outstanding,
its remote sources asked for; the next row of a running ring job moves when its slot is its to claim and its bytes are here. -/
def Sys2Proof.Claims.JobsStartAndClaimSlots : Prop :=
  ∀ (s t : State) (n id va : Nat) (j : Job) (key : Nat × Nat),
    let c := getCore s n
    let running := requestSources (modJob s n id (fun q => { q with phase := .running })) n j
    let moved := fun (st : State) => awaitedPulse (modJob st n id (fun q => { q with doneRows := q.doneRows + 1 })) (slotOfCore s n)
    hasJob s n id j →
    (j.phase = .posted → (∀ e ∈ jobsBefore j.id c.jobs, e.conflicts j = false) → (∀ o ∈ c.sync, j.id ≤ o.id) → behindAccess s n j = false →
      (j.coll = none → exec (.jobStart n id) s = .next running) ∧
      (j.coll = some key → exec (.jobStart n id) s = .next (startColl running n (slotOfCore s n) key))) ∧
    ((j.phase ≠ .posted ∨ (∃ e ∈ jobsBefore j.id c.jobs, e.conflicts j = true) ∨ (∃ o ∈ c.sync, o.id < j.id) ∨ behindAccess s n j = true) →
      exec (.jobStart n id) s = .next s) ∧
    (isRingJob j = true → slotReady c j = true → jobReady s n j = true →
      (j.kind ≠ .cpyo → exec (.ringSlotClaim n id) s = .next (moved (produceRow s n j))) ∧
      (j.kind = .cpyo → consumeRow s n j = (t, none) → exec (.ringSlotClaim n id) s = .next (moved t)) ∧
      (j.kind = .cpyo → consumeRow s n j = (t, some va) →
        exec (.ringSlotClaim n id) s = .next (stageTrap (moved t) n .shadowFull 0x80 j.bundle va)))

/-- JOB_COMPLETE and JOB_FAULT (R208, R210, R212, R215): a copy that meets no fault moves its next row, with a progress pulse; a job all of whose
writes are made and acknowledged performs its completion action and is gone; a job that meets a fault stops after the elements before it, and
its fault is a trap of the task that posted it, with slot mask 0x80 and the posting bundle. That the elements before it in row-major order
have moved is the model's reading (log entry 35; R210 leaves the order open).
What a log entry is named for is the model's choice, no rule of the spec. -/
def Sys2Proof.Claims.JobsCompleteOrFault : Prop :=
  ∀ (s t : State) (n id addr : Nat) (j j2 : Job) (cause : Cause),
    let row := copyRow j j.doneRows
    let copied := awaitedPulse (modJob t n id (fun q => { q with doneRows := q.doneRows + 1 })) (slotOfCore s n)
    let reported := fun (st : State) => if cause = .protect then reportWalk st (slotOfCore s n) addr (faultSpan s n j) else st
    let stopped := fun (st : State) =>
      stageTrap (reported (clearFault (modJob st n id (fun q => { q with phase := .faulted })) (slotOfCore s n) j)) n cause 0x80 j.bundle addr
    hasJob s n id j →
    (copyReady s n j = false → jobDone s n j = true → exec (.jobComplete n id) s = .next (finishJob s n j)) ∧
    (copyReady s n j = false → jobDone s n j = false → exec (.jobComplete n id) s = .next s) ∧
    (copyReady s n j = true → moveUnits n j row s = (t, none) → hasJob copied n id j2 →
      exec (.jobComplete n id) s = .next (if jobDone copied n j2 then finishJob copied n j2 else copied)) ∧
    (copyReady s n j = true → moveUnits n j row s = (t, some addr) →
      exec (.jobComplete n id) s = .next (completeIfDone (stageTrap t n .shadowFull 0x80 j.bundle addr) n id)) ∧
    (jobFaultOf s n j = some (cause, addr) → j.kind ≠ .cpy → exec (.jobFault n id) s = .next (stopped s)) ∧
    (jobFaultOf s n j = some (cause, addr) → j.kind = .cpy →
      exec (.jobFault n id) s = .next (stopped (moveUnits n j (unitsBeforeFault s n j row) s).1)) ∧
    (jobFaultOf s n j = none → exec (.jobFault n id) s = .next s)

/-- IDLE_CORE_PASS and TASK_START (R16, R200, R246, R253, R303, R304, R321): an idle core takes a resident program that is due, else the entry that
one pass over the deques and the board finds; the work it holds starts as a task once the core's matrix unit has drained and a slot is free,
after what made it ready; a core that waits in TGET makes the pass of that TGET, which takes nothing while the core drains (R181). Which
resident program is due is log entry 10's, and the held take of a block whose bytes another package has is log entry 34's.
What a log entry is named for is the model's choice, no rule of the spec. -/
def Sys2Proof.Claims.IdleCoresFindAndStartWork : Prop :=
  ∀ (s : State) (n k sl : Nat) (x : Ctx) (l : Launch) (run : Bool) (f : Found) (t : Task) (o : SyncOp) (obj : CodeObj),
    let c := getCore s n
    let holds := fun (st : State) (held : Task) => setCore st n { getCore st n with task := some held }
    let after := follows s (.core n) .manager
    (seeks s n k x → residentFor x c.logical = some (l, run) →
      exec (.idleCorePass n) s = .next (holds s (heldTask 2 l.handle run .resident 0))) ∧
    (seeks s n k x → residentFor x c.logical = none → findWork s ⟨k, c.logical, none⟩ false = some f →
      exec (.idleCorePass n) s = .next (holds f.after (match f.entry.work with
        | .point i => heldTask (entryMode f.after k f.entry) f.entry.launch f.entry.run .point i
        | .block a => heldTask (entryMode f.after k f.entry) f.entry.launch f.entry.run .block a))) ∧
    (seeks s n k x → residentFor x c.logical = none → findWork s ⟨k, c.logical, none⟩ false = none →
      exec (.idleCorePass n) s = .next (announcePages s k)) ∧
    (c.ctx = some k → getCtx s k = some x → c.task = some t → c.status = .running → waitingTget c = some o →
      exec (.idleCorePass n) s = .next (tgetPass s n o (ctxTakes x && c.outcome == .nothing))) ∧
    (c.ctx = some k → getCtx s k = some x → c.task = none → ctxTakes x = false ∨ c.outcome ≠ .nothing →
      exec (.idleCorePass n) s = .next s) ∧
    (c.ctx = some k → getCtx s k = some x → ctxTakes x = true → c.task = some t → t.phase = .held → getLaunch s k t.launch = some l →
      codeOf x l.desc.code = some obj →
      (c.mx.queue ≠ [] → exec (.taskStart n) s = .next s) ∧
      (c.mx.queue = [] → t.kind = .resident → exec (.taskStart n) s = .next (startResident after n t l obj)) ∧
      (c.mx.queue = [] → freeTaskSlot s = some sl → t.kind = .point → exec (.taskStart n) s = .next (startPoint after n k sl t l obj)) ∧
      (c.mx.queue = [] → freeTaskSlot s = some sl → t.kind = .block → blockAt s (hwWho k t.launch t.run) t.item = true →
        exec (.taskStart n) s = .next (startBlock after n k sl t l obj)) ∧
      (c.mx.queue = [] → freeTaskSlot s = some sl → t.kind = .block → blockAt s (hwWho k t.launch t.run) t.item = false →
        exec (.taskStart n) s = .next (awaitTake s k t.launch t.run t.item c.logical)) ∧
      (freeTaskSlot s = none → t.kind ≠ .resident → exec (.taskStart n) s = .next s))

/-- TASK_COMPLETE and SUBVERSION_MERGE (R106, R107, R244, R255): a task that has ended and drained leaves its core idle and its slot completed,
or its logical core among those that have halted; a completed slot without open dependences, and with none still to come from an answer,
merges, with what follows the merge. -/
def Sys2Proof.Claims.TasksCompleteAndMerge : Prop :=
  ∀ (s : State) (n k h sl : Nat) (t : Task) (b : Bool) (l : Launch) (v : Slot),
    let c := getCore s n
    let idle := managerFollows (setCore s n (releaseCore c)) n
    let run := runOfSlot l sl
    (c.ctx = some k → c.task = some t → t.phase = .ending b → drained c = true →
      (t.mode ≠ 2 → t.slot = some sl → exec (.taskComplete n) s = .next (completeSlot idle k t.launch t.run sl)) ∧
      (t.mode = 2 → exec (.taskComplete n) s = .next (checkHalted (modRun idle k t.launch t.run
        (fun r => { r with halted := insertNat c.logical r.halted })) k t.launch t.run))) ∧
    (c.ctx = some k → c.task = some t → t.phase = .ending b → drained c = false → exec (.taskComplete n) s = .next s) ∧
    (getLaunch s k h = some l → findSlot s k h run sl = some v → v.completed = true → v.deps = [] → answerDue s v = false →
      exec (.subversionMerge k h sl) s = .next (checkHalted (settle (afterMerge (mergeSlot s k h run sl) k h run v)) k h run)) ∧
    (getLaunch s k h = some l → findSlot s k h run sl = some v → v.completed = false ∨ v.deps ≠ [] ∨ answerDue s v = true →
      exec (.subversionMerge k h sl) s = .next (checkHalted s k h run))

namespace Sys2Proof.Claims
open Sys2Proof.Machine

/-- The live launches of a context and a launch of it. -/
abbrev hasLaunch (s : State) (k h : Nat) (c : Ctx) (l : Launch) : Prop := getCtx s k = some c ∧ getLaunch s k h = some l

/-- The phase of a launch replaced, and nothing else of the state. -/
def launchIs (s : State) (k h : Nat) (f : Launch → Launch) : State := modLaunch s k h f

/-- Two footprints overlap in an entry that one of them writes (R249). -/
abbrev footprintsMeet (a b : LaunchRec) : Prop :=
  ∃ e ∈ a.foot, ∃ q ∈ b.foot, e.overlaps q = true ∧
    ((e.writes = true ∧ q.kind ≠ 0) ∨ (q.writes = true ∧ e.kind ≠ 0))

/-- Nothing orders a launch behind another (R249, R259): among the launches that may hold it back, which for a child are the descendants of its
parent, no earlier one of its queue still waits, and no earlier one that waits and no one that is admitted and has not ended has a footprint that
meets its own; and neither it nor such a live one runs exclusively (log entry 36). -/
abbrev inOrder (c : Ctx) (l : Launch) : Prop :=
  (∀ y ∈ queueBefore c l, mayHold c y l = true → y.phase ≠ .waiting) ∧
  (∀ y ∈ launchesBefore l.handle c.launches, y.phase = .waiting → mayHold c y l = true → ¬ footprintsMeet y.desc l.desc) ∧
  (∀ y ∈ c.launches, y.handle ≠ l.handle → y.live = true → mayHold c y l = true → ¬ footprintsMeet y.desc l.desc) ∧
  (∀ y ∈ c.launches, y.handle ≠ l.handle → y.live = true → mayHold c y l = true → l.desc.flag 2 = false ∧ y.desc.flag 2 = false)

end Sys2Proof.Claims

/-! ## Launches -/

/-- ADMISSION_READ (R374, R376): the record at HEAD of the queue whose turn it is reaches admission and HEAD rises; one on a remote page
is asked for at its home; one in a prepared line is left for later; one on a page that is not present is announced to system software
(R263). That the queues take their turns in the order of their doorbells is log entry 41 (DEDUCED).
What a log entry is named for is the model's choice, no rule of the spec. -/
def Sys2Proof.Claims.RecordsOfTheHostReachAdmission : Prop :=
  ∀ (s : State) (k q p tgt node addr : Nat) (c : Ctx) (w : Bool) (cause : Cause),
    let queue : Queue := spGet {} c.queues q
    getCtx s k = some c → c.state ≠ .killed → c.state ≠ .flying → queue.en = true → queue.head ≠ queue.tail → queue.asked = false →
    nextRung c = some q →
    (xlatCtx s c queue.recordVa = .pkg p true w → heldByPrepared s ⟨k, 0, false, mergedSlot⟩ p 512 = false →
      exec (.admissionRead k q) s = .next (takeHostRecord (readDirect s p 512) k q (rawNat (readDirect s p 512) p 512))) ∧
    (xlatCtx s c queue.recordVa = .pkg p true w → heldByPrepared s ⟨k, 0, false, mergedSlot⟩ p 512 = true →
      exec (.admissionRead k q) s = .next s) ∧
    (xlatCtx s c queue.recordVa = .remote tgt node addr true w →
      exec (.admissionRead k q) s = .next (requestRecord s k q tgt node addr queue.recordVa)) ∧
    (xlatCtx s c queue.recordVa = .bad cause ∨ xlatCtx s c queue.recordVa = .miss →
      exec (.admissionRead k q) s = .next (announcePage s k (queue.recordVa / 65536)))

/-- ADMISSION (R249, R252, R259, R288): a waiting launch that nothing orders behind another, and for which the version tables and the
frontier store have room, takes them and runs: its runs start, two where it rehearses (R267). That a context without clusters is admitted by
the frontiers it has is log entry 75 (DESIGN CHOICE). What a log entry is named for is the model's choice, no rule of the spec. -/
def Sys2Proof.Claims.AdmissionStartsALaunch : Prop :=
  ∀ (s : State) (k h : Nat) (c : Ctx) (l : Launch),
    let s1 := launchIs (takeResources s k c l) k h (fun q => { q with phase := .running, newcomer := c.state != .running })
    let s2 := startRun s1 k h false
    hasLaunch s k h c l →
    (l.phase = .waiting → c.state ≠ .killed → c.state ≠ .flying → inOrder c l → roomFor s c l = true →
      exec (.admission k h) s = .next (settle (if l.desc.flag 1 then startRun s2 k h true else s2))) ∧
    (l.phase ≠ .waiting ∨ ¬ inOrder c l ∨ roomFor s c l = false → exec (.admission k h) s = .next s)

/-- LAUNCH_COMPLETE and REHEARSAL_COMPARE (R260, R269, R270): a launch all of whose work is done becomes complete; one that rehearses does
so when the digests of its runs agree in every written entry, and else aborts and reports the lowest entry that differs. -/
def Sys2Proof.Claims.LaunchesCompleteOrDiffer : Prop :=
  ∀ (s : State) (k h i : Nat) (c : Ctx) (l : Launch),
    let complete := fun (st : State) => launchIs st k h (fun q => { q with phase := .complete, completeAt := st.clock })
    hasLaunch s k h c l → otherwiseComplete s k c l = true →
    (l.desc.flag 1 = false → exec (.launchComplete k h) s = .next (complete s)) ∧
    (l.desc.flag 1 = true → firstMismatch l = none → exec (.rehearsalCompare k h) s =
      .next (complete (launchIs s k h (fun q => { q with shadow := q.shadow.filter (fun b => !b.run) })))) ∧
    (l.desc.flag 1 = true → firstMismatch l = some i → exec (.rehearsalCompare k h) s =
      .next (post (abortLaunch s k h .none) (.rehearsal k h i (((l.desc.foot[i]?).map (fun e => e.region)).getD 0))))

/-- A launch is compared against itself by its written entries alone: the entry that is reported is a written one whose digests differ,
and no lower written entry differs (R270). -/
def Sys2Proof.Claims.TheLowestDifferingEntryIsReported : Prop :=
  ∀ (l : Launch) (i : Nat), firstMismatch l = some i →
    (∃ e, l.desc.foot[i]? = some e ∧ e.kind = 2 ∧ digestOf l false e ≠ digestOf l true e) ∧
    ∀ j, j < i → ∀ e, l.desc.foot[j]? = some e → e.kind = 2 → digestOf l false e = digestOf l true e

/-- LAUNCH_COMMIT (R256, R261, R262): the complete launch whose turn it is merges into its parent's task, or is marked where no line of it
lies outside die 0, or asks each holder to prepare. The commit-control codes are log entry 8 (DESIGN CHOICE), the second die's number as a
holder log entry 27 (DESIGN CHOICE). What a log entry is named for is the model's choice, no rule of the spec. -/
def Sys2Proof.Claims.LaunchesCommitInTurn : Prop :=
  ∀ (s : State) (k h p slot : Nat) (run : Bool) (c : Ctx) (l : Launch) (hs : List Nat),
    hasLaunch s k h c l → mayCommit c l = true →
    (l.origin = .child p run slot → exec (.launchCommit k h) s = .next (mergeChild s k l p run slot)) ∧
    (l.origin = .host slot → holdersOf l = [] → exec (.launchCommit k h) s = .next (markLaunch s k l)) ∧
    (l.origin = .host slot → holdersOf l = hs → hs ≠ [] →
      exec (.launchCommit k h) s = .next (controlPeers (modVersions
        (launchIs s k h (fun q => { q with phase := .preparing, holders := hs, prepareBy := s.clock + 2 ^ c.wlog }))
        k h (fun v => { v with prepared := true })) k l false 1 0 0))

/-- PREPARE_ACKNOWLEDGE, PREPARE_TIMEOUT and COMMIT_OUTCOME_QUERY (R262): the last holder's acknowledgement brings the mark; a window
without it brings the abort with WATCHDOG; a holder that asks is told the mark or the abort. The codes and the layout of these packets are
log entry 8 (DESIGN CHOICE), the number 65537 of the second die log entry 27 (DESIGN CHOICE).
What a log entry is named for is the model's choice, no rule of the spec. -/
def Sys2Proof.Claims.PreparedLaunchesAreMarkedOrAborted : Prop :=
  ∀ (s : State) (k h holder : Nat) (l : Launch),
    let left := l.holders.filter (fun y => decide (y ≠ holder))
    getLaunch s k h = some l →
    (l.phase = .preparing → holder ∈ l.holders → left = [] →
      exec (.prepareAcknowledge k h holder) s = .next (markLaunch s k { l with holders := [] })) ∧
    (l.phase = .preparing → holder ∈ l.holders → left ≠ [] →
      exec (.prepareAcknowledge k h holder) s = .next (launchIs s k h (fun _ => { l with holders := left }))) ∧
    (l.phase = .preparing → l.prepareBy ≤ s.clock → exec (.prepareTimeout k h) s = .next (abortLaunch s k h .watchdog)) ∧
    (l.phase = .ended → holder ≠ 65537 → exec (.commitOutcomeQuery k h holder) s =
      .next (controlPeers s k { l with peers := [holder] } false (if l.marked then 2 else 3) 0 0))

/-- VERSION_FREE and PREPARED_ACCESS_RESUME (R252, R263): the entry of an ended launch that no line carries is free on its die; a core held
on a line resumes once no prepared version holds it. -/
def Sys2Proof.Claims.VersionsAndLinesAreFreed : Prop :=
  ∀ (s : State) (entry n line : Nat) (v : Version),
    let without := fun (t : Sparse Version) => t.filter (fun e => decide (e.1 ≠ entry))
    (versionUnused s v = true → spFind s.hw.versions0 entry = some v →
      exec (.versionFree 0 entry) s = .next { s with hw := { s.hw with versions0 := without s.hw.versions0 } }) ∧
    (versionUnused s v = true → spFind s.hw.versions1 entry = some v →
      exec (.versionFree 1 entry) s = .next { s with hw := { s.hw with versions1 := without s.hw.versions1 } }) ∧
    (versionUnused s v = false → spFind s.hw.versions0 entry = some v → exec (.versionFree 0 entry) s = .next s) ∧
    (n < 256 → (getCore s n).heldOn = some line → lineHeld s n line = false →
      exec (.preparedAccessResume n) s = .next (setCore s n { getCore s n with heldOn := none })) ∧
    (256 ≤ n → exec (.preparedAccessResume n) s = .next (resumeHeld s))

namespace Sys2Proof.Claims
open Sys2Proof.Machine

/-- A packet of a kind that reaches this package: power, a channel that is not reserved, a job, fields that fit its header, and this node as
its destination or the host as its source (R353, R361, R362). -/
abbrev arrives (s : State) (p : Packet) (kind : Nat) : Prop :=
  poweredOn s = true ∧ p.kind = kind ∧ reservedVc p.vc = false ∧ p.job ≠ 0 ∧ packetFits p = true ∧ (p.dst = s.link.node ∨ p.src = hostNode)

/-- A packet for a rank that is resident here. -/
abbrev forRank (s : State) (p : Packet) (k : Nat) (c : Ctx) : Prop := residentOf s p.job p.rank = some k ∧ getCtx s k = some c

/-- The package awake where a context of the packet is here, with the watchdog's count of that context restarted (R326, R386). -/
def awake (s : State) (p : Packet) (k : Nat) : State := pulse (arrived s p) k

/-- A memory packet of n bytes whose rank is resident here, owns the bytes with the permission, and whose lines nothing holds, with a version
entry for the bytes that `mask` sends to a shadow (R252, R263, R264, R358, R362). -/
abbrev performs (s : State) (p : Packet) (kind n mask : Nat) (rd wr : Bool) (k : Nat) (c : Ctx) : Prop :=
  arrives s p kind ∧ forwardOf s p.addr = none ∧ forRank s p k c ∧ c.state ≠ .flying ∧ ownsBytes s c p.addr n rd wr = true ∧
    lineBusy s p.addr n = false ∧ peerTableFull s p mask = false

/-- Bytes of a packet's payload as a number. -/
def payloadAt (p : Packet) (off n : Nat) : Nat := ofBytes ((p.payload.drop off).take n)

/-- The bytes of a store that go to a shadow: all of those of a launch (R239, R264). -/
def storeMask (p : Packet) : Nat := if p.launch = 0 then 0 else 2 ^ p.payload.length - 1

/-- The sub-versions that a write meets, where bytes of it go to a shadow (R254). -/
def writeMeets (s : State) (p : Packet) (mask n : Nat) : List Nat := if mask = 0 then [] else peerWriteDeps s p p.addr n

/-- The sub-versions of two lists. -/
def joinDeps (a b : List Nat) : List Nat := a.foldl (fun acc d => insertNat d acc) b

end Sys2Proof.Claims

/-! ## Collectives -/

/-- LANE_BOUNDARY and HOP_GRANT (R366 to R368): a lane takes the granted step that has waited for 16 boundaries, else the first of the
highest class, among those that can be made, and makes it, while every other of these waits one boundary more; a pool grants a request
whose rank has posted the collective once every slot that its step needs and that is not held for it is free, and takes them together.
The slots that a step of the unordered form needs are log entry 19's (DESIGN CHOICE).
What a log entry is named for is the model's choice, no rule of the spec. -/
def Sys2Proof.Claims.LanesMakeStepsAndHopsGrant : Prop :=
  ∀ (s : State) (lane cls phase pool : Nat) (e : ChunkStep) (r : SlotRequest) (c : Ctx),
    let s1 := planFuel (4 * (allColls s).length + 4) s
    let able := s1.chorus.steps.filter (stepCan s1)
    let rest := (s1.chorus.steps.filter (fun y => decide (y ≠ e))).map (fun y =>
      if stepCan s1 y then { y with waited := y.waited + 1 } else y)
    let named := poolOf cls phase
    let keys := slotsFor s r phase
    let granted := { s with chorus := { s.chorus with
      requests := spSet [] s.chorus.requests named ((spGet [] s.chorus.requests named).erase r)
      used := spSet 0 s.chorus.used named (spGet 0 s.chorus.used named + keys.length) } }
    let answer : State → State := fun st => sendPacket st
      { kind := 0x14, vc := 0, src := st.link.node, dst := r.node, job := c.job, rank := r.rank, srank := c.rank
        addr := chorusAddr r.seq r.k r.level r.index r.chunk, tag := 0, launch := 0, stamp := 0, payload := bytesOf 1 phase }
    (lane < 8 → takeStep able = some e →
      exec (.laneBoundary lane) s = .next (makeStep { s1 with chorus := { s1.chorus with steps := rest } } e)) ∧
    (lane < 8 → takeStep able = none → exec (.laneBoundary lane) s = .next s1) ∧
    (nextGrant s named = some r → getCtx s r.ctx = some c →
      exec (.hopGrant cls phase) s = .next (answer (if phase = 0 then
        modColl granted r.ctx r.k r.seq (fun q => { q with slots := keys.foldl (fun m y => spSet 0 m y 1) q.slots })
        else granted))) ∧
    (nextGrant s named = none → exec (.hopGrant cls phase) s = .next s) ∧
    (nextGrant s pool = some r → r ∈ spGet [] s.chorus.requests pool ∧ requestPosted s r = true ∧
      (slotsFor s r (pool / 4) = [] ∨ spGet 0 s.chorus.used pool + (slotsFor s r (pool / 4)).length ≤ 32))

/-- The step that a lane takes is a granted one; no step of a higher class is passed over unless the one taken has waited for 16
boundaries (R368). -/
def Sys2Proof.Claims.NoHigherClassIsPassedOver : Prop :=
  ∀ (steps : List ChunkStep) (e : ChunkStep), takeStep steps = some e →
    e ∈ steps ∧ (16 ≤ e.waited ∨ ∀ y ∈ steps, y.cls ≤ e.cls ∧ y.waited < 16)

/-- CHUNK_COMPLETE and COLLECTIVE_COMPLETE (R225, R226): a chunk whose final bytes are all here, with every write of it acknowledged, sets its
flag; a finished collective performs its completion action and retires, NEXTSEQ rising; a faulted one retires too (log entry 25), and ends its
launch where no job is left to raise it (log entry 90, DESIGN CHOICE).
What a log entry is named for is the model's choice, no rule of the spec. -/
def Sys2Proof.Claims.CollectivesComplete : Prop :=
  ∀ (s : State) (k comm chunk : Nat) (c : Ctx) (q : Coll) (f : Cause × Nat),
    let flagged := modColl s k q.k q.seq (fun y => { y with flagged := insertNat chunk y.flagged })
    getCtx s k = some c →
    (runningColl c comm = some q → chunkDue s k c q chunk = true → exec (.chunkComplete k comm chunk) s =
      .next (pulse (if q.params.flags then setRankFlag flagged k c q (q.f3.toNat + 4 * chunk) else flagged) k)) ∧
    (runningColl c comm = some q → chunkDue s k c q chunk = false → exec (.chunkComplete k comm chunk) s = .next s) ∧
    (c.colls.find? (fun y => y.k == comm && !y.done && (y.fault.isSome || collFinished s c y)) = some q →
      (q.fault = none → exec (.collectiveComplete k comm) s = .next (settle (retireColl (collAction s k c q) k q))) ∧
      (q.fault = some f → exec (.collectiveComplete k comm) s =
        .next (faultWithoutJob (retireFaulted (if q.go then s else dropSteps s k q) k q) k c q f)))

/-- CHORUS_UP_ORDERED, CHORUS_UP_UNORDERED and CHORUS_DOWN (R366, R372): a block that arrives is put into its slot, by its node, or by the
position of its sender in the unordered form, or by the position whose piece it is of the final bytes, and is acknowledged; a lane then receives
it: a node value into its collective, final bytes into the memories of the ranks here that take them, with the slot free again. The acknowledgement
and the ranks that one packet serves are log entry 19 (DESIGN CHOICE).
What a log entry is named for is the model's choice, no rule of the spec. -/
def Sys2Proof.Claims.ChorusDataArrives : Prop :=
  ∀ (s : State) (p : Packet) (k g j i : Nat) (c : Ctx) (q : Coll),
    let seq := field p.addr 48 16
    let comm := field p.addr 44 4
    let index := field p.addr 24 16
    let chunk := field p.addr 0 24
    let block := p.tag / packetBytes
    let w := awake s p k
    let first := (q.piece index chunk).1
    let last := first + (q.piece index chunk).2.1
    let off := chunk * q.params.size + p.tag
    let down := stageBlock w k comm seq (stagedKey 1 chunk 0 index ((off - first) / packetBytes)) 0 p.payload
    let here := q.stagedOf 1 g j i
    let left := q.unstage 1 g j i here
    (forRank s p k c →
      (arrives s p 0x10 → exec (.chorusUpOrdered p) s =
        .next (ackChorus (stageBlock w k comm seq (stagedKey 0 chunk (field p.addr 40 4) index block) 0 p.payload) p)) ∧
      (arrives s p 0x11 → exec (.chorusUpUnordered p) s = .next (ackChorus
        (stageBlock w k comm seq (stagedKey 0 chunk 0 (positionOf w (commOf c comm) p.srank) block) index p.payload) p)) ∧
      (arrives s p 0x12 → findColl c comm seq = some q →
        ((q.done = false ∨ q.draining = true ∨ q.params.kind = 0 ∨ off + p.payload.length < last) →
          exec (.chorusDown p) s = .next (ackChorus down p)) ∧
        (q.done = true → q.draining = false → q.params.kind ≠ 0 → last ≤ off + p.payload.length →
          exec (.chorusDown p) s = .next (ackChorus (freeDownSlot down (commOf c comm).cls) p))) ∧
      (arrives s p 0x12 → findColl c comm seq = none → exec (.chorusDown p) s = .next (ackChorus w p))) ∧
    (getCtx s k = some c →
      let written := writeMembers (modColl s k q.k q.seq (fun _ => left)) c left (q.heirs s (commOf c q.k)) (q.piece i g).1
        (here.flatMap (fun e => e.2.2))
      (q.params.kind ≠ 0 → receiveStep s k c q g 1 j i = freeDownSlot written (commOf c q.k).cls) ∧
      (q.params.kind = 0 → receiveStep s k c q g 1 j i = written))

/-- RESERVATION_REQUEST and GRANT (R367): a request joins its pool's list, behind those that came
before it; a grant makes the steps that asked for it granted ones.
Those of the model's matching of posts bring a description and a verdict (log entry 19).
What a log entry is named for is the model's choice, no rule of the spec. -/
def Sys2Proof.Claims.ReservationsAndGrantsArrive : Prop :=
  ∀ (s : State) (p : Packet) (k : Nat) (c : Ctx),
    let seq := field p.addr 48 16
    let comm := field p.addr 44 4
    let chunk := field p.addr 0 24
    let w := awake s p k
    let pool := poolOf (commOf c comm).cls (ofBytes p.payload % 2)
    let r : SlotRequest := { node := p.src, rank := p.srank, ctx := k, k := comm, seq := seq, chunk := chunk
                             level := field p.addr 40 4, index := field p.addr 24 16, since := s.clock }
    forRank s p k c →
    (arrives s p 0x13 → chunk ≠ matchChunk → exec (.reservationRequest p) s = .next { w with chorus := { w.chorus with
      requests := spSet [] w.chorus.requests pool (enterRequest r (spGet [] w.chorus.requests pool)) } }) ∧
    (arrives s p 0x13 → chunk = matchChunk → exec (.reservationRequest p) s =
      .next (noteDescription w k comm seq (positionOf w (commOf c comm) p.srank) (ofBytes p.payload))) ∧
    (arrives s p 0x14 → chunk ≠ matchChunk → exec (.grant p) s = .next { w with chorus := { w.chorus with
      asking := w.chorus.asking.filter (fun y => !grantNames w c p k y)
      steps := w.chorus.steps ++ (w.chorus.asking.filter (grantNames w c p k)).map (fun y => { y with since := s.clock }) } }) ∧
    (arrives s p 0x14 → chunk = matchChunk → exec (.grant p) s = .next (giveVerdict w k comm seq (ofBytes p.payload == 0)))

/-! ## Packets -/

/-- REMOTE_STORE, LOAD_REQUEST, REMOTE_ATOMIC and REMOTE_REDUCTION (R155, R193, R195, R239, R241, R242): performed at their home for the rank that
they name, and answered: a store and a reduction with an acknowledgement, a load and an atomic with the bytes read, each with the sub-versions
that it met (R244, R254); a monitored wait is armed at the home of its word (R189), and ended there; a block is read and a spawn performed there
(R202). The offsets of the payload's fields are log entry 11 (DESIGN CHOICE), the ends of waits log entry 13, the work on blocks log entry 34,
and that damaged bytes are answered as they are, their frame retired, log entry 83 (DESIGN CHOICE).
What a log entry is named for is the model's choice, no rule of the spec. -/
def Sys2Proof.Claims.MemoryPacketsActAtTheirHome : Prop :=
  ∀ (s : State) (p : Packet) (k : Nat) (c : Ctx),
    let w := awake s p k
    let n := p.payload.length
    let read := retireRange (readDirect w p.addr n) p.addr n
    let size := payloadAt p 1 1
    let fresh := mergePartials w p.addr size
    let old := peerRead fresh p p.addr size
    let met := peerReadDeps fresh p p.addr size
    let op := payloadAt p 0 1
    let mask := payloadAt p 18 1
    let bits := payloadAt p 26 1
    let word := payloadAt p 0 8
    let value := if op = 16 then setNibble (ofBytes old) false (payloadAt p 2 8)
      else if op = 17 then setNibble (ofBytes old) true (payloadAt p 2 8) else reduceOp op size (ofBytes old) (payloadAt p 2 8)
    (performs s p 0x01 n (storeMask p) false true k c → exec (.remoteStore p) s =
      .next (answerDeps (peerWrite w k p p.addr (storeMask p) true p.payload) p 0x04 [] (writeMeets w p (storeMask p) n))) ∧
    (performs s p 0x02 n 0 true false k c →
      (p.wait = 0 → exec (.loadRequest p) s =
        .next (answerDeps read p 0x03 (peerRead read p p.addr n) (peerReadDeps read p p.addr n))) ∧
      (p.wait = 1 → exec (.loadRequest p) s = .next (armMonitor w k p false word)) ∧
      (p.wait = 2 → exec (.loadRequest p) s = .next (armMonitor w k p true word)) ∧
      (p.wait = 3 → exec (.loadRequest p) s = .next (endMonitor w p word (fun t => answerRead t p n))) ∧
      (p.wait = 4 → exec (.loadRequest p) s = .next (endMonitor w p word (fun t => answerPacket t p 0x03 [1]))) ∧
      (p.wait = 5 → exec (.loadRequest p) s = .next (answerBlock w p n))) ∧
    (performs s p 0x06 size mask true true k c →
      (op ≠ spawnOp → exec (.remoteAtomic p) s = .next
        (match atomicNew op size (ofBytes old) (payloadAt p 2 8) (payloadAt p 10 8) with
         | some v => answerDeps (peerWrite fresh k p p.addr mask false (bytesOf size v)) p 0x03 old (joinDeps (writeMeets fresh p mask size) met)
         | none => answerDeps (loads fresh .manager p.addr size) p 0x03 old met)) ∧
      (op = spawnOp → exec (.remoteAtomic p) s = .next (spawnAtHome (loads fresh .manager p.addr size) k p))) ∧
    (performs s p 0x07 size bits false true k c →
      (op ≠ 0x18 → exec (.remoteReduction p) s =
        .next (answerDeps (peerWrite fresh k p p.addr bits false (bytesOf size value)) p 0x04 []
          (if bits = 0 then [] else joinDeps met (writeMeets fresh p bits size)))) ∧
      (op = 0x18 → isGone w p = true → exec (.remoteReduction p) s = .next (ackPacket w p)) ∧
      (op = 0x18 → isGone w p = false → exec (.remoteReduction p) s = .next (contribute (if bits = 0 then w else openPeer w p)
        (payloadAt p 18 8) (payloadAt p 14 4) p.addr
        { ordinal := payloadAt p 10 4, value := payloadAt p 2 4, ctx := k, launch := p.launch, run := false
          slot := mergedSlot, va := 0, reply := some p })))

/-- Where a memory packet is not performed (R252, R263, R264, R358, R361, R362): it is refused where its rank is not resident or does not own the
bytes, held at a line that a prepared version holds or where its shadow has no version entry, sent on for a context that has flown, and discarded
where it names no job or a field does not fit its header. That a missing version entry holds a packet is log entry 39 (DESIGN CHOICE).
What a log entry is named for is the model's choice, no rule of the spec. -/
def Sys2Proof.Claims.MemoryPacketsAreRefusedHeldOrForwarded : Prop :=
  ∀ (s : State) (p : Packet) (k frame : Nat) (c : Ctx) (f : Fly),
    let n := p.payload.length
    let w := arrived s p
    let outcome := fun (t : State) => exec (.remoteStore p) s = .next t
    (arrives s p 0x01 → forwardOf s p.addr = none → residentOf s p.job p.rank = none → outcome (refusePacket w p)) ∧
    (arrives s p 0x01 → forwardOf s p.addr = none → forRank s p k c → c.state ≠ .flying → ownsBytes s c p.addr n false true = false →
      outcome (refusePacket w p)) ∧
    (arrives s p 0x01 → forwardOf s p.addr = none → forRank s p k c → c.state ≠ .flying → ownsBytes s c p.addr n false true = true →
      (lineBusy s p.addr n = true ∨ peerTableFull s p (storeMask p) = true) → outcome (holdEvent w p.addr (.packet p))) ∧
    (arrives s p 0x01 → forwardOf s p.addr = some (f, frame) → outcome (forwardPacket w p f frame)) ∧
    (arrives s p 0x01 → forwardOf s p.addr = none → forRank s p k c → c.state = .flying → outcome (keepPacket w k p)) ∧
    (poweredOn s = true → p.job = 0 ∨ packetFits p = false → outcome (discardPacket s)) ∧
    (poweredOn s = true → p.kind = 0x01 → reservedVc p.vc = false → p.job ≠ 0 → packetFits p = true → p.dst ≠ s.link.node → p.src ≠ hostNode →
      (reachable s p.dst = true → outcome (sendPacket s p)) ∧ (reachable s p.dst = false → outcome (refusePacket s p)))

/-- LOAD_RESPONSE, ACKNOWLEDGEMENT and REFUSAL (R225, R239, R260, R262, R362): an answer closes its request; its bytes reach the instruction,
job, collective, admission or work on a block that asked; an acknowledged write is awaited no more; a refused access aborts its launch with PROTECT, and a
holder that cannot prepare aborts it with WATCHDOG. The sub-versions that an answer names become dependences
of the task that asked (R244, R254). An answer that nothing asked for is discarded (log entry 42, DESIGN CHOICE). Which answers belong to work on a
block is log entry 34, the mark of an acknowledged chorus packet, a payload of 1, log entry 19, and what of an aborted run still awaits an answer
(noteAnswer) log entry 39. What a log entry is named for is the model's choice, no rule of the spec. -/
def Sys2Proof.Claims.AnswersReachTheirRequests : Prop :=
  ∀ (s : State) (p : Packet) (r : Request) (j k : Nat) (l : Launch),
    let woken := arrived s p
    let w := noteAnswer woken p.tag
    let closed := meetDeps (awaitedPulse (closeRequest w r) r.ctx) r p.deps
    (arrives s p 0x03 → requestOf w p = some r → (r.kind = 0x02 ∨ r.kind = 0x06) →
      (r.core = blockMaker → exec (.loadResponse p) s = .next (settle (farAnswer closed r p.payload p.deps))) ∧
      (r.core = 257 → exec (.loadResponse p) s = .next (settle (takeHostRecord closed r.ctx r.id (ofBytes p.payload)))) ∧
      (r.core = 256 → exec (.loadResponse p) s = .next (settle (modColl closed r.ctx r.id r.slot
        (fun q => { q with data := addCells q.data r.va p.payload, waits := q.waits - 1 })))) ∧
      (r.core < 256 → (getCore closed r.core).ctx = some r.ctx → r.job = some j → exec (.loadResponse p) s =
        .next (settle (modJob closed r.core j (fun q => { q with data := addCells q.data r.va p.payload, waits := q.waits - 1 })))) ∧
      (r.core < 256 → (getCore closed r.core).ctx = some r.ctx → r.job = none →
        exec (.loadResponse p) s = .next (settle (answerCore closed r.core r p.payload))) ∧
      (r.core < 256 → (getCore closed r.core).ctx ≠ some r.ctx → exec (.loadResponse p) s = .next (settle closed))) ∧
    (arrives s p 0x03 → requestOf w p = none → exec (.loadResponse p) s = .next (discardPacket w)) ∧
    (arrives s p 0x04 → p.payload ≠ [1] → requestOf w p = some r → (r.kind = 0x01 ∨ r.kind = 0x07) →
      exec (.acknowledgement p) s = .next (settle (meetDeps (awaitedPulse (writeAnswered w r) r.ctx) r p.deps))) ∧
    (arrives s p 0x04 → p.payload ≠ [1] → requestOf w p = none → exec (.acknowledgement p) s = .next (discardPacket w)) ∧
    (arrives s p 0x05 → ofBytes p.payload < 0x10 → requestOf w p = some r →
      (r.kind = ofBytes p.payload → exec (.refusal p) s = .next (settle (requestRefused (pulse w r.ctx) r))) ∧
      (r.kind ≠ ofBytes p.payload → exec (.refusal p) s = .next (discardPacket w))) ∧
    (arrives s p 0x05 → ofBytes p.payload = 0x20 → residentOf woken p.job p.rank = some k → getLaunch woken k (p.launch / 2) = some l →
      l.phase = .preparing → exec (.refusal p) s = .next (abortLaunch woken k l.handle .watchdog))

/-- COMMIT_CONTROL (R252, R255, R256, R258, R262, R264): what an owner asks of the shadow that this package keeps for its launch, by the model's codes
(log entries 8 and 39): prepare, which is answered, commit, drop, discard one sub-version, join the parent's; a holder's acknowledgement, which reaches the
owner, its question for the outcome, which is answered once there is one, and its report of a full spill area.
What a log entry is named for is the model's choice, no rule of the spec. -/
def Sys2Proof.Claims.CommitControlActsOnItsShadow : Prop :=
  ∀ (s : State) (p : Packet) (k : Nat) (c : Ctx) (l : Launch) (q : PeerShadow),
    let w := awake s p k
    let is := fun (t : State) => exec (.commitControl p) s = .next t
    let prepared := modPeer w p (fun y => { y with prepared := true, askAt := askTime w k })
    let owner := p.launch / 2
    let without := rememberGone (withdrawPeer w p p.stamp) p p.stamp
    let discarded := modPeer without p (fun y => { y with bytes := y.bytes.filter (fun b => decide (b.stamp ≠ p.stamp)) })
    let dropped := dropPeer (withdrawPeer w p 0) p
    arrives s p 0x20 →
    (forRank s p k c →
      (p.tag = 1 → is (sendControl (modVersion prepared (peerOwner p) (fun v => { v with prepared := true })) p 6)) ∧
      (p.tag = 2 → is (commitPeer (forgetGone w p) k p)) ∧
      (p.tag = 3 → is (settle (forgetGone dropped p))) ∧
      (p.tag = 9 → is (settle (rememberGone (forgetGone dropped p) p 0))) ∧
      (p.tag = 4 → peerOf w p = some q → is (settle (l2Sweep discarded))) ∧
      (p.tag = 4 → peerOf w p = none → is (settle without)) ∧
      (p.tag = 5 → is (adoptPeer (forgetGone w p) p (ofBytes p.payload))) ∧
      (p.tag = 6 → is (prepareAck w k owner (p.src + 131072 * p.srank))) ∧
      (p.tag = 7 → getLaunch w k owner = some l →
        is (if l.ended then sendControl w p (if l.marked && p.launch % 2 = 0 then 2 else 3) else w)) ∧
      (p.tag = 7 → getLaunch w k owner = none → is (sendControl w p 3)) ∧
      (p.tag = 8 → is (abortLaunch w k owner .shadowFull))) ∧
    (residentOf s p.job p.rank = none → is (refusePacket (arrived s p) p))

namespace Sys2Proof.Claims
open Sys2Proof.Machine

/-- A context that runs, with no save, restore or decision under way and no core held for the debugger (R322, R334). -/
abbrev decidable (s : State) (k : Nat) (c : Ctx) : Prop :=
  c.state = .running ∧ c.saving = false ∧ c.restoring = false ∧ c.decided = none ∧ ctxHeld s k = false

/-- A launch of another context was admitted while that context does not run, and the free clusters hold no partition that it may have (R277,
R428). -/
abbrev wantsClusters (s : State) (k h : Nat) (c : Ctx) (l : Launch) : Prop :=
  getCtx s k = some c ∧ getLaunch s k h = some l ∧ (c.state = .parked ∨ c.state = .green) ∧ l.live = true ∧ l.newcomer = true ∧
    canPlace s c.clusters = false

/-- A core's task that the decision finds at work: it has started and has not ended. -/
abbrev atWork (t : Task) : Prop := t.phase ≠ .held ∧ ∀ b, t.phase ≠ .ending b

end Sys2Proof.Claims

/-! ## Pre-emption, saving and restoring -/

/-- Table 14.2 (R253, R319 to R321): a block that a TGET holds goes back first; an idle core has nothing to do; held work goes back; a task that has ended its
program drains; a task whose launch gives no
checkpoint or whose newcomer pays for the kill is killed; one whose remaining estimate fits the drain window drains until the window
ends; any other stops at once with its results in the late-write buffer. -/
def Sys2Proof.Claims.EachCoreGetsItsOutcome : Prop :=
  ∀ (s : State) (n k tokens : Nat) (spent b : Bool) (t : Task),
    let back := putBackTget s n
    let c := getCore back n
    let decided := decideCore s n k tokens spent
    (c.task = none → decided = setCore back n { c with outcome := .nothing }) ∧
    (c.task = some t → t.phase = .held → decided = putBackWork back n k t) ∧
    (c.task = some t → t.phase = .ending b → decided = setCore back n { c with outcome := .drain, drainBy := none }) ∧
    (c.task = some t → atWork t → spent = false → c.dev.est.toNat ≤ back.plat.wd →
      decided = setCore back n { c with outcome := .drain, drainBy := some (c.now + back.plat.wd) }) ∧
    (c.task = some t → atWork t → (spent = true ∨ back.plat.wd < c.dev.est.toNat) →
      ((back.plat.tk ≤ tokens ∨ t.ckpt = false) → decided = killOutcome back n k t) ∧
      (tokens < back.plat.tk → t.ckpt = true → decided = setCore back n (stopCore c))) ∧
    ((getCore s n).sync = [] → back = s)

/-- PREEMPT_DECISION and DRAIN_WINDOW_EXPIRE (R319, R321, R428): the decision gives every core of the victim its outcome, with the newcomer's
tokens; a drain whose window has run out is decided again, without the drain. What such a core awaits of other packages it ends there (R186; log
entry 13). -/
def Sys2Proof.Claims.DecisionsReachEveryCore : Prop :=
  ∀ (s : State) (k v h n d : Nat) (c x : Ctx) (l : Launch) (t : Task),
    let told := modCtx (modCtx s v (fun y => { y with claim := true })) k
      (fun y => { y with decided := some l.desc.tokens, dog := .saving, dogCount := 0 })
    let core := getCore s n
    (getCtx s k = some c → decidable s k c → wantsClusters s v h x l →
      exec (.preemptDecision k v h) s = .next ((coresOf c).foldl (fun st e => dropAways (decideCore st e.2 k l.desc.tokens false) e.2) told)) ∧
    (getCtx s k = some c → ¬ decidable s k c → exec (.preemptDecision k v h) s = .next s) ∧
    (core.ctx = some k → getCtx s k = some c → core.drainBy = some d → core.task = some t → atWork t → core.outcome = .drain →
      d ≤ core.now → exec (.drainWindowExpire n) s = .next (dropAways (decideCore s n k (c.decided.getD 0) true) n))

/-- PARK, SAVE_COMPLETE, RESTORE and RESTORE_COMPLETE (R2, R288, R289, R292, R316, R318, R324, R325, R338, R343, R350, R428): a running context
without a started task begins its save, its held work back in its queues; once every core's image can be written and every drained task has merged, images and positions are written, and the
context is parked without clusters; a parked one, unless its fly has still to switch to it, is written onto free clusters whose die has room for
its frontiers and its board, wiped where another job used them; then all its cores resume with replay and its points go on. An image that cannot
be read kills the context, and its frames are retired.
The share of the board is log entry 9 (DESIGN CHOICE), the context whose fly has still to switch log entry 21, and which posted jobs hold
a save log entry 89 (DEDUCED). What a log entry is named for is the model's choice, no rule of the spec. -/
def Sys2Proof.Claims.ContextsAreSavedAndRestored : Prop :=
  ∀ (s : State) (k : Nat) (c : Ctx) (clusters : List Nat),
    let moved := { c with part := clusters }
    let die := boardDie moved
    let f := relocate (upTo c.clusters) clusters
    let claimed := clusters.foldl (fun st y => claimCluster st c.job y) s
    let mayRestore : Prop := c.state = .parked ∧ c.restoring = false ∧ awaitsSwitch s k = false ∧ clustersOk s c clusters = true ∧
      frontierUsed s die + frontierNeed c ≤ 65536 ∧ c.board.length ≤ c.overflowCap + boardShare s k die
    let loaded := (coresOf moved).foldl (fun st e => setCore st e.2 (restoredCore c k e.1 f))
      (loadLocal claimed k { ((getCtx claimed k).getD c) with part := clusters })
    let resumed := (coresOf c).foldl (fun st e => resumeCore st e.2) s
    let running := modCtx resumed k (fun y =>
      { y with restoring := false, state := .running, dog := if ctxHeld resumed k then .off else .armed, dogCount := 0, positions := []
               launches := y.launches.map (fun l => { l with newcomer := false }) })
    getCtx s k = some c →
    (decidable s k c → (∀ e ∈ coresOf c, ∀ t, (getCore s e.2).task = some t → t.phase = .held) →
      exec (.park k) s = .next (modCtx ((coresOf c).foldl (fun st e => putBackHeld st e.2 k) s) k
        (fun y => { y with saving := true, dog := .saving, dogCount := 0 }))) ∧
    (decidable s k c → (∃ e ∈ coresOf c, ∃ t, (getCore s e.2).task = some t ∧ t.phase ≠ .held) → exec (.park k) s = .next s) ∧
    ((c.decided ≠ none ∨ c.saving = true) → (∀ e ∈ coresOf c, coreSavable s e.2 = true) → (∀ l ∈ c.launches, mergeDue l = false) →
      exec (.saveComplete k) s = .next (if imageDamaged s c then killDamaged s k c else saveNow s k c)) ∧
    ((∃ e ∈ coresOf c, coreSavable s e.2 = false) ∨ (∃ l ∈ c.launches, mergeDue l = true) → exec (.saveComplete k) s = .next s) ∧
    (c.decided = none → c.saving = false → exec (.saveComplete k) s = .next s) ∧
    (mayRestore → imageDamaged s c = true → exec (.restore k clusters) s = .next (killDamaged s k c)) ∧
    (¬ mayRestore → exec (.restore k clusters) s = .next s) ∧
    (mayRestore → imageDamaged s c = false → exec (.restore k clusters) s = .next (modCtx (setFrontier loaded die (frontierUsed loaded die + frontierNeed c)) k
        (fun y => { y with restoring := true, claim := false, dog := .saving, dogCount := 0
                           board := placeEntries (boardShare s k die) y.board
                           images := y.images.map (fun e => (e.1, keptImage e.2))
                           launches := y.launches.map (fun l => if l.live then { l with frontier := frontierBytes l } else l) }))) ∧
    (c.restoring = true → exec (.restoreComplete k) s = .next (settle
      ((c.launches.filter (fun l => l.live && l.desc.mode == 0)).foldl (fun st l =>
        let st2 := if l.desc.flag 1 then resumePoints (resumePoints st k l false) k l true else resumePoints st k l false
        if l.desc.flag 1 then advanceGrid (advanceGrid st2 k l.handle false) k l.handle true else advanceGrid st2 k l.handle false)
        running)))

/-- A core that is stopped and resumes has the results that were in flight when it stopped still to land, each with the cycles that it had
left (R315, R316). -/
def Sys2Proof.Claims.LateWritesReplayWithTheirCyclesLeft : Prop :=
  ∀ (c : Core) (e : Pending) (d now : Nat), c.lwb = [] → e ∈ c.pend → e.due = some d → c.now ≤ d →
    ∃ q ∈ ({ (stopCore c) with now := now }.fromBuffer).pend,
      q.what = e.what ∧ q.flags = e.flags ∧ q.replay = true ∧ q.due = some (now + (d - c.now))

/-- WATCHDOG_FIRE, CONTEXT_KILL, CONTEXT_RESUME and CONTEXT_FREE (R326, R327, R352): a context without progress for its window is killed with
WATCHDOG, and system software may kill one; a killed context restarts parked from its queues, in its own slot or the lowest free one, or is
freed, and the waits of other packages that it held are refused. A killed context that leaves its slot to a new one keeps a number from 65 (log
entry 79, DESIGN CHOICE). -/
def Sys2Proof.Claims.ContextsAreKilledResumedAndFreed : Prop :=
  ∀ (s : State) (k j : Nat) (c : Ctx),
    let gone := s.link.monitors.filter (fun m => m.ctx == k)
    let link := { s.link with
      monitors := s.link.monitors.filter (fun m => m.ctx != k), arrived := s.link.arrived.filter (fun a => a.ctx != k) }
    getCtx s k = some c →
    ((c.dog = .armed ∨ c.dog = .saving) → 2 ^ c.wlog ≤ c.dogCount → exec (.watchdogFire k) s = .next (killContext s k .watchdog)) ∧
    ((c.dog = .off ∨ c.dogCount < 2 ^ c.wlog) → exec (.watchdogFire k) s = .next s) ∧
    (c.state ≠ .killed → exec (.contextKill k) s = .next (killContext s k .none)) ∧
    (c.state = .killed → residentCount s < 64 → k < 64 → exec (.contextResume k) s = .next (setCtx s k { c with state := .parked })) ∧
    (c.state = .killed → residentCount s < 64 → 64 ≤ k → (upTo 64).find? (fun y => (getCtx s y).isNone) = some j →
      exec (.contextResume k) s = .next (modCtx (renumberCtx s k j) j (fun y => { y with state := .parked }))) ∧
    (c.state ≠ .killed ∨ 64 ≤ residentCount s → exec (.contextResume k) s = .next s) ∧
    (c.state = .killed → exec (.contextFree k) s = .next (gone.foldl (fun st m => refusePacket st m.packet)
      { s with ctxs := spErase s.ctxs k, link := link })) ∧
    (c.state ≠ .killed → exec (.contextFree k) s = .next s)

/-- CONTEXT_CREATE (R11, R350, R352, R353, R366): a free slot, or that of a killed context, which then keeps none of the 64, takes a parked context
with nothing queued; its chip allocation is wiped where another job used it last, its frames as well, where no context uses them, and its
translations begin empty. One with job identifier 0 or of more than 32 bits, that the package has no room for, or that would map the pools of the
chorus or what is reserved is refused (the addresses held back are log entry 77), with the number 1 (log entry 66, DESIGN CHOICE). A wipe takes
the clock of the grant (log entry 43). What a log entry is named for is the model's choice, no rule of the spec. -/
def Sys2Proof.Claims.ContextsAreCreatedParkedAndWiped : Prop :=
  ∀ (s : State) (k : Nat) (p : ContextParams),
    let s0 := vacate s k
    let s1 := setCtx s0 k { newCtx p with code := spGet [] s0.link.code k }
    let place := chipPlace p.chipBase
    let granted := claimRange s1 [] place p.chipSize p.job
    let t := clearTlbs (claimPages s granted k) k
    (slotFree s k = true → paramsFit s p = true → mapsTaken s1 k = false →
      exec (.contextCreate k p) s = .next { t with link := { t.link with code := spErase t.link.code k } }) ∧
    (∀ u ∈ s.hw.lastUse, u.job ≠ p.job → ∀ a, place ≤ a → a < place + p.chipSize → u.base ≤ a → a < u.base + u.size →
      rawByte granted a = 0 ∧ (∀ w ∈ granted.tags, w = a / 4 → 4 * w < max place u.base)) ∧
    (p.job = 0 ∨ 2 ^ 32 ≤ p.job ∨ slotFree s k = false ∨ paramsFit s p = false ∨ mapsTaken s1 k = true →
      exec (.contextCreate k p) s = .next (post s (.refused 1)))

/-- DBG_SET, DEBUGGER_ATTACH, DEBUG_RESUME and DEBUG_CONTEXT_SAVE (R312, R332, R334): a comparator takes its value without the reserved
bits; a held core resumes with replay, its comparators skipped once, and the watchdog is armed again when no other core is held; the
whole context of a held task is saved, its other tasks stopped where they are. -/
def Sys2Proof.Claims.TheDebuggerSetsResumesAndSaves : Prop :=
  ∀ (s : State) (k n i v : Nat) (on : Bool) (c : Ctx),
    let core := getCore s n
    let back := core.fromBuffer
    let resumed := rearmAway (setCore s n { back with status := .running, ctl := { back.ctl with skipBreak := true } }) n
    getCtx s k = some c →
    exec (.debuggerAttach k on) s = .next (setCtx s k { c with debugger := on }) ∧
    (i < 8 → n < 16 * c.clusters → exec (.dbgSet k n i v) s =
      .next (setCtx s k { c with dbg := spSet 0 c.dbg (8 * n + i) (BitVec.ofNat 64 v &&& 0x80FC0FFF) })) ∧
    (core.ctx = some k → core.status = .held → c.state = .running → c.restoring = false → c.saving = false →
      (ctxHeld resumed k = true → exec (.debugResume n) s = .next resumed) ∧
      (ctxHeld resumed k = false → exec (.debugResume n) s =
        .next (modCtx resumed k (fun y => { y with dog := .armed, dogCount := 0 })))) ∧
    (core.status ≠ .held → exec (.debugResume n) s = .next s) ∧
    (c.state = .running → c.saving = false → c.restoring = false → ctxHeld s k = true →
      exec (.debugContextSave k) s = .next ((coresOf c).foldl (fun st e =>
        let back := putBackTget st e.2
        match (getCore back e.2).task with
        | some t =>
          match t.phase with
          | .held => putBackWork back e.2 k t
          | .ending _ => setCore back e.2 { getCore back e.2 with outcome := .drain, drainBy := none }
          | _ => dropAways (setCore back e.2 (stopForSave (getCore back e.2))) e.2
        | none => back) (setCtx s k { c with saving := true, dog := .saving, dogCount := 0 }))) ∧
    (ctxHeld s k = false → exec (.debugContextSave k) s = .next s)

namespace Sys2Proof.Claims
open Sys2Proof.Machine

/-- What waits for a page of a context goes on once the page is present: the translations found missing are forgotten, resident programs
that gave up a core for it may start again, points are offered again, work on held blocks is retried, and runs whose cores have all ended are looked
at again, in that order (R295, R297, R298, R329). -/
def pageBack (s : State) (k page : Nat) (c : Ctx) : State :=
  let unheld := modCtx (forgetPage s k page) k (fun y => { y with
    heldBlocks := y.heldBlocks.filter (fun b => decide (b.wait ≠ .page page)), residents := y.residents.filter (fun w => decide (w.page ≠ page)) })
  let offered := c.launches.foldl (fun st l => requeuePoints (requeuePoints st k l.handle false page) k l.handle true page) unheld
  settle (checkEveryRun ((c.heldBlocks.filter (fun b => b.wait == .page page)).foldl (fun st b => retryBlock st k b) offered) k)

/-- A context references an object, on a core of its own or by a record or a saved region (R331). -/
def usesObject (s : State) (o : CodeObj) (k : Nat) (c : Ctx) : Bool :=
  ctxReferences s c o ||
    s.cores.any (fun e => e.2.ctx == some k && (e.2.imem.hasTag o.tag || (e.2.task.map (fun t => t.code)) == some o.id))

/-- A forced unload's launches, in every context that references the object (R331). -/
def unloadEverywhere (s : State) (o : CodeObj) : State :=
  (s.ctxs.filter (fun e => usesObject s o e.1 e.2)).foldl (fun st e => unloadLaunches st e.1 e.2 o.id) s

/-- The regions of an object, everywhere, are no longer valid, and contexts that held it remember where their queues stood when it was taken
away. -/
def unloadRegions (s : State) (o : CodeObj) : State :=
  { s with
    cores := s.cores.map (fun e => (e.1, { e.2 with imem := e.2.imem.dropTag o.tag }))
    ctxs := s.ctxs.map (fun e => (e.1, { e.2 with
      images := e.2.images.map (fun i => (i.1, { i.2 with imem := i.2.imem.dropTag o.tag }))
      unloaded := if (codeOf e.2 o.id).isSome then ⟨o.id, e.2.queues.map (fun q => (q.1, q.2.tail))⟩ :: e.2.unloaded
        else e.2.unloaded })) }

end Sys2Proof.Claims

/-! ## Pages and code -/

/-- PAGE_WALK_COMPLETE, PAGE_PRESENT and ADDRESS_INVALID (R295, R328, R329, R348): the result of a walk that a walker has taken up enters the caches of
its
die, and a malformed table is reported; what waits for a page goes on when it is present, and aborts with TRANSLATE when there is none: launches
with a point, a held or ready block or a resident program that waits for the page. -/
def Sys2Proof.Claims.WalksEndAndPagesArrive : Prop :=
  ∀ (s : State) (i k page : Nat) (w : Walk) (c : Ctx),
    let rest := { s with hw := { s.hw with walks := s.hw.walks.eraseIdx i } }
    let va := 65536 * w.page
    let cached := enterTlbs rest w (tlbOfWalk va (walkTable rest c.root va))
    (s.hw.walks[i]? = some w → i ∈ runningWalks s → getCtx s w.ctx = some c →
      (walkTable rest c.root va ≠ .malformed → exec (.pageWalkComplete i) s = .next cached) ∧
      (walkTable rest c.root va = .malformed → exec (.pageWalkComplete i) s = .next (post cached (.pageTable w.ctx w.page)))) ∧
    (i ∉ runningWalks s → exec (.pageWalkComplete i) s = .next s) ∧
    (getCtx s k = some c → exec (.pagePresent k page) s = .next (pageBack s k page c) ∧
      exec (.addressInvalid k page) s =
        .next (modCtx ((launchesAtPage s k page c).foldl (fun st h => abortLaunch st k h .translate) (forgetPage s k page)) k
          (fun y => { y with heldBlocks := y.heldBlocks.filter (fun b => decide (b.wait ≠ .page page)) }))) ∧
    (∀ h, h ∈ launchesAtPage s k page c ↔
      (∃ l ∈ c.launches, l.handle = h ∧ ∃ p ∈ l.a.points ++ l.b.points, p.st = .pending ∧ p.page = page) ∨
      (∃ b ∈ c.heldBlocks, b.launch = h ∧ b.wait = .page page) ∨ (∃ r ∈ c.residents, r.launch = h ∧ r.page = page) ∨
      (∃ e ∈ c.board ++ c.deques.flatMap (fun d => d.2), e.launch = h ∧
        ∃ a, e.work = .block a ∧ a / 65536 = page ∧ blockHome s k a = .absent))

/-- MAPPING_CHANGE and PAGE_MIGRATE (R330, R349, R350, R354, R366): a rewritten entry wipes the frames that pass to another job and leaves no old
translation of its context; a page moves to frames that exist, are aligned to its size, not retired and not reserved (the chorus's pools among
them, whose addresses are log entry 77), with its bytes and what waits at its home, and is then remapped.
A page in whose frame an access of the host is held stays (log entry 98, DESIGN CHOICE). A mapping of what is reserved is refused,
with the number 4 (log entry 66, DESIGN CHOICE); a wipe takes the clock of the change (log entry 43).
What a log entry is named for is the model's choice, no rule of the spec. -/
def Sys2Proof.Claims.MappingsChangeAndPagesMigrate : Prop :=
  ∀ (s : State) (k page frame place entry p bits node old : Nat) (c : Ctx) (level : Nat) (rd wr : Bool),
    let new := 65536 * frame
    let size := 2 ^ bits
    let written := writeDirect s place (bytesOf 8 entry)
    let copied := copyPlaces (mergeRange (claimRange s (framesUsed s) new size c.job) old size) old new size
    let e := rawNat copied p 8
    getCtx s k = some c →
    (place % 8 = 0 → physExists place = true →
      (mapsTaken written k = false → exec (.mappingChange k place entry) s = .next (clearTlbs (claimPages s written k) k)) ∧
      (mapsTaken written k = true → exec (.mappingChange k place entry) s = .next (post s (.refused 4)))) ∧
    (place % 8 ≠ 0 ∨ physExists place = false → exec (.mappingChange k place entry) s = .next s) ∧
    (leafPlace s (65536 * page) 3 1 c.root = some (p, bits) → walkTable s c.root (65536 * page) = .leaf level 0 node old rd wr →
      (new % size = 0 → pageUsable s new size = true → taken s new size = false → hostHolds s old size = false → new ≠ old →
        exec (.pageMigrate k page frame) s = .next (clearTlbs (writeDirect (moveHomes copied k old new size) p
          (bytesOf 8 (e - field e 12 34 * 4096 + new))) k)) ∧
      ((new % size ≠ 0 ∨ pageUsable s new size = false ∨ taken s new size = true ∨ hostHolds s old size = true) → exec (.pageMigrate k page frame) s = .next s))

/-- After a change of mapping no core that runs the context holds a translation of it, and neither does a die (R330). -/
def Sys2Proof.Claims.NoOldTranslationOutlivesItsMapping : Prop :=
  ∀ (s t : State) (k place entry n : Nat), getCtx s k ≠ none → place % 8 = 0 → physExists place = true →
    mapsTaken (writeDirect s place (bytesOf 8 entry)) k = false →
    exec (.mappingChange k place entry) s = .next t →
    ((getCore t n).ctx = some k → (getCore t n).tlb = []) ∧ (∀ e ∈ t.hw.tlb0 ++ t.hw.tlb1, e.ctx ≠ k)

/-- CODE_LOAD, CODE_UNLOAD and FORCED_UNLOAD (R89 to R91, R331, R379, R383): in a package that takes contexts, an accepted object gets an identifier and a tag, and its data section is
written; a refused one leaves no trace; an object is unloaded unless something references it; a forced unload ends what references it.
What a record outside the package names is log entry 80, and how a record that omits CODE is known log entry 86 (DESIGN CHOICE).
What a log entry is named for is the model's choice, no rule of the spec. -/
def Sys2Proof.Claims.CodeIsLoadedAndUnloaded : Prop :=
  ∀ (s : State) (k id : Nat) (image : CodeImage) (o : CodeObj) (c : Ctx),
    let n := s.host.nextCode
    let obj : CodeObj := { id := n, tag := n, len := image.len, bytes := image.bytes, data := image.data }
    let known := post { s with host := { s.host with nextCode := n + 1 } } (.codeLoaded k n)
    (takesContexts s = false → exec (.codeLoad k image) s = .next s) ∧
    (takesContexts s = true → obj.accepted = false → exec (.codeLoad k image) s = .next (post s (.codeRefused k))) ∧
    (takesContexts s = true → obj.accepted = true → getCtx known k = some c →
      exec (.codeLoad k image) s = .next (loadData (setCtx known k { c with code := c.code ++ [obj] }) k obj)) ∧
    (takesContexts s = true → obj.accepted = true → getCtx known k = none → exec (.codeLoad k image) s = .next { known with link := { known.link with
      code := spPut known.link.code k (spGet [] known.link.code k ++ [obj]) } }) ∧
    (findCode s id = some o → o.id = id →
      (codeReferenced s o = true → exec (.codeUnload id) s = .next (post s (.codeBusy id))) ∧
      (codeReferenced s o = false → exec (.codeUnload id) s = .next (removeCode s id)) ∧
      exec (.forcedUnload id) s = .next (removeCode (unloadRegions (unloadEverywhere s o) o) id))

/-- DEMOTE, PROMOTE and CLASSIFY_WINDOW (R305, R338, R354, R366): a parked context's save area moves to the green room and back, outside what the
chorus and other contexts take (the chorus's addresses are log entry 77); a context whose area cannot be read is killed, its frames retired; a running context is classed by the multiplications of the window for each byte of
memory traffic, whose number the model leaves open, with a window without traffic of class 2 (log entry 45).
What a log entry is named for is the model's choice, no rule of the spec. -/
def Sys2Proof.Claims.ContextsAreDemotedPromotedAndClassed : Prop :=
  ∀ (s : State) (k area : Nat) (c : Ctx), getCtx s k = some c →
    let moved := fun (r : Residency) =>
      if imageDamaged s c then killDamaged s k c else setCtx s k { c with state := r, area := area }
    (inHbm area = false → physExists area = true → taken s area (areaBytes c) = false → c.state = .parked → c.restoring = false →
      exec (.demote k area) s = .next (moved .green)) ∧
    (inHbm area = true → exec (.demote k area) s = .next s) ∧
    (inHbm area = true → taken s area (areaBytes c) = false → c.state = .green → c.restoring = false →
      exec (.promote k area) s = .next (moved .parked)) ∧
    (c.state = .running → ∃ bytes : Nat, exec (.classifyWindow k) s = .next (setCtx { s with fresh := s.fresh + 1 } k
      { c with macs := 0, intensity := if 80 * bytes ≤ c.macs then 2 else if c.macs < 40 * bytes then 0 else 1 }))

/-! ## Flying a rank -/

/-- FLY_BIND, FLY_CANCEL, FLY_SAVE, FLY_SWITCH, FLY_ABANDON and FLY_RELEASE (R338, R350, R355, R356, R357, R358): at the source a fly asks the
destination what it needs; once that has bound it, it waits for its context's step boundary, where the context is saved and sent; once it is parked
there this package tells the destination that it is no longer here, and forwards what still comes for it, until it gives up the frames, wiped. A fly
is cancelled before it is sent, and abandoned when the destination is lost or the transfer stalls. The codes of these packets and what BIND asks for
are log entry 21 (DESIGN CHOICE), the number 2 of a refusal log entry 66 (DESIGN CHOICE).
What a log entry is named for is the model's choice, no rule of the spec. -/
def Sys2Proof.Claims.FliesLeaveTheirSource : Prop :=
  ∀ (s : State) (k node : Nat) (c : Ctx) (f : Fly),
    let id := s.link.nextFly
    let opened := { s with link := { s.link with
      nextFly := id + 1, flies := s.link.flies ++ [{ ctx := k, node := node, phase := .bind, id := id }] } }
    let asks := ctxmOf c.code ++ wordsOf [c.chipBase, c.chipSize, c.clusters, pageCount s c 16, pageCount s c 27, pageCount s c 38, 1]
    let saved := if c.state = .running then saveNow s k c else s
    let sent := mergePages (modFly (modCtx saved k (fun y => { y with state := .flying })) k
      (fun y => { y with phase := .send, since := s.clock })) c
    let forwarding := clearTlbs (modFly s k (fun y => { y with phase := .forward, held := [] })) k
    let waits := (s.link.monitors.filter (fun m => m.ctx == k)).map (fun m => m.packet)
    let gone := { forwarding with ctxs := spErase forwarding.ctxs k
                                  link := { forwarding.link with monitors := forwarding.link.monitors.filter (fun m => m.ctx != k) } }
    let told := fun (st : State) (n : Nat) => sendPacket st (flyControlPacket st f.node c.job c.rank f.id n [])
    let parked := modCtx s k (fun y => { y with state := .parked })
    (getCtx s k = some c → c.state ≠ .killed → c.state ≠ .flying → findFly s k = none → awaitsSwitch s k = false →
      exec (.flyBind k node true) s = .next (sendPacket opened (flyControlPacket opened node c.job c.rank id 1 asks)) ∧
      exec (.flyBind k node false) s = .next (post s (.refused 2))) ∧
    (findFly s k = some f → getCtx s k = some c →
      ((f.phase = .bind ∨ f.phase = .wait) → exec (.flyCancel k) s = .next (abandonFly s f c)) ∧
      (f.phase = .wait → flySavable s k c = true → imageDamaged s c = false →
        exec (.flySave k) s = .next (sendContext sent f ((getCtx sent k).getD c))) ∧
      (f.phase = .wait → flySavable s k c = true → imageDamaged s c = true → exec (.flySave k) s = .next (killDamaged s k c)) ∧
      (f.phase ≠ .wait ∨ flySavable s k c = false → exec (.flySave k) s = .next s) ∧
      (f.phase = .send → f.ready = false → flyLost s f c = true → exec (.flyAbandon k) s = .next (abandonFly parked f c)) ∧
      (f.phase ≠ .send ∨ f.ready = true ∨ flyLost s f c = false → exec (.flyAbandon k) s = .next s) ∧
      (f.phase = .send → f.ready = true → exec (.flySwitch k) s =
        .next (post ((waits ++ f.held).foldl (fun st p => forwardHeld st f p) (told gone 8)) (.flown k f.node))) ∧
      (f.phase = .send → f.ready = false → exec (.flySwitch k) s = .next s)) ∧
    (s.link.flies.find? (fun y => y.ctx == k && y.phase == .forward) = some f → exec (.flyRelease k) s =
      .next (f.frames.foldl (fun st e => wipeAll st (65536 * e.1) 65536) { s with link := { s.link with flies := s.link.flies.erase f } }))

/-- A fly that is given up leaves its context parked at the source with what was held for it performed, and tells the destination, which drops
what it has put there (R356, R357; log entry 21). What a log entry is named for is the model's choice, no rule of the spec. -/
def Sys2Proof.Claims.AbandonedFliesLeaveNothingBehind : Prop :=
  ∀ (s : State) (p : Packet) (a : Nat) (c : Ctx) (f : Fly) (v : Arrival),
    let told := fun (st : State) => sendPacket st (flyControlPacket st f.node c.job c.rank f.id 5 [])
    let w := arrived s p
    let without := { w with link := { w.link with copies := w.link.copies.filter (fun y => !(y.node == p.src && y.id == p.tag)) } }
    (abandonFly s f c = told (f.held.foldl (fun st q => holdEvent st q.addr (.packet q)) (dropFly s f.ctx))) ∧
    (arrives s p 0x30 → ofBytes (p.payload.take 1) = 5 →
      ((∀ y ∈ s.link.arrived, y.node ≠ p.src ∨ y.id ≠ p.tag) → exec (.flyControl p) s = .next without) ∧
      (s.link.arrived = [v] → v.node = p.src → v.id = p.tag → getCtx s v.ctx = some c →
        ∃ wiped : State, exec (.flyControl p) s = .next wiped ∧ getCtx wiped v.ctx = none ∧
          (∀ u ∈ framesOf without c, u.1 ≤ a → a < u.1 + u.2 → rawByte wiped a = 0)) ∧
      (s.link.arrived = [v] → v.node = p.src → v.id = p.tag → getCtx s v.ctx = none → exec (.flyControl p) s = .next without)) ∧
    (arrives s p 0x30 → ofBytes (p.payload.take 1) = 8 →
      (s.link.arrived.find? (fun y => y.node == p.src && y.id == p.tag) = some v → exec (.flyControl p) s =
        .next (post { w with link := { w.link with arrived := w.link.arrived.erase v } } (.flown v.ctx w.link.node))) ∧
      (s.link.arrived.find? (fun y => y.node == p.src && y.id == p.tag) = none → exec (.flyControl p) s = .next (refusePacket w p)))

/-- FLY_CONTROL, FLY_DATA and RECREATE (R350, R356, R359, R362, R366, R378): the destination binds a fly where a slot with the same code, the chip
scratchpad range, frames and a save area are free, and reserves them; the context arrives part by part, by the model's packets (log entry 21), and
stands parked once its parts, code and page tables are such as it had; else it is refused, with the number 3, as a declined fly is with 2 (log entry
66, DESIGN CHOICE). A packet for no fly that is known here is refused.
What a log entry is named for is the model's choice, no rule of the spec. -/
def Sys2Proof.Claims.FliesArriveParked : Prop :=
  ∀ (s : State) (p : Packet) (k i : Nat) (y : Copy) (prm : ContextParams) (f : Fly) (c : Ctx),
    let w := arrived s p
    let code := ofBytes (p.payload.take 1)
    let page := p.payload.drop 1
    let news := pageFrames w c (wordAt page 0) (wordAt page 1)
    let answer := fun (st : State) (n : Nat) => sendPacket st (flyControlPacket st p.src p.job p.srank p.tag n [])
    let known := s.link.copies.find? (fun z => z.isOf p)
    let changed := fun (g : Copy → Copy) => { w with link := { w.link with
      copies := w.link.copies.map (fun z => if z.isOf p then g z else z) } }
    let s0 := { s with link := { s.link with copies := s.link.copies.eraseIdx i } }
    let parked := setCtx (vacate s0 k) k (arrivedCtx s0 k y prm)
    let framed := y.pages.foldl (fun st g => sendFrame st y prm.root g) (clearTlbs (writeCopy parked k y prm) k)
    let told := sendPacket framed (flyControlPacket framed y.node y.ctx.job y.ctx.rank y.id 4 [])
    let settled := { told with link := { told.link with code := spErase told.link.code k } }
    (arrives s p 0x30 →
      (code = 1 → bound w p = some y → exec (.flyControl p) s = .next (answer { w with link := { w.link with
        copies := w.link.copies ++ [y] } } 6)) ∧
      (code = 1 → bound w p = none → exec (.flyControl p) s = .next (answer w 7)) ∧
      (code = 2 → known = some y → y.complete = false → exec (.flyControl p) s = .next (changed (fun z => { z with complete := true }))) ∧
      (code = 2 → known = none → exec (.flyControl p) s = .next (refusePacket w p)) ∧
      (flyOf s p = some (f, c) →
        (code = 3 → exec (.flyControl p) s =
          .next (modFly w f.ctx (fun z => { z with frames := spMerge z.frames news, since := w.clock }))) ∧
        (code = 4 → exec (.flyControl p) s = .next (modFly w f.ctx (fun z => { z with ready := true }))) ∧
        (code = 6 → exec (.flyControl p) s = .next (modFly w f.ctx (fun z => if z.phase = .bind then { z with phase := .wait } else z))) ∧
        (code = 7 → f.phase = .bind → exec (.flyControl p) s = .next (post (dropFly w f.ctx) (.refused 2)))) ∧
      (flyOf s p = none → code ∉ [1, 2, 5, 8] → exec (.flyControl p) s = .next (refusePacket w p))) ∧
    (arrives s p 0x31 →
      (known = some y → y.complete = false → exec (.flyData p) s =
        .next (changed (fun z => z.withPart ⟨p.addr / 2 ^ 56, p.addr % 2 ^ 56, p.payload⟩))) ∧
      (known = none → exec (.flyData p) s = .next (refusePacket w p))) ∧
    (s.link.copies[i]? = some y → arrivalFits s0 k y prm = true → mapsTaken parked k = false →
      (y.live = true → exec (.recreate k i prm) s = .next { settled with link := { settled.link with
        arrived := ⟨k, y.node, y.id⟩ :: settled.link.arrived } }) ∧
      (y.live = false → exec (.recreate k i prm) s = .next (post settled (.flown k settled.link.node)))) ∧
    (s.link.copies[i]? = some y → arrivalFits s0 k y prm = false ∨ mapsTaken parked k = true →
      exec (.recreate k i prm) s = .next (post s (.refused 3)))

/-- What BIND reserves at the destination (R352, R356, R359): a free slot for which the same code is loaded, a free chip scratchpad range, and memory
in use by nothing: frames of the sizes asked for, and a save area in HBM. Which of the free ones it takes, and the layout of BIND, are log entry 21 (DESIGN CHOICE).
What a log entry is named for is the model's choice, no rule of the spec. -/
def Sys2Proof.Claims.BindReservesWhatTheContextNeeds : Prop :=
  ∀ (s : State) (p : Packet) (y : Copy), bound s p = some y →
    let asked := wordAt (p.payload.drop 33)
    slotFree s y.slot = true ∧ ctxmOf (spGet [] s.link.code y.slot) = (p.payload.drop 1).take 32 ∧
    chipFree s (asked 0) (asked 1) = true ∧ y.ctx.chipBase = asked 0 ∧ y.ctx.chipSize = asked 1 ∧ y.ctx.clusters = asked 2 ∧
    (y.frames.map (fun e => e.2) = List.replicate (asked 5) 38 ++ List.replicate (asked 4) 27 ++ List.replicate (asked 3) 16) ∧
    (∀ e ∈ y.frames, e.1 % 2 ^ e.2 = 0 ∧ pageUsable s e.1 (2 ^ e.2) = true ∧ ∀ u ∈ memoryUsed s, meets (e.1, 2 ^ e.2) u = false) ∧
    y.frames.Pairwise (fun a b => meets (a.1, 2 ^ a.2) (b.1, 2 ^ b.2) = false) ∧
    inHbm y.area = true ∧ pageUsable s y.area (areaBytes y.ctx) = true ∧ (∀ u ∈ memoryUsed s, meets (y.area, areaBytes y.ctx) u = false) ∧
    (∀ e ∈ y.frames, meets (y.area, areaBytes y.ctx) (e.1, 2 ^ e.2) = false)

namespace Sys2Proof.Claims
open Sys2Proof.Machine

/-- A stack's state replaced. -/
def stackIs (s : State) (n : Nat) (f : Stack → Stack) : State :=
  { s with hw := { s.hw with hbmStacks := spSet {} s.hw.hbmStacks n (f (spGet {} s.hw.hbmStacks n)) } }

/-- One more ignored or discarded event of the host port. -/
def ignored (s : State) : State := { s with host := { s.host with ignored := s.host.ignored + 1 } }

/-- A range of memory wiped: its bytes zero and its tags empty, no shadow, partial, logical time or damage left of it, and every
translation and lease gone (R350). -/
def wiped (s : State) (lo size : Nat) : State := wipeAll s lo size

/-- A command is taken: the port answers, no command is busy, and a state of Table 17.3 allows it; what it acts on (R382). -/
def placed (s : State) (code len : Nat) : State :=
  let w := wake s
  { w with host := { w.host with command := code + 2 ^ 16 * len } }

/-- The mailbox can take a command. -/
abbrev mailboxFree (s : State) : Prop := portReady s = true ∧ s.host.status ≠ 2

/-- The status word and result with which a command ends (R382). -/
def ends (s : State) (status : Nat) (result : List Byte) : State :=
  { s with host := { s.host with status := status, result := result } }

end Sys2Proof.Claims

/-! ## Memory hardware and the link -/

/-- CODE_SAMPLE and CODE_CHANGE (R344, Table 15.4): a sample in which the other code would toggle at most 7/8 as often is counted, and the
second in a row asks for the change; any other clears the count; the change is made and counted. -/
def Sys2Proof.Claims.BusCodesAreSampledAndChanged : Prop :=
  ∀ (s : State) (ch tdbi tltc : Nat),
    let c : Channel := spGet {} s.hw.channels ch
    let cur := if c.ltc then tltc else tdbi
    let other := if c.ltc then tdbi else tltc
    let is := fun (d : Channel) => { s with hw := { s.hw with channels := spSet {} s.hw.channels ch d } }
    (ch < 288 → c.changing = false → codesFrozen s ch = false → ¬ (tdbi = 0 ∧ tltc = 0) →
      (8 * other ≤ 7 * cur → c.second = true → exec (.codeSample ch tdbi tltc) s = .next (is { c with changing := true })) ∧
      (8 * other ≤ 7 * cur → c.second = false → exec (.codeSample ch tdbi tltc) s = .next (is { c with second := true })) ∧
      (7 * cur < 8 * other → exec (.codeSample ch tdbi tltc) s = .next (is { c with second := false }))) ∧
    (tdbi = 0 → tltc = 0 → exec (.codeSample ch tdbi tltc) s = .next s) ∧
    (c.changing = true → exec (.codeChange ch) s = .next (modCounters (is { ltc := !c.ltc, second := false, changing := false })
      (channelDie ch) (fun d => { d with codesw := min (d.codesw + 1) (2 ^ 64 - 1) })))

/-- HEARTBEAT, HEARTBEAT_DEADLINE, TAKEOVER and PATROL_SCRUB (R343, R345, Table 15.5): a heartbeat clears the count of missed ones; the fourth
missed in a row begins the takeover, which is reported; a controller that has a stack ignores and counts its heartbeats; while a pass of
the scrub runs, HSTS.SCRUB is 1, and its end counts what it corrected, a number that the model leaves open, and retires the frames that it
could not correct. That a pass is two events, its start and its end, is log entry 57 (DESIGN CHOICE).
What a log entry is named for is the model's choice, no rule of the spec. -/
def Sys2Proof.Claims.StacksAreWatchedTakenAndScrubbed : Prop :=
  ∀ (s : State) (n : Nat),
    let c : Stack := spGet {} s.hw.hbmStacks n
    n < 8 →
    (c.hb = .normal → exec (.heartbeat n) s = .next (stackIs s n (fun y => { y with missed := 0, up := true }))) ∧
    (c.hb = .surrogate → exec (.heartbeat n) s = .next (stackIs s n (fun y => { y with late := min (y.late + 1) 255, up := true }))) ∧
    (c.hb = .normal → c.missed < 3 →
      exec (.heartbeatDeadline n) s = .next (stackIs s n (fun y => { y with missed := y.missed + 1 }))) ∧
    (c.hb = .normal → 3 ≤ c.missed → exec (.heartbeatDeadline n) s =
      .next (post (stackIs s n (fun y => { y with missed := 4, hb := .taking })) (.taken n))) ∧
    (c.hb = .taking → exec (.takeover n) s = .next (stackIs s n (fun y => { y with hb := .surrogate }))) ∧
    (c.scrub = false → exec (.patrolScrub n) s = .next (stackIs s n (fun y => { y with scrub := true }))) ∧
    (c.scrub = true → ∃ corrected : Nat,
      let ended := stackIs s n (fun y => { y with scrub := false });
      let counted := modCounters { ended with fresh := s.fresh + 1 } (n / 4)
        (fun d => { d with dramce := min (d.dramce + corrected) (2 ^ 64 - 1) });
      exec (.patrolScrub n) s = .next ((s.hw.damaged.filter (fun p => inHbm p && stackOf p == n)).foldl retireFrame counted)) ∧
    hstsWord s n / 4 % 2 = ofBool c.scrub ∧ counterWords s (n / 4) = (fun d : DieCounters =>
      [d.casc, d.sramce, d.dramce, d.retired, d.codesw]) (spGet {} s.hw.counters (n / 4))

/-- WIPE (R350): a core's scratchpad, a cluster's, a range of chip scratchpad or a frame is wiped while no context uses it; one in use, or none
that the package has, is left as it is. What a wipe empties beside the bytes is log entry 78 (DEDUCED).
What a log entry is named for is the model's choice, no rule of the spec. -/
def Sys2Proof.Claims.UnusedMemoryIsWiped : Prop :=
  ∀ (s : State) (n base size addr : Nat),
    (n < 256 → (getCore s n).ctx = none → exec (.wipe (.core n)) s = .next (wiped (setCore s n freeCore) (corePlace n 0) (2 ^ 19))) ∧
    (256 ≤ n ∨ (getCore s n).ctx ≠ none → exec (.wipe (.core n)) s = .next s) ∧
    (n < 16 → (∀ e ∈ s.ctxs, n ∉ e.2.part) → exec (.wipe (.cluster n)) s = .next (wiped s (clusterPlace n 0) (2 ^ 23))) ∧
    (16 ≤ n ∨ (∃ e ∈ s.ctxs, n ∈ e.2.part) → exec (.wipe (.cluster n)) s = .next s) ∧
    (base + size ≤ 2 ^ 27 → (∀ u ∈ chipUses s, ¬ (u.1 < base + size ∧ base < u.1 + u.2)) →
      exec (.wipe (.chip base size)) s = .next (wiped s (chipPlace base) size)) ∧
    (2 ^ 27 < base + size ∨ (∃ u ∈ chipUses s, u.1 < base + size ∧ base < u.1 + u.2) → exec (.wipe (.chip base size)) s = .next s) ∧
    (frameMapped s (addr / 65536) = false → physExists addr = true →
      exec (.wipe (.frame addr)) s = .next (wiped s (addr / 65536 * 65536) 65536)) ∧
    (frameMapped s (addr / 65536) = true ∨ physExists addr = false → exec (.wipe (.frame addr)) s = .next s) ∧
    (∀ lo p, lo ≤ p → p < lo + size → rawByte (wiped s lo size) p = 0) ∧
    (∀ lo p, p < lo ∨ lo + size ≤ p → rawByte (wiped s lo size) p = rawByte s p)

/-- FLIT_RETRANSMIT, PORT_RETRAIN_FAIL, ROUTE_SET, NODE_NUMBER_SET and LOGICAL_CLOCK_TICK (R232, R360, R363): a flit is sent again, a port that
does not retrain leaves every route and is reported, routes and the node's number are set by the system software of a package that is READY (R379,
R383), and a core's logical clock advances. -/
def Sys2Proof.Claims.TheLinkAndTheClocksAreKept : Prop :=
  ∀ (s : State) (port vc node n : Nat),
    let c := getCore s n
    (port < 16 → exec (.flitRetransmit port vc) s = .next { s with link := { s.link with resent := s.link.resent + 1 } }) ∧
    (port < 16 → exec (.portRetrainFail port) s = .next (post { s with link := { s.link with
      ports := insertNat port s.link.ports, routes := s.link.routes.filter (fun r => decide (r.2 ≠ port)) } } (.portLost port))) ∧
    (manages s = true → port < 16 → node < 0xFFFF → port ∉ s.link.ports →
      exec (.routeSet node port) s = .next { s with link := { s.link with routes := spPut s.link.routes node port } }) ∧
    (manages s = true → node < 0xFFFF → exec (.nodeNumberSet node) s = .next { s with link := { s.link with node := node } }) ∧
    exec (.nodeNumberSet 0xFFFF) s = .next s ∧
    (manages s = false → exec (.nodeNumberSet node) s = .next s ∧ exec (.routeSet node port) s = .next s) ∧
    exec (.logicalClockTick n) s = .next (setCore s n { c with pts := c.pts + 1, lastTick := c.now })

/-! ## The host port -/

/-- DOORBELL (R240, R375): a write of the doubleword at 8 × (8 k + q) of BAR0, whose upper word is read-only, follows the host's earlier
writes. With D = new TAIL − HEAD modulo 2^32, a D of 2^31 or more is ignored and counted, a D beyond the queue's size disables the queue and is reported, and any other becomes TAIL; one at another
offset, for no context or for one that flies or arrives is ignored and counted (another offset: log entry 91, DESIGN CHOICE). The host reads HEAD and
TAIL there. What a log entry is named for is the model's choice, no rule of the spec. -/
def Sys2Proof.Claims.DoorbellsMoveTail : Prop :=
  ∀ (s : State) (offset k q u v : Nat) (c : Ctx),
    let w := wake s
    let queue : Queue := spGet {} c.queues q
    let d := (v % 2 ^ 32 + 2 ^ 32 - queue.head) % 2 ^ 32
    let tail := fun (on : Bool) => setCtx w k { c with
      queues := spSet {} c.queues q { queue with tail := v % 2 ^ 32, en := queue.en && on }, rung := ringTo c.rung q d }
    let rings := fun (t : State) => exec (.doorbell (8 * (8 * k + q)) u v) s = .next t
    k < 64 → q < 8 → servesHost s = true →
    (hostWaits w = false → getCtx s k = some c → c.state ≠ .flying → awaitsSwitch s k = false →
      (2 ^ 31 ≤ d → rings (ignored w)) ∧
      (d < 2 ^ 31 → d ≤ 2 ^ queue.logSize → rings (tail true)) ∧
      (d < 2 ^ 31 → 2 ^ queue.logSize < d → rings (post (tail false) (.overrun k q)))) ∧
    (hostWaits w = false → getCtx s k = none → rings (ignored w)) ∧
    (hostWaits w = false → getCtx s k = some c → (c.state = .flying ∨ awaitsSwitch s k = true) → rings (ignored w)) ∧
    (hostWaits w = false → (4096 ≤ offset ∨ offset % 8 ≠ 0) → exec (.doorbell offset u v) s = .next (ignored w)) ∧
    (hostWaits w = true → exec (.doorbell offset u v) s = .next (holdEvent w (2 ^ 63) (.doorbell offset u v))) ∧
    (getCtx s k = some c → bar0Word s (8 * (8 * k + q)) = queue.head * 2 ^ 32 + queue.tail)

/-- BAR2_READ, BAR2_WRITE and COMPLETION_FREE (R240, R263, R343, R373, R377, R383): the host reads and writes the exported frames in the memory order, as
one access with one logical time; elsewhere it reads zero, and a write is dropped and counted; one that meets a prepared line, or follows one
that does, is held; freed entries let held ones out. The clock of these accesses is log entry 60 (DESIGN CHOICE); damaged bytes that a read meets
retire their frame and are read as they are (log entry 83, DESIGN CHOICE).
What a log entry is named for is the model's choice, no rule of the spec. -/
def Sys2Proof.Claims.TheHostReadsWritesAndFrees : Prop :=
  ∀ (s : State) (a n k count : Nat) (bytes : List Byte) (c : Ctx),
    let w := wakeUp s
    let merged := mergeLines w (hostLines w a n)
    let timed := (hostLines w a n).foldl (fun st l => retireRange st (max a (128 * l)) (min (a + n) (128 * l + 128) - max a (128 * l)))
      (if hostLines w a n = [] then merged else loads merged .manager a n)
    let ls := hostLines w a bytes.length
    let ps := (upTo bytes.length).zip bytes
    let counted := if ∀ e ∈ ps, isExported w (a + e.1) = true then w else { w with host := { w.host with dropped := w.host.dropped + 1 } }
    let stamped := stampLines (l2WriteAll (mergeLines counted ls) (ls.map (fun x => ⟨x, .committed, false⟩))).1 ls
    (servesHost s = false → exec (.bar2Read a n) s = .next s ∧ exec (.bar2Write a bytes) s = .next s ∧ exec (.completionFree k count) s = .next s) ∧
    (servesHost s = true →
    (a + n ≤ 2 ^ 40 → hostHeld w a n = false → exec (.bar2Read a n) s =
      .next { timed with host := { timed.host with readData := (upTo n).map (fun i => hostByte timed (a + i)) } }) ∧
    (a + n ≤ 2 ^ 40 → hostHeld w a n = true → exec (.bar2Read a n) s = .next (holdEvent w a (.hostRead a n))) ∧
    (a + bytes.length ≤ 2 ^ 40 → hostHeld w a bytes.length = false → exec (.bar2Write a bytes) s = .next (settle (ps.foldl (fun st e =>
      if isExported st (a + e.1) then putByte st (a + e.1) e.2 else st) stamped))) ∧
    (a + bytes.length ≤ 2 ^ 40 → hostHeld w a bytes.length = true →
      exec (.bar2Write a bytes) s = .next (holdEvent w a (.hostWrite a bytes))) ∧
    (2 ^ 40 < a + n → exec (.bar2Read a n) s = .next s) ∧
    (2 ^ 40 < a + bytes.length → exec (.bar2Write a bytes) s = .next s) ∧
    (getCtx s k = some c → exec (.completionFree k count) s = .next (flushHeld c.ring.held.length
      (setCtx (wake s) k { c with ring := { c.ring with used := c.ring.used - count } }) k)))

/-- A completion entry (R377): it is written while the ring has room and none is held before it, and held else, behind the others. -/
def Sys2Proof.Claims.CompletionEntriesKeepTheirOrder : Prop :=
  ∀ (s : State) (k : Nat) (e : Completion) (c : Ctx), getCtx s k = some c →
    (c.ring.used < c.ring.size → c.ring.held = [] → completionEntry s k e = writeEntry s k c e) ∧
    ((c.ring.size ≤ c.ring.used ∨ c.ring.held ≠ []) →
      completionEntry s k e = setCtx s k { c with ring := { c.ring with held := c.ring.held ++ [e] } })

/-- REGISTER_WRITE (R305, R321, R326, R365, R373, R374, R377, R379, R381, R383, R386): in a package that system software manages each descriptor and
parameter takes its value, and the package wakes; in another nothing happens. NEXTSEQ and HEAD stay as they are, being read-only. A value outside its
range leaves its register; WLOG and MAP are stored as they are written (log entry 47, DESIGN CHOICE).
What a log entry is named for is the model's choice, no rule of the spec. -/
def Sys2Proof.Claims.SystemRegistersTakeTheirValue : Prop :=
  ∀ (s : State) (k i v : Nat) (c : Ctx),
    let old : Comm := spGet {} c.comms i
    let queue : Queue := spGet {} c.queues i
    let comm : Comm := { map := field v 64 64, nextSeq := old.nextSeq, size := field v 31 17, pos := field v 15 16, cls := field v 1 2
                         en := bitAt v 0 }
    let described : Queue := { queue with base := field v 12 52 * 4096, logSize := field v 3 5, en := bitAt v 0 }
    let set := fun (r : SysReg) (t : State) => exec (.registerWrite r v) s = .next t
    let w := wake s
    (manages s = false → ∀ r, set r s) ∧
    (manages s = true →
    (getCtx s k = some c →
      (i < 16 → set (.comm k i) (setCtx w k { c with comms := spSet {} c.comms i comm })) ∧
      (i < 8 → set (.qdesc k i) (setCtx w k { c with queues := spSet {} c.queues i described })) ∧
      (1572864 < v → ∀ t, set (.keepAllowance k) t → getCtx t k = some c) ∧
      (v ≤ 1572864 → set (.keepAllowance k) (setCtx w k { c with keepAllow := v })) ∧
      (exclusiveLive c = true → ∀ t, set (.spillAllowance k) t → getCtx t k = some c) ∧
      (exclusiveLive c = false → set (.spillAllowance k) (setCtx w k { c with allowance := v })) ∧
      set (.wlog k) (setCtx w k { c with wlog := v }) ∧
      set (.ringBase k) (setCtx w k { c with ring := { c.ring with base := v } }) ∧
      set (.ringSize k) (setCtx w k { c with ring := { c.ring with size := v } })) ∧
    set .drainWindow { w with plat := { w.plat with wd := v } } ∧
    set .killTokens { w with plat := { w.plat with tk := v } } ∧
    ((v < 600 ∨ 2100 < v) → set .powerLimit w) ∧
    (600 ≤ v → v ≤ 2100 → set .powerLimit { w with plat := { w.plat with powerLimit := v } }) ∧
    (i < 72 → set (.vectorEnable i) { w with host := { w.host with enabled := putBit (bitAt v 0) i w.host.enabled } }) ∧
    set (.exportFrame i) { w with host := { w.host with exported := putBit (bitAt v 0) i w.host.exported } })

/-! ## The platform -/

/-- The mailbox (R378, R380 to R386, Table 17.3): a command that a state allows acts and ends with its status and result, FW_COMMIT staying busy
while the flash is written; one that its state does not allow ends with status 1; SET_LTOL with a tolerance below the exit latency of the state that
the package is in moves it up to the deepest that fits. The byte order of STATUS is log entry 22 (DESIGN CHOICE); signatures, keys and the image
check are the configuration's (log entry 7, PRESUMED). What a log entry is named for is the model's choice, no rule of the spec. -/
def Sys2Proof.Claims.MailboxCommandsAct : Prop :=
  ∀ (s : State) (off len target nonce k v : Nat) (bytes : List Byte),
    let t := fun (code n : Nat) => placed s code n
    let p := s.plat
    let image := stagedImage s len
    let advanced := fun (key : Nat) => afterReset { t 0x0104 1 with
      fresh := s.fresh + 1, plat := { (t 0x0104 1).plat with life := target, identity := key } } .booting
    let body := reportBody (t 0x0105 33) nonce k
    mailboxFree s →
    exec .status s = .next (ends (t 0x0100 0) 0 (bytesOf 1 p.life ++ bytesOf 1 (ofBool p.recovery) ++ bytesOf 4 p.svn ++
      bytesOf 1 (t 0x0100 0).plat.power.code)) ∧
    (firmwareState p = true → bytes.length ≤ 4032 → off + bytes.length ≤ 2 ^ 25 → exec (.fwStage off bytes) s =
      .next (ends { t 0x0101 (4 + bytes.length) with plat := { (t 0x0101 (4 + bytes.length)).plat with staged := addCells p.staged off bytes } }
        0 [])) ∧
    (firmwareState p = true → (p.recovery = true ∨ noResident s = true) → len ≤ 2 ^ 25 → imageAccepted p image = true →
      exec (.fwCommit len) s = .next (ends { t 0x0102 4 with plat := { (t 0x0102 4).plat with writing := true, flash := image } } 2 [])) ∧
    (firmwareState p = true → (4032 < bytes.length ∨ 2 ^ 25 < off + bytes.length) →
      exec (.fwStage off bytes) s = .next (ends (t 0x0101 (4 + bytes.length)) 1 [])) ∧
    (firmwareState p = true → (imageAccepted p image = false ∨ 2 ^ 25 < len ∨ (p.recovery = false ∧ noResident s = false)) →
      exec (.fwCommit len) s = .next (ends (t 0x0102 4) 1 [])) ∧
    (firmwareState p = false → exec (.fwStage off bytes) s = .next (ends (t 0x0101 (4 + bytes.length)) 1 []) ∧
      exec (.fwCommit len) s = .next (ends (t 0x0102 4) 1 [])) ∧
    (inLife [0, 1, 2] p = false → exec (.lcAdvance target) s = .next (ends (t 0x0104 1) 1 []) ∧
      exec (.setLtol v) s = .next (ends (t 0x0107 8) 1 [])) ∧
    (inLife [1, 2] p = false → exec (.report nonce k) s = .next (ends (t 0x0105 33) 1 []) ∧ exec .idkey s = .next (ends (t 0x0106 0) 1 [])) ∧
    exec .reset s = .next (afterReset (t 0x0103 0) .booting) ∧
    (inLife [0, 1, 2] p = true → target = p.life + 1 → ∃ key : Nat,
      exec (.lcAdvance target) s = .next (advanced key) ∧ (target = 2 → key = p.identity) ∧ (target = 3 → key = 0)) ∧
    (inLife [0, 1, 2] p = true → target ≠ p.life + 1 → exec (.lcAdvance target) s = .next (ends (t 0x0104 1) 1 [])) ∧
    (inLife [1, 2] p = true → ∃ signature : List Byte, signature.length = 384 ∧
      exec (.report nonce k) s = .next (ends { t 0x0105 33 with fresh := s.fresh + 1 } 0 (body ++ signature))) ∧
    (inLife [1, 2] p = true → ∃ key : List Byte, exec .idkey s = .next (ends (t 0x0106 0) 0 key)) ∧
    (inLife [0, 1, 2] p = true → exec (.setLtol v) s =
      .next (ends { t 0x0107 8 with plat := { (t 0x0107 8).plat with
        ltol := v % 2 ^ 32
        power := match p.power with
          | .low d => if deepest (v % 2 ^ 32) < d ∧ deepest (v % 2 ^ 32) ≠ 0 then .low (deepest (v % 2 ^ 32)) else .active
          | x => x } } 0 []))

/-- A command that finds the mailbox busy is ignored and counted, and wakes the package, as any command does (R382, R386). -/
def Sys2Proof.Claims.BusyMailboxIgnoresCommands : Prop :=
  ∀ (s : State) (off len target nonce k v : Nat) (bytes : List Byte), portReady s = true → s.host.status = 2 →
    ∀ i ∈ [Instr.status, .fwStage off bytes, .fwCommit len, .reset, .lcAdvance target, .report nonce k, .idkey, .setLtol v],
      exec i s = .next (ignored (wake s))

/-- POWER_ON_RESET, HOST_RESET, POWER_LOSS and THERMAL_TRIP (R378, R381, R388): all but fuses and flash is as after reset, the package booting, off
or tripped, what is still to strike being an input and no state of the machine; a host reset and a trip need power. -/
def Sys2Proof.Claims.ResetsKeepFusesAndFlash : Prop :=
  ∀ s : State,
    exec .powerOnReset s = .next (afterReset s .booting) ∧
    exec .powerLoss s = .next (afterReset s .off) ∧
    (poweredOn s = true → exec .hostReset s = .next (afterReset s .booting) ∧ exec .thermalTrip s = .next (afterReset s .tripped)) ∧
    (poweredOn s = false → exec .hostReset s = .next s ∧ exec .thermalTrip s = .next s) ∧
    ∀ power : Power,
      let t := afterReset s power
      t.cores = State.reset.cores ∧ t.ctxs = [] ∧ t.mem = [] ∧ t.tags = [] ∧ t.hw = { upsets := s.hw.upsets } ∧ t.link = State.reset.link ∧
      t.host = State.reset.host ∧ t.plat.power = power ∧ t.plat.ready = false ∧ t.plat.life = s.plat.life ∧
      t.plat.minSvn = s.plat.minSvn ∧ t.plat.boots = s.plat.boots ∧ (s.plat.writing = false → t.plat.flash = s.plat.flash)

/-- BOOT_COMPLETE (R379 to R381): with an image that is accepted the package is READY and measured, the measurement the SHA-256 of the image; without
one it is READY in RECOVERY, with no measurement. A configuration request gets no answer without power, Retry Status until READY, and is served from
then on (R379). -/
def Sys2Proof.Claims.BootEndsReadyOrInRecovery : Prop :=
  ∀ s : State,
    let p := s.plat
    (p.power = .booting → p.torn = false → imageAccepted p p.flash = true → ∃ (svn : Nat) (raised : Bool),
      exec .bootComplete s = .next { s with plat := { p with
        power := .active, ready := true, recovery := false, boots := p.boots + 1, svn := svn, fwm := sha256 p.flash
        minSvn := if raised then max p.minSvn svn else p.minSvn } }) ∧
    (p.power = .booting → (p.torn = true ∨ imageAccepted p p.flash = false) →
      exec .bootComplete s = .next { s with plat := { p with
        power := .active, ready := true, recovery := true, boots := p.boots + 1, svn := 0, fwm := [] } }) ∧
    (p.power ≠ .booting → exec .bootComplete s = .next s) ∧
    (configAnswer s = .none ↔ poweredOn s = false) ∧ (configAnswer s = .retry ↔ (poweredOn s = true ∧ p.ready = false)) ∧
    (configAnswer s = .served ↔ (poweredOn s = true ∧ p.ready = true))

/-- LOW_POWER_ENTRY, WAKE, THROTTLE and CLOCK_RESTORE (R385 to R388, Table 17.5): a package idle for 1 ms enters the deepest state whose exit
latency its tolerance allows, the deepest losing lease and translation caches; it wakes active, a command not ending the time for which it is idle; the clock steps by 100 MHz within 0.9 to
1.8 GHz. -/
def Sys2Proof.Claims.PowerFollowsTheTolerance : Prop :=
  ∀ (s : State) (d : Nat),
    let p := s.plat
    let low := { s with plat := { p with power := .low (deepest p.ltol) } }
    (p.power = .active → packageIdle s = true → 1000 * p.clockMHz ≤ p.idle →
      (deepest p.ltol = 0 → exec .lowPowerEntry s = .next s) ∧
      (0 < deepest p.ltol → deepest p.ltol < 4 → exec .lowPowerEntry s = .next low) ∧
      (deepest p.ltol = 4 → exec .lowPowerEntry s = .next (loseCaches low))) ∧
    (∀ e ∈ (loseCaches low).cores, e.2.tlb = [] ∧ e.2.lease = []) ∧
    (loseCaches low).hw.tlb0 = [] ∧ (loseCaches low).hw.tlb1 = [] ∧
    ((p.power ≠ .active ∨ packageIdle s = false ∨ p.idle < 1000 * p.clockMHz) → exec .lowPowerEntry s = .next s) ∧
    (p.power = .low d → exec .wake s = .next { s with plat := { p with power := .active } }) ∧
    (p.power = .active → exec .wake s = .next s) ∧
    exec .throttle s = .next { s with plat := { p with clockMHz := max 900 (p.clockMHz - 100) } } ∧
    exec .clockRestore s = .next { s with plat := { p with clockMHz := min 1800 (p.clockMHz + 100) } } ∧
    deepest 0xFFFFFFFF = 4 ∧
    (∀ ltol, ltol ≠ 0xFFFFFFFF →
      (ltol < 2000 → deepest ltol = 0) ∧ (2000 ≤ ltol → ltol < 40000 → deepest ltol = 1) ∧
      (40000 ≤ ltol → ltol < 1500000 → deepest ltol = 2) ∧ (1500000 ≤ ltol → ltol < 30000000 → deepest ltol = 3) ∧
      (30000000 ≤ ltol → deepest ltol = 4))

/-- A pre-emption decision is never made for a context that is being saved, restored or held for the debugger, and a second one for a context
that already has one changes nothing (R322). -/
def Obligations.NoDecisionDuringASaveOrDrain : Prop :=
  ∀ (s : State) (k newcomer launch : Nat) (c : Ctx), getCtx s k = some c →
    (c.saving = true ∨ c.restoring = true ∨ ctxHeld s k = true ∨ c.decided ≠ none) →
    exec (.preemptDecision k newcomer launch) s = .next s

/-! ## The statements that gather several of the above -/

/-- A bundle without a failing check commits each slot by exec, after its swaps (R82, R24, R75, R76, R338). -/
def Obligations.BundlesCommitSlotBySlot : Prop :=
  Claims.BundleCommitsBySlots ∧ Claims.CommittedSlotRunsItsInstruction ∧ Claims.SwapBitsExchangeShapeCopies

/-- An event of the agenda is the step; only a package without power stops (R381, R388). -/
def Obligations.StepRunsTheAgendaAndStopsWithoutPower : Prop :=
  Claims.AgendaEventIsTheStep ∧ Claims.OnlyAPackageWithoutPowerStops

/-- A failing bundle takes one trap, of its smallest cause, and no other effect (R76, R77). -/
def Obligations.FailingBundlesTakeTheSmallestCause : Prop :=
  Claims.FailedBundleTakesOnlyItsTrap ∧ Claims.SmallestCausePrevails

/-- The results of the scalar immediate and register forms (R108). -/
def Obligations.ScalarResults : Prop :=
  Claims.ScalarImmediateResults ∧ Claims.ScalarRegisterResults

/-- A scalar result lands in its register alone, the younger of two last (R17, R80, R81). -/
def Obligations.ScalarResultsLand : Prop :=
  Claims.ScalarResultLands ∧ Claims.YoungerResultPrevails

/-- Scalar loads and stores that pass their checks read and store their bytes, here and at a remote home (R83, R110, R113, R239, R251). -/
def Obligations.ScalarLoadsAndStores : Prop :=
  Claims.ScalarLoadsReadTheirBytes ∧ Claims.ScalarStoresStoreTheirBytes ∧ Claims.ScalarAccessesAtRemotePages

/-- A local store changes only its bytes; a launch keeps its global bytes in its shadow (R41, R77, R110, R111, R251, R254). -/
def Obligations.StoresReachOnlyTheirBytes : Prop :=
  Claims.LocalStoreWritesOnlyItsBytes ∧ Claims.LaunchStoreGoesToItsShadow

/-- The checks of a scalar access in their order, what a failing one does, and what holds one (R39, R110, R239, R263, R268, R328, R76,
R111, R113, R75). -/
def Obligations.ScalarAccessChecks : Prop :=
  Claims.ScalarChecksInOrder ∧ Claims.ScalarAccessFailsWithItsCause ∧ Claims.ScalarAccessesAreHeld

/-- Shape, record, device-register and spill instructions, and where they land (R112, R116, R28, R33, R36). -/
def Obligations.DeviceScalarInstructions : Prop :=
  Claims.DeviceScalarResults ∧ Claims.DeviceRegistersReadAndLand

/-- Branches, jumps and calls choose the next bundle; illegal control words fail (R79, R93, R97, R105, R94, R98, R102, R104, R106, R107). -/
def Obligations.BranchesChooseTheNextBundle : Prop :=
  Claims.BranchesChooseTheNextBundle ∧ Claims.IllegalControlWordsFail

/-- Hardware loops, waits, ERET, DONE and HALT (R93, R98, R101, R106, R107). -/
def Obligations.LoopsAndEnds : Prop :=
  Claims.LoopEndsAreTested ∧ Claims.LoopsWaitsAndEnds

/-- A trap enters its handler with its registers saved, or goes to the stage manager (R102, R104, R103, R312). -/
def Obligations.TrapsAreTaken : Prop :=
  Claims.SoftwareTrapEntersItsHandler ∧ Claims.StageManagerTakesTheTrap

/-- Tagged accesses act at their home, and fail on global memory (R187, R188, R111, R183). -/
def Obligations.TaggedAccesses : Prop :=
  Claims.TaggedAccessesActAtTheirHome ∧ Claims.TaggedAccessToGlobalMemoryFails

/-- A tagged wait is served when its tag allows, the earliest armed first (R187, R188). -/
def Obligations.TaggedWaitsAreServed : Prop :=
  Claims.TaggedWaitIsServedWhenItsTagAllows ∧ Claims.EarliestArmedWaitIsServedFirst

/-- Barrier instructions, barrier completion, and monitored waits with their timeout (R190, R191, R230, R189). -/
def Obligations.BarriersAndMonitoredWaits : Prop :=
  Claims.BarrierInstructionsAct ∧ Claims.BarrierCompletesAtItsTarget ∧ Claims.MonitoredWaitsArmAndTimeOut

/-- Atomics return the old value and write the new; reductions update their word; at remote homes, and held (R193, R194, R196, R197, R241,
R189, R195, R198, R239, R75, R183, R263). -/
def Obligations.AtomicsAndReductions : Prop :=
  Claims.AtomicsReturnTheOldValue ∧ Claims.ReductionsUpdateTheirWord ∧ Claims.SynchronisingAccessesAtRemotePages ∧
    Claims.SynchronisingAccessesAreHeld

/-- Acquire, release and fence; task blocks; LAUNCH, LWAIT and RAND (R198, R199, R200, R202, R303, R294, R321, R59, R203, R205). -/
def Obligations.OrderingTasksAndRandom : Prop :=
  Claims.AcquireReleaseAndFence ∧ Claims.BlockInstructionsAct ∧ Claims.BlocksAreGotInPasses ∧ Claims.LaunchWaitAndRandom

/-- Vector compares, selects, moves and permutes (R124, R126, R127). -/
def Obligations.VectorComparesMovesAndPermutes : Prop :=
  Claims.VectorComparesAndMoves ∧ Claims.VectorPermutes

/-- Reductions in a register, conversions and packed images (R61, R128, R129, R130). -/
def Obligations.VectorReductionsAndConversions : Prop :=
  Claims.VectorReductionsAndConversions ∧ Claims.RegisterExtremeIsTheExtreme

/-- Predicates, spills, single lanes, random vectors and accumulator moves (R60, R131, R136, R138, R141). -/
def Obligations.PredicatesSpillsLanesAndAccumulators : Prop :=
  Claims.PredicateSpillAndLaneResults ∧ Claims.AccumulatorMoves

/-- Vector loads read their units; one image unit moves for a packed format (R143, R150, R238). -/
def Obligations.VectorLoads : Prop :=
  Claims.VectorLoadsReadTheirUnits ∧ Claims.ImageAccessesMoveOneUnit

/-- Vector stores, tagged vectors, reductions to memory and prefetch; units at remote homes (R148, R150, R155, R238, R152, R156, R157,
R159, R335, R348, R147, R239). -/
def Obligations.VectorStores : Prop :=
  Claims.VectorStoresWriteTheirUnits ∧ Claims.TaggedReducedAndPrefetchedVectors ∧ Claims.VectorUnitsAtRemotePages

/-- A vector load collects its elements; a vector store writes only its own (R146, R147). -/
def Obligations.VectorMemoryElements : Prop :=
  Claims.VectorLoadCollectsItsElements ∧ Claims.VectorStoreWritesOnlyItsElements

/-- Record offsets resolve by the bounds mode, and an access fails as its units do (R26, R75, R142, R145, R147, R155, R156, R239, R263,
R328, R144). -/
def Obligations.RecordsResolveAndFail : Prop :=
  Claims.RecordAccessesFailAsTheirUnits ∧ Claims.RecordOffsetsResolve

/-- What holds or stops an MX instruction at issue, and the events of its unit (R75, R76, R164, R165, R167, R168, R172, R179, R163, R166,
R173, R176). -/
def Obligations.MatrixUnitChecksAndEvents : Prop :=
  Claims.MatrixIssueChecks ∧ Claims.MatrixEventsAdvanceTheUnit

/-- Collectives are posted; RINGI, CWAIT, KWAIT, PREF and RES (R223, R225, R268, R218, R221, R222, R228, R348). -/
def Obligations.CollectivesRingsAndWaits : Prop :=
  Claims.CollectivesArePosted ∧ Claims.RingsWaitsAndHints

/-- Landings, code regions, work found and started, tasks completed and merged (R80, R81, R100, R316, R138, R166, R318, R326, R227, R426,
R338, R16). -/
def Obligations.CoreAndTaskEvents : Prop :=
  Claims.ResultsLandOnTheirCore ∧ Claims.RegionsOfCodeAreWritten ∧ Claims.IdleCoresFindAndStartWork ∧
    Claims.TasksCompleteAndMerge

/-- Stream jobs start, claim slots, complete and fault (R209, R216, R217, R220, R235, R208, R210, R212, R215). -/
def Obligations.JobEvents : Prop :=
  Claims.JobsStartAndClaimSlots ∧ Claims.JobsCompleteOrFault

/-- Host records reach admission, and a launch that nothing orders behind is admitted (R374, R376, R263, R249, R252, R259, R288, R267). -/
def Obligations.LaunchesAreAdmitted : Prop :=
  Claims.RecordsOfTheHostReachAdmission ∧ Claims.AdmissionStartsALaunch

/-- Launches complete; a rehearsal that differs reports its lowest entry (R260, R269, R270). -/
def Obligations.LaunchesComplete : Prop :=
  Claims.LaunchesCompleteOrDiffer ∧ Claims.TheLowestDifferingEntryIsReported

/-- Launches commit in turn, are prepared and marked or aborted; versions are freed (R256, R261, R262, R252, R263). -/
def Obligations.LaunchesCommit : Prop :=
  Claims.LaunchesCommitInTurn ∧ Claims.PreparedLaunchesAreMarkedOrAborted ∧ Claims.VersionsAndLinesAreFreed

/-- Lanes make granted steps, passing over no higher class; hops grant (R366, R368). -/
def Obligations.ChorusSteps : Prop :=
  Claims.LanesMakeStepsAndHopsGrant ∧ Claims.NoHigherClassIsPassedOver

/-- Chunks and collectives complete; chorus packets act on their rank (R225, R226, R366, R372, R367). -/
def Obligations.CollectivesCompleteByTheirPackets : Prop :=
  Claims.CollectivesComplete ∧ Claims.ChorusDataArrives ∧ Claims.ReservationsAndGrantsArrive

/-- Memory packets act at their home, or are refused, held or forwarded (R155, R193, R195, R239, R241, R242, R244, R254, R189, R202, R252,
R263). -/
def Obligations.MemoryPackets : Prop :=
  Claims.MemoryPacketsActAtTheirHome ∧ Claims.MemoryPacketsAreRefusedHeldOrForwarded

/-- Answers reach what asked for them; commit control acts on its shadow (R225, R239, R260, R262, R362, R244, R254, R252, R255, R256, R258,
R264). -/
def Obligations.AnswersAndCommitControl : Prop :=
  Claims.AnswersReachTheirRequests ∧ Claims.CommitControlActsOnItsShadow

/-- A pre-emption decision gives each core its outcome (R253, R319, R321, R428, R186). -/
def Obligations.DecisionsGiveEachCoreItsOutcome : Prop :=
  Claims.EachCoreGetsItsOutcome ∧ Claims.DecisionsReachEveryCore

/-- Contexts are parked, saved and restored, and late writes replay (R2, R288, R289, R292, R316, R318, R324, R325, R338, R343, R350, R428). -/
def Obligations.ContextsAreSavedRestoredAndReplayed : Prop :=
  Claims.ContextsAreSavedAndRestored ∧ Claims.LateWritesReplayWithTheirCyclesLeft

/-- Contexts are created, killed, resumed and freed; the debugger acts on them (R326, R327, R352, R11, R350, R353, R366, R312, R332, R334). -/
def Obligations.ContextsLiveAndAreDebugged : Prop :=
  Claims.ContextsAreKilledResumedAndFreed ∧ Claims.ContextsAreCreatedParkedAndWiped ∧
    Claims.TheDebuggerSetsResumesAndSaves

/-- Walks end, pages arrive and migrate; no old translation outlives its mapping (R295, R328, R329, R348, R330, R349, R350, R354, R366). -/
def Obligations.PagesAndMappings : Prop :=
  Claims.WalksEndAndPagesArrive ∧ Claims.MappingsChangeAndPagesMigrate ∧ Claims.NoOldTranslationOutlivesItsMapping

/-- Code objects are loaded and unloaded; contexts demoted, promoted and classed (R89, R91, R331, R379, R383, R305, R338, R354, R366). -/
def Obligations.CodeAndResidency : Prop :=
  Claims.CodeIsLoadedAndUnloaded ∧ Claims.ContextsAreDemotedPromotedAndClassed

/-- A rank flies: what its destination reserves, the phases at both ends, and a fly given up (R338, R350, R355, R356, R357, R358, R359,
R362, R366, R378, R352). -/
def Obligations.RanksFly : Prop :=
  Claims.FliesLeaveTheirSource ∧ Claims.FliesArriveParked ∧ Claims.AbandonedFliesLeaveNothingBehind ∧
    Claims.BindReservesWhatTheContextNeeds

/-- Bus codes, heartbeats, scrubs, wipes, the link and the logical clocks (R344, R343, R345, R350, R232, R360, R363, R379, R383). -/
def Obligations.HardwareEvents : Prop :=
  Claims.BusCodesAreSampledAndChanged ∧ Claims.StacksAreWatchedTakenAndScrubbed ∧ Claims.UnusedMemoryIsWiped ∧
    Claims.TheLinkAndTheClocksAreKept

/-- Doorbells, host reads and writes, completion entries and system registers (R240, R375, R263, R343, R373, R377, R383, R305, R321, R326,
R365, R374). -/
def Obligations.HostPort : Prop :=
  Claims.DoorbellsMoveTail ∧ Claims.TheHostReadsWritesAndFrees ∧ Claims.CompletionEntriesKeepTheirOrder ∧
    Claims.SystemRegistersTakeTheirValue

/-- Mailbox commands, resets, boot, power states and clocks (R378, R380, R386, R382, R381, R388, R379, R385). -/
def Obligations.PlatformEvents : Prop :=
  Claims.MailboxCommandsAct ∧ Claims.BusyMailboxIgnoresCommands ∧ Claims.ResetsKeepFusesAndFlash ∧
    Claims.BootEndsReadyOrInRecovery ∧ Claims.PowerFollowsTheTolerance
end

