-- ==== Sys2Proof/Laws/Sparse.lean ====
section
/-!
SUPPORT. Laws of sparse storage: what a read gives after a put, a set or an erasure, and that each keeps the canonical form.
-/
namespace Sys2Proof.Machine

variable {α : Type}

/-! ## Reading after writing -/

@[simp] theorem spGet_nil (d : α) (a : Nat) : spGet d [] a = d := rfl

theorem spGet_spPut (d : α) (m : Sparse α) (a b : Nat) (x : α) :
    spGet d (spPut m a x) b = if b = a then x else spGet d m b := by
  induction m with
  | nil => simp only [spPut, spGet, eq_comm]
  | cons e m ih =>
    obtain ⟨k, v⟩ := e
    simp only [spPut]
    split
    · simp only [spGet, eq_comm]
    · split
      · next h => subst h; by_cases hb : b = a <;> simp [spGet, hb]
      · next h => by_cases hb : b = a <;> by_cases hk : k = b <;> simp_all [spGet]

theorem spGet_spErase (d : α) (m : Sparse α) (a b : Nat) :
    spGet d (spErase m a) b = if b = a then d else spGet d m b := by
  induction m with
  | nil => simp [spErase]
  | cons e m ih =>
    obtain ⟨k, v⟩ := e
    simp only [spErase] at *
    rw [List.filter_cons]
    by_cases hk : k = a
    · subst hk
      rw [if_neg (by simp), ih]
      by_cases hb : b = k <;> simp [spGet, hb]
    · rw [if_pos (by simp [hk])]
      by_cases hb : b = k
      · subst hb; simp [spGet, hk]
      · rw [spGet, if_neg hb, ih, spGet, if_neg hb]

theorem spGet_spSet [DecidableEq α] (d : α) (m : Sparse α) (a b : Nat) (x : α) :
    spGet d (spSet d m a x) b = if b = a then x else spGet d m b := by
  unfold spSet
  split
  · next h => rw [spGet_spErase]; subst h; rfl
  · rw [spGet_spPut]

@[simp] theorem spGet_spSet_self [DecidableEq α] (d : α) (m : Sparse α) (a : Nat) (x : α) : spGet d (spSet d m a x) a = x := by
  simp [spGet_spSet]

theorem spGet_spSet_of_ne [DecidableEq α] (d : α) (m : Sparse α) {a b : Nat} (x : α) (h : b ≠ a) :
    spGet d (spSet d m a x) b = spGet d m b := by
  simp [spGet_spSet, h]

theorem spFind_spPut (m : Sparse α) (a b : Nat) (x : α) :
    spFind (spPut m a x) b = if b = a then some x else spFind m b := by
  induction m with
  | nil => simp only [spPut, spFind, eq_comm]
  | cons e m ih =>
    obtain ⟨k, v⟩ := e
    simp only [spPut]
    split
    · simp only [spFind, eq_comm]
    · split
      · next h => subst h; by_cases hb : b = a <;> simp [spFind, hb]
      · next h => by_cases hb : b = a <;> by_cases hk : k = b <;> simp_all [spFind]

@[simp] theorem spFind_spPut_self (m : Sparse α) (a : Nat) (x : α) : spFind (spPut m a x) a = some x := by simp [spFind_spPut]

/-! ## The canonical form -/

theorem spRising_mono : ∀ (m : Sparse α) {lo hi : Nat}, lo ≤ hi → spRising hi m = true → spRising lo m = true
  | [], _, _, _, _ => rfl
  | (k, v) :: m, lo, hi, h, hm => by
    simp only [spRising, Bool.and_eq_true, decide_eq_true_eq] at *
    exact ⟨Nat.le_trans h hm.1, hm.2⟩

theorem spRising_filter (f : Nat × α → Bool) : ∀ (m : Sparse α) (lo : Nat), spRising lo m = true →
    spRising lo (m.filter f) = true
  | [], _, _ => rfl
  | (k, v) :: m, lo, h => by
    simp only [spRising, Bool.and_eq_true, decide_eq_true_eq] at h
    have ih := spRising_filter f m (k + 1) h.2
    rw [List.filter_cons]
    split
    · simp [spRising, h.1, ih]
    · exact spRising_mono _ (by omega) ih

theorem spRising_spPut (a : Nat) (x : α) : ∀ (m : Sparse α) (lo : Nat), lo ≤ a → spRising lo m = true →
    spRising lo (spPut m a x) = true
  | [], lo, ha, _ => by simp [spPut, spRising, ha]
  | (k, v) :: m, lo, ha, h => by
    simp only [spRising, Bool.and_eq_true, decide_eq_true_eq] at h
    simp only [spPut]
    split
    · next hk => simp [spRising, ha, h.2]; omega
    · split
      · next hk => subst hk; simp [spRising, ha, h.2]
      · next h1 h2 => simp [spRising, h.1, spRising_spPut a x m (k + 1) (by omega) h.2]

theorem spRising_map {β : Type} (f : Nat × α → β) : ∀ (m : Sparse α) (lo : Nat), spRising lo m = true →
    spRising lo (m.map (fun e => (e.1, f e))) = true
  | [], _, _ => rfl
  | (k, v) :: m, lo, h => by
    simp only [spRising, Bool.and_eq_true, decide_eq_true_eq] at h
    simp [spRising, h.1, spRising_map f m (k + 1) h.2]

theorem spWf_spErase [DecidableEq α] (d : α) (m : Sparse α) (a : Nat) (h : spWf d m = true) : spWf d (spErase m a) = true := by
  simp only [spWf, Bool.and_eq_true] at *
  refine ⟨spRising_filter _ _ _ h.1, ?_⟩
  rw [List.all_eq_true] at *
  exact fun e he => h.2 e (List.mem_filter.mp he).1

theorem all_spPut (f : Nat × α → Bool) (a : Nat) (x : α) (hx : f (a, x) = true) : ∀ m : Sparse α, m.all f = true →
    (spPut m a x).all f = true
  | [], _ => by simp [spPut, hx]
  | (k, v) :: m, h => by
    simp only [List.all_cons, Bool.and_eq_true] at h
    simp only [spPut]
    split
    · simp [hx, h.1, h.2]
    · split
      · simp [hx, h.2]
      · simp [h.1, all_spPut f a x hx m h.2]

theorem spWf_spSet [DecidableEq α] (d : α) (m : Sparse α) (a : Nat) (x : α) (h : spWf d m = true) : spWf d (spSet d m a x) = true := by
  unfold spSet
  split
  · exact spWf_spErase d m a h
  · next hx =>
    simp only [spWf, Bool.and_eq_true] at *
    exact ⟨spRising_spPut a x m 0 (Nat.zero_le _) h.1, all_spPut _ a x (by simp [hx]) m h.2⟩

theorem spWf_filter [DecidableEq α] (d : α) (f : Nat × α → Bool) (m : Sparse α) (h : spWf d m = true) :
    spWf d (m.filter f) = true := by
  simp only [spWf, Bool.and_eq_true] at *
  refine ⟨spRising_filter _ _ _ h.1, ?_⟩
  rw [List.all_eq_true] at *
  exact fun e he => h.2 e (List.mem_filter.mp he).1

theorem spWf_spClear [DecidableEq α] (d : α) (m : Sparse α) (lo hi : Nat) (h : spWf d m = true) : spWf d (spClear m lo hi) = true :=
  spWf_filter d _ m h

theorem spWf_foldl_spSet [DecidableEq α] {β : Type} (d : α) (f : β → Nat) (g : β → α) : ∀ (xs : List β) (m : Sparse α),
    spWf d m = true → spWf d (xs.foldl (fun m e => spSet d m (f e) (g e)) m) = true
  | [], _, h => h
  | _ :: xs, m, h => spWf_foldl_spSet d f g xs _ (spWf_spSet d m _ _ h)

end Sys2Proof.Machine
end

