-- ==== Sys2Proof/Laws/State.lean ====
section
/-!
SUPPORT. Laws of the accessors of State: what each update leaves alone, one lemma per field, and what a read gives after it.
-/
set_option Elab.async false

namespace Sys2Proof.Machine

@[simp] theorem setCore_mem (s : State) (n : Nat) (c : Core) : (setCore s n c).mem = s.mem := rfl
@[simp] theorem setCore_tags (s : State) (n : Nat) (c : Core) : (setCore s n c).tags = s.tags := rfl
@[simp] theorem setCore_ctxs (s : State) (n : Nat) (c : Core) : (setCore s n c).ctxs = s.ctxs := rfl
@[simp] theorem setCore_hw (s : State) (n : Nat) (c : Core) : (setCore s n c).hw = s.hw := rfl
@[simp] theorem setCore_link (s : State) (n : Nat) (c : Core) : (setCore s n c).link = s.link := rfl
@[simp] theorem setCore_chorus (s : State) (n : Nat) (c : Core) : (setCore s n c).chorus = s.chorus := rfl
@[simp] theorem setCore_host (s : State) (n : Nat) (c : Core) : (setCore s n c).host = s.host := rfl
@[simp] theorem setCore_plat (s : State) (n : Nat) (c : Core) : (setCore s n c).plat = s.plat := rfl
@[simp] theorem setCore_issue (s : State) (n : Nat) (c : Core) : (setCore s n c).issue = s.issue := rfl
@[simp] theorem setCore_agenda (s : State) (n : Nat) (c : Core) : (setCore s n c).agenda = s.agenda := rfl
@[simp] theorem setCore_turn (s : State) (n : Nat) (c : Core) : (setCore s n c).turn = s.turn := rfl
@[simp] theorem setCore_delays (s : State) (n : Nat) (c : Core) : (setCore s n c).delays = s.delays := rfl
@[simp] theorem setCore_clock (s : State) (n : Nat) (c : Core) : (setCore s n c).clock = s.clock := rfl
@[simp] theorem setCore_seq (s : State) (n : Nat) (c : Core) : (setCore s n c).seq = s.seq := rfl
@[simp] theorem setCore_fresh (s : State) (n : Nat) (c : Core) : (setCore s n c).fresh = s.fresh := rfl

@[simp] theorem modCore_mem (s : State) (n : Nat) (f : Core → Core) : (modCore s n f).mem = s.mem := rfl
@[simp] theorem modCore_tags (s : State) (n : Nat) (f : Core → Core) : (modCore s n f).tags = s.tags := rfl
@[simp] theorem modCore_ctxs (s : State) (n : Nat) (f : Core → Core) : (modCore s n f).ctxs = s.ctxs := rfl
@[simp] theorem modCore_hw (s : State) (n : Nat) (f : Core → Core) : (modCore s n f).hw = s.hw := rfl
@[simp] theorem modCore_link (s : State) (n : Nat) (f : Core → Core) : (modCore s n f).link = s.link := rfl
@[simp] theorem modCore_chorus (s : State) (n : Nat) (f : Core → Core) : (modCore s n f).chorus = s.chorus := rfl
@[simp] theorem modCore_host (s : State) (n : Nat) (f : Core → Core) : (modCore s n f).host = s.host := rfl
@[simp] theorem modCore_plat (s : State) (n : Nat) (f : Core → Core) : (modCore s n f).plat = s.plat := rfl
@[simp] theorem modCore_issue (s : State) (n : Nat) (f : Core → Core) : (modCore s n f).issue = s.issue := rfl
@[simp] theorem modCore_agenda (s : State) (n : Nat) (f : Core → Core) : (modCore s n f).agenda = s.agenda := rfl
@[simp] theorem modCore_turn (s : State) (n : Nat) (f : Core → Core) : (modCore s n f).turn = s.turn := rfl
@[simp] theorem modCore_delays (s : State) (n : Nat) (f : Core → Core) : (modCore s n f).delays = s.delays := rfl
@[simp] theorem modCore_clock (s : State) (n : Nat) (f : Core → Core) : (modCore s n f).clock = s.clock := rfl
@[simp] theorem modCore_seq (s : State) (n : Nat) (f : Core → Core) : (modCore s n f).seq = s.seq := rfl
@[simp] theorem modCore_fresh (s : State) (n : Nat) (f : Core → Core) : (modCore s n f).fresh = s.fresh := rfl

@[simp] theorem modCur_mem (s : State) (f : Core → Core) : (modCur s f).mem = s.mem := rfl
@[simp] theorem modCur_tags (s : State) (f : Core → Core) : (modCur s f).tags = s.tags := rfl
@[simp] theorem modCur_ctxs (s : State) (f : Core → Core) : (modCur s f).ctxs = s.ctxs := rfl
@[simp] theorem modCur_hw (s : State) (f : Core → Core) : (modCur s f).hw = s.hw := rfl
@[simp] theorem modCur_link (s : State) (f : Core → Core) : (modCur s f).link = s.link := rfl
@[simp] theorem modCur_chorus (s : State) (f : Core → Core) : (modCur s f).chorus = s.chorus := rfl
@[simp] theorem modCur_host (s : State) (f : Core → Core) : (modCur s f).host = s.host := rfl
@[simp] theorem modCur_plat (s : State) (f : Core → Core) : (modCur s f).plat = s.plat := rfl
@[simp] theorem modCur_issue (s : State) (f : Core → Core) : (modCur s f).issue = s.issue := rfl
@[simp] theorem modCur_agenda (s : State) (f : Core → Core) : (modCur s f).agenda = s.agenda := rfl
@[simp] theorem modCur_turn (s : State) (f : Core → Core) : (modCur s f).turn = s.turn := rfl
@[simp] theorem modCur_delays (s : State) (f : Core → Core) : (modCur s f).delays = s.delays := rfl
@[simp] theorem modCur_clock (s : State) (f : Core → Core) : (modCur s f).clock = s.clock := rfl
@[simp] theorem modCur_seq (s : State) (f : Core → Core) : (modCur s f).seq = s.seq := rfl
@[simp] theorem modCur_fresh (s : State) (f : Core → Core) : (modCur s f).fresh = s.fresh := rfl

@[simp] theorem modRegs_mem (s : State) (f : Regs → Regs) : (modRegs s f).mem = s.mem := rfl
@[simp] theorem modRegs_tags (s : State) (f : Regs → Regs) : (modRegs s f).tags = s.tags := rfl
@[simp] theorem modRegs_ctxs (s : State) (f : Regs → Regs) : (modRegs s f).ctxs = s.ctxs := rfl
@[simp] theorem modRegs_hw (s : State) (f : Regs → Regs) : (modRegs s f).hw = s.hw := rfl
@[simp] theorem modRegs_link (s : State) (f : Regs → Regs) : (modRegs s f).link = s.link := rfl
@[simp] theorem modRegs_chorus (s : State) (f : Regs → Regs) : (modRegs s f).chorus = s.chorus := rfl
@[simp] theorem modRegs_host (s : State) (f : Regs → Regs) : (modRegs s f).host = s.host := rfl
@[simp] theorem modRegs_plat (s : State) (f : Regs → Regs) : (modRegs s f).plat = s.plat := rfl
@[simp] theorem modRegs_issue (s : State) (f : Regs → Regs) : (modRegs s f).issue = s.issue := rfl
@[simp] theorem modRegs_agenda (s : State) (f : Regs → Regs) : (modRegs s f).agenda = s.agenda := rfl
@[simp] theorem modRegs_turn (s : State) (f : Regs → Regs) : (modRegs s f).turn = s.turn := rfl
@[simp] theorem modRegs_delays (s : State) (f : Regs → Regs) : (modRegs s f).delays = s.delays := rfl
@[simp] theorem modRegs_clock (s : State) (f : Regs → Regs) : (modRegs s f).clock = s.clock := rfl
@[simp] theorem modRegs_seq (s : State) (f : Regs → Regs) : (modRegs s f).seq = s.seq := rfl
@[simp] theorem modRegs_fresh (s : State) (f : Regs → Regs) : (modRegs s f).fresh = s.fresh := rfl

@[simp] theorem setCtx_mem (s : State) (n : Nat) (c : Ctx) : (setCtx s n c).mem = s.mem := rfl
@[simp] theorem setCtx_tags (s : State) (n : Nat) (c : Ctx) : (setCtx s n c).tags = s.tags := rfl
@[simp] theorem setCtx_cores (s : State) (n : Nat) (c : Ctx) : (setCtx s n c).cores = s.cores := rfl
@[simp] theorem setCtx_hw (s : State) (n : Nat) (c : Ctx) : (setCtx s n c).hw = s.hw := rfl
@[simp] theorem setCtx_link (s : State) (n : Nat) (c : Ctx) : (setCtx s n c).link = s.link := rfl
@[simp] theorem setCtx_chorus (s : State) (n : Nat) (c : Ctx) : (setCtx s n c).chorus = s.chorus := rfl
@[simp] theorem setCtx_host (s : State) (n : Nat) (c : Ctx) : (setCtx s n c).host = s.host := rfl
@[simp] theorem setCtx_plat (s : State) (n : Nat) (c : Ctx) : (setCtx s n c).plat = s.plat := rfl
@[simp] theorem setCtx_issue (s : State) (n : Nat) (c : Ctx) : (setCtx s n c).issue = s.issue := rfl
@[simp] theorem setCtx_agenda (s : State) (n : Nat) (c : Ctx) : (setCtx s n c).agenda = s.agenda := rfl
@[simp] theorem setCtx_turn (s : State) (n : Nat) (c : Ctx) : (setCtx s n c).turn = s.turn := rfl
@[simp] theorem setCtx_delays (s : State) (n : Nat) (c : Ctx) : (setCtx s n c).delays = s.delays := rfl
@[simp] theorem setCtx_clock (s : State) (n : Nat) (c : Ctx) : (setCtx s n c).clock = s.clock := rfl
@[simp] theorem setCtx_seq (s : State) (n : Nat) (c : Ctx) : (setCtx s n c).seq = s.seq := rfl
@[simp] theorem setCtx_fresh (s : State) (n : Nat) (c : Ctx) : (setCtx s n c).fresh = s.fresh := rfl

@[simp] theorem modCtx_mem (s : State) (n : Nat) (f : Ctx → Ctx) : (modCtx s n f).mem = s.mem := by unfold modCtx; split <;> rfl
@[simp] theorem modCtx_tags (s : State) (n : Nat) (f : Ctx → Ctx) : (modCtx s n f).tags = s.tags := by unfold modCtx; split <;> rfl
@[simp] theorem modCtx_cores (s : State) (n : Nat) (f : Ctx → Ctx) : (modCtx s n f).cores = s.cores := by unfold modCtx; split <;> rfl
@[simp] theorem modCtx_hw (s : State) (n : Nat) (f : Ctx → Ctx) : (modCtx s n f).hw = s.hw := by unfold modCtx; split <;> rfl
@[simp] theorem modCtx_link (s : State) (n : Nat) (f : Ctx → Ctx) : (modCtx s n f).link = s.link := by unfold modCtx; split <;> rfl
@[simp] theorem modCtx_chorus (s : State) (n : Nat) (f : Ctx → Ctx) : (modCtx s n f).chorus = s.chorus := by unfold modCtx; split <;> rfl
@[simp] theorem modCtx_host (s : State) (n : Nat) (f : Ctx → Ctx) : (modCtx s n f).host = s.host := by unfold modCtx; split <;> rfl
@[simp] theorem modCtx_plat (s : State) (n : Nat) (f : Ctx → Ctx) : (modCtx s n f).plat = s.plat := by unfold modCtx; split <;> rfl
@[simp] theorem modCtx_issue (s : State) (n : Nat) (f : Ctx → Ctx) : (modCtx s n f).issue = s.issue := by unfold modCtx; split <;> rfl
@[simp] theorem modCtx_agenda (s : State) (n : Nat) (f : Ctx → Ctx) : (modCtx s n f).agenda = s.agenda := by unfold modCtx; split <;> rfl
@[simp] theorem modCtx_turn (s : State) (n : Nat) (f : Ctx → Ctx) : (modCtx s n f).turn = s.turn := by unfold modCtx; split <;> rfl
@[simp] theorem modCtx_delays (s : State) (n : Nat) (f : Ctx → Ctx) : (modCtx s n f).delays = s.delays := by unfold modCtx; split <;> rfl
@[simp] theorem modCtx_clock (s : State) (n : Nat) (f : Ctx → Ctx) : (modCtx s n f).clock = s.clock := by unfold modCtx; split <;> rfl
@[simp] theorem modCtx_seq (s : State) (n : Nat) (f : Ctx → Ctx) : (modCtx s n f).seq = s.seq := by unfold modCtx; split <;> rfl
@[simp] theorem modCtx_fresh (s : State) (n : Nat) (f : Ctx → Ctx) : (modCtx s n f).fresh = s.fresh := by unfold modCtx; split <;> rfl

@[simp] theorem modLaunch_mem (s : State) (n h : Nat) (f : Launch → Launch) : (modLaunch s n h f).mem = s.mem := by simp [modLaunch]
@[simp] theorem modLaunch_tags (s : State) (n h : Nat) (f : Launch → Launch) : (modLaunch s n h f).tags = s.tags := by simp [modLaunch]
@[simp] theorem modLaunch_cores (s : State) (n h : Nat) (f : Launch → Launch) : (modLaunch s n h f).cores = s.cores := by simp [modLaunch]
@[simp] theorem modLaunch_hw (s : State) (n h : Nat) (f : Launch → Launch) : (modLaunch s n h f).hw = s.hw := by simp [modLaunch]
@[simp] theorem modLaunch_link (s : State) (n h : Nat) (f : Launch → Launch) : (modLaunch s n h f).link = s.link := by simp [modLaunch]
@[simp] theorem modLaunch_chorus (s : State) (n h : Nat) (f : Launch → Launch) : (modLaunch s n h f).chorus = s.chorus := by simp [modLaunch]
@[simp] theorem modLaunch_host (s : State) (n h : Nat) (f : Launch → Launch) : (modLaunch s n h f).host = s.host := by simp [modLaunch]
@[simp] theorem modLaunch_plat (s : State) (n h : Nat) (f : Launch → Launch) : (modLaunch s n h f).plat = s.plat := by simp [modLaunch]
@[simp] theorem modLaunch_issue (s : State) (n h : Nat) (f : Launch → Launch) : (modLaunch s n h f).issue = s.issue := by simp [modLaunch]
@[simp] theorem modLaunch_agenda (s : State) (n h : Nat) (f : Launch → Launch) : (modLaunch s n h f).agenda = s.agenda := by simp [modLaunch]
@[simp] theorem modLaunch_turn (s : State) (n h : Nat) (f : Launch → Launch) : (modLaunch s n h f).turn = s.turn := by simp [modLaunch]
@[simp] theorem modLaunch_delays (s : State) (n h : Nat) (f : Launch → Launch) : (modLaunch s n h f).delays = s.delays := by simp [modLaunch]
@[simp] theorem modLaunch_clock (s : State) (n h : Nat) (f : Launch → Launch) : (modLaunch s n h f).clock = s.clock := by simp [modLaunch]
@[simp] theorem modLaunch_seq (s : State) (n h : Nat) (f : Launch → Launch) : (modLaunch s n h f).seq = s.seq := by simp [modLaunch]
@[simp] theorem modLaunch_fresh (s : State) (n h : Nat) (f : Launch → Launch) : (modLaunch s n h f).fresh = s.fresh := by simp [modLaunch]

@[simp] theorem modRun_mem (s : State) (n h : Nat) (b : Bool) (f : RunState → RunState) : (modRun s n h b f).mem = s.mem := by simp [modRun]
@[simp] theorem modRun_tags (s : State) (n h : Nat) (b : Bool) (f : RunState → RunState) : (modRun s n h b f).tags = s.tags := by simp [modRun]
@[simp] theorem modRun_cores (s : State) (n h : Nat) (b : Bool) (f : RunState → RunState) : (modRun s n h b f).cores = s.cores := by simp [modRun]
@[simp] theorem modRun_hw (s : State) (n h : Nat) (b : Bool) (f : RunState → RunState) : (modRun s n h b f).hw = s.hw := by simp [modRun]
@[simp] theorem modRun_link (s : State) (n h : Nat) (b : Bool) (f : RunState → RunState) : (modRun s n h b f).link = s.link := by simp [modRun]
@[simp] theorem modRun_chorus (s : State) (n h : Nat) (b : Bool) (f : RunState → RunState) : (modRun s n h b f).chorus = s.chorus := by simp [modRun]
@[simp] theorem modRun_host (s : State) (n h : Nat) (b : Bool) (f : RunState → RunState) : (modRun s n h b f).host = s.host := by simp [modRun]
@[simp] theorem modRun_plat (s : State) (n h : Nat) (b : Bool) (f : RunState → RunState) : (modRun s n h b f).plat = s.plat := by simp [modRun]
@[simp] theorem modRun_issue (s : State) (n h : Nat) (b : Bool) (f : RunState → RunState) : (modRun s n h b f).issue = s.issue := by simp [modRun]
@[simp] theorem modRun_agenda (s : State) (n h : Nat) (b : Bool) (f : RunState → RunState) : (modRun s n h b f).agenda = s.agenda := by simp [modRun]
@[simp] theorem modRun_turn (s : State) (n h : Nat) (b : Bool) (f : RunState → RunState) : (modRun s n h b f).turn = s.turn := by simp [modRun]
@[simp] theorem modRun_delays (s : State) (n h : Nat) (b : Bool) (f : RunState → RunState) : (modRun s n h b f).delays = s.delays := by simp [modRun]
@[simp] theorem modRun_clock (s : State) (n h : Nat) (b : Bool) (f : RunState → RunState) : (modRun s n h b f).clock = s.clock := by simp [modRun]
@[simp] theorem modRun_seq (s : State) (n h : Nat) (b : Bool) (f : RunState → RunState) : (modRun s n h b f).seq = s.seq := by simp [modRun]
@[simp] theorem modRun_fresh (s : State) (n h : Nat) (b : Bool) (f : RunState → RunState) : (modRun s n h b f).fresh = s.fresh := by simp [modRun]

@[simp] theorem raiseVector_mem (s : State) (v : Nat) : (raiseVector s v).mem = s.mem := by unfold raiseVector; split <;> rfl
@[simp] theorem raiseVector_tags (s : State) (v : Nat) : (raiseVector s v).tags = s.tags := by unfold raiseVector; split <;> rfl
@[simp] theorem raiseVector_cores (s : State) (v : Nat) : (raiseVector s v).cores = s.cores := by unfold raiseVector; split <;> rfl
@[simp] theorem raiseVector_ctxs (s : State) (v : Nat) : (raiseVector s v).ctxs = s.ctxs := by unfold raiseVector; split <;> rfl
@[simp] theorem raiseVector_hw (s : State) (v : Nat) : (raiseVector s v).hw = s.hw := by unfold raiseVector; split <;> rfl
@[simp] theorem raiseVector_link (s : State) (v : Nat) : (raiseVector s v).link = s.link := by unfold raiseVector; split <;> rfl
@[simp] theorem raiseVector_chorus (s : State) (v : Nat) : (raiseVector s v).chorus = s.chorus := by unfold raiseVector; split <;> rfl
@[simp] theorem raiseVector_plat (s : State) (v : Nat) : (raiseVector s v).plat = s.plat := by unfold raiseVector; split <;> rfl
@[simp] theorem raiseVector_issue (s : State) (v : Nat) : (raiseVector s v).issue = s.issue := by unfold raiseVector; split <;> rfl
@[simp] theorem raiseVector_agenda (s : State) (v : Nat) : (raiseVector s v).agenda = s.agenda := by unfold raiseVector; split <;> rfl
@[simp] theorem raiseVector_turn (s : State) (v : Nat) : (raiseVector s v).turn = s.turn := by unfold raiseVector; split <;> rfl
@[simp] theorem raiseVector_delays (s : State) (v : Nat) : (raiseVector s v).delays = s.delays := by unfold raiseVector; split <;> rfl
@[simp] theorem raiseVector_clock (s : State) (v : Nat) : (raiseVector s v).clock = s.clock := by unfold raiseVector; split <;> rfl
@[simp] theorem raiseVector_seq (s : State) (v : Nat) : (raiseVector s v).seq = s.seq := by unfold raiseVector; split <;> rfl
@[simp] theorem raiseVector_fresh (s : State) (v : Nat) : (raiseVector s v).fresh = s.fresh := by unfold raiseVector; split <;> rfl

@[simp] theorem post_mem (s : State) (e : Event) : (post s e).mem = s.mem := by simp [post]
@[simp] theorem post_tags (s : State) (e : Event) : (post s e).tags = s.tags := by simp [post]
@[simp] theorem post_cores (s : State) (e : Event) : (post s e).cores = s.cores := by simp [post]
@[simp] theorem post_ctxs (s : State) (e : Event) : (post s e).ctxs = s.ctxs := by simp [post]
@[simp] theorem post_hw (s : State) (e : Event) : (post s e).hw = s.hw := by simp [post]
@[simp] theorem post_link (s : State) (e : Event) : (post s e).link = s.link := by simp [post]
@[simp] theorem post_chorus (s : State) (e : Event) : (post s e).chorus = s.chorus := by simp [post]
@[simp] theorem post_plat (s : State) (e : Event) : (post s e).plat = s.plat := by simp [post]
@[simp] theorem post_issue (s : State) (e : Event) : (post s e).issue = s.issue := by simp [post]
@[simp] theorem post_agenda (s : State) (e : Event) : (post s e).agenda = s.agenda := by simp [post]
@[simp] theorem post_turn (s : State) (e : Event) : (post s e).turn = s.turn := by simp [post]
@[simp] theorem post_delays (s : State) (e : Event) : (post s e).delays = s.delays := by simp [post]
@[simp] theorem post_clock (s : State) (e : Event) : (post s e).clock = s.clock := by simp [post]
@[simp] theorem post_seq (s : State) (e : Event) : (post s e).seq = s.seq := by simp [post]
@[simp] theorem post_fresh (s : State) (e : Event) : (post s e).fresh = s.fresh := by simp [post]

@[simp] theorem pulseIn_mem (f : Ctx → Bool) (s : State) (k : Nat) : (pulseIn f s k).mem = s.mem := by simp [pulseIn]
@[simp] theorem pulseIn_tags (f : Ctx → Bool) (s : State) (k : Nat) : (pulseIn f s k).tags = s.tags := by simp [pulseIn]
@[simp] theorem pulseIn_cores (f : Ctx → Bool) (s : State) (k : Nat) : (pulseIn f s k).cores = s.cores := by simp [pulseIn]
@[simp] theorem pulseIn_hw (f : Ctx → Bool) (s : State) (k : Nat) : (pulseIn f s k).hw = s.hw := by simp [pulseIn]
@[simp] theorem pulseIn_link (f : Ctx → Bool) (s : State) (k : Nat) : (pulseIn f s k).link = s.link := by simp [pulseIn]
@[simp] theorem pulseIn_chorus (f : Ctx → Bool) (s : State) (k : Nat) : (pulseIn f s k).chorus = s.chorus := by simp [pulseIn]
@[simp] theorem pulseIn_host (f : Ctx → Bool) (s : State) (k : Nat) : (pulseIn f s k).host = s.host := by simp [pulseIn]
@[simp] theorem pulseIn_plat (f : Ctx → Bool) (s : State) (k : Nat) : (pulseIn f s k).plat = s.plat := by simp [pulseIn]
@[simp] theorem pulseIn_issue (f : Ctx → Bool) (s : State) (k : Nat) : (pulseIn f s k).issue = s.issue := by simp [pulseIn]
@[simp] theorem pulseIn_agenda (f : Ctx → Bool) (s : State) (k : Nat) : (pulseIn f s k).agenda = s.agenda := by simp [pulseIn]
@[simp] theorem pulseIn_turn (f : Ctx → Bool) (s : State) (k : Nat) : (pulseIn f s k).turn = s.turn := by simp [pulseIn]
@[simp] theorem pulseIn_delays (f : Ctx → Bool) (s : State) (k : Nat) : (pulseIn f s k).delays = s.delays := by simp [pulseIn]
@[simp] theorem pulseIn_clock (f : Ctx → Bool) (s : State) (k : Nat) : (pulseIn f s k).clock = s.clock := by simp [pulseIn]
@[simp] theorem pulseIn_seq (f : Ctx → Bool) (s : State) (k : Nat) : (pulseIn f s k).seq = s.seq := by simp [pulseIn]
@[simp] theorem pulseIn_fresh (f : Ctx → Bool) (s : State) (k : Nat) : (pulseIn f s k).fresh = s.fresh := by simp [pulseIn]

@[simp] theorem pulse_mem (s : State) (k : Nat) : (pulse s k).mem = s.mem := by simp [pulse]
@[simp] theorem pulse_tags (s : State) (k : Nat) : (pulse s k).tags = s.tags := by simp [pulse]
@[simp] theorem pulse_cores (s : State) (k : Nat) : (pulse s k).cores = s.cores := by simp [pulse]
@[simp] theorem pulse_hw (s : State) (k : Nat) : (pulse s k).hw = s.hw := by simp [pulse]
@[simp] theorem pulse_link (s : State) (k : Nat) : (pulse s k).link = s.link := by simp [pulse]
@[simp] theorem pulse_chorus (s : State) (k : Nat) : (pulse s k).chorus = s.chorus := by simp [pulse]
@[simp] theorem pulse_host (s : State) (k : Nat) : (pulse s k).host = s.host := by simp [pulse]
@[simp] theorem pulse_plat (s : State) (k : Nat) : (pulse s k).plat = s.plat := by simp [pulse]
@[simp] theorem pulse_issue (s : State) (k : Nat) : (pulse s k).issue = s.issue := by simp [pulse]
@[simp] theorem pulse_agenda (s : State) (k : Nat) : (pulse s k).agenda = s.agenda := by simp [pulse]
@[simp] theorem pulse_turn (s : State) (k : Nat) : (pulse s k).turn = s.turn := by simp [pulse]
@[simp] theorem pulse_delays (s : State) (k : Nat) : (pulse s k).delays = s.delays := by simp [pulse]
@[simp] theorem pulse_clock (s : State) (k : Nat) : (pulse s k).clock = s.clock := by simp [pulse]
@[simp] theorem pulse_seq (s : State) (k : Nat) : (pulse s k).seq = s.seq := by simp [pulse]
@[simp] theorem pulse_fresh (s : State) (k : Nat) : (pulse s k).fresh = s.fresh := by simp [pulse]

@[simp] theorem savePulse_mem (s : State) (k : Nat) : (savePulse s k).mem = s.mem := by simp [savePulse]
@[simp] theorem savePulse_tags (s : State) (k : Nat) : (savePulse s k).tags = s.tags := by simp [savePulse]
@[simp] theorem savePulse_cores (s : State) (k : Nat) : (savePulse s k).cores = s.cores := by simp [savePulse]
@[simp] theorem savePulse_hw (s : State) (k : Nat) : (savePulse s k).hw = s.hw := by simp [savePulse]
@[simp] theorem savePulse_link (s : State) (k : Nat) : (savePulse s k).link = s.link := by simp [savePulse]
@[simp] theorem savePulse_chorus (s : State) (k : Nat) : (savePulse s k).chorus = s.chorus := by simp [savePulse]
@[simp] theorem savePulse_host (s : State) (k : Nat) : (savePulse s k).host = s.host := by simp [savePulse]
@[simp] theorem savePulse_plat (s : State) (k : Nat) : (savePulse s k).plat = s.plat := by simp [savePulse]
@[simp] theorem savePulse_issue (s : State) (k : Nat) : (savePulse s k).issue = s.issue := by simp [savePulse]
@[simp] theorem savePulse_agenda (s : State) (k : Nat) : (savePulse s k).agenda = s.agenda := by simp [savePulse]
@[simp] theorem savePulse_turn (s : State) (k : Nat) : (savePulse s k).turn = s.turn := by simp [savePulse]
@[simp] theorem savePulse_delays (s : State) (k : Nat) : (savePulse s k).delays = s.delays := by simp [savePulse]
@[simp] theorem savePulse_clock (s : State) (k : Nat) : (savePulse s k).clock = s.clock := by simp [savePulse]
@[simp] theorem savePulse_seq (s : State) (k : Nat) : (savePulse s k).seq = s.seq := by simp [savePulse]
@[simp] theorem savePulse_fresh (s : State) (k : Nat) : (savePulse s k).fresh = s.fresh := by simp [savePulse]

@[simp] theorem awaitedPulse_mem (s : State) (k : Nat) : (awaitedPulse s k).mem = s.mem := by simp [awaitedPulse]
@[simp] theorem awaitedPulse_tags (s : State) (k : Nat) : (awaitedPulse s k).tags = s.tags := by simp [awaitedPulse]
@[simp] theorem awaitedPulse_cores (s : State) (k : Nat) : (awaitedPulse s k).cores = s.cores := by simp [awaitedPulse]
@[simp] theorem awaitedPulse_hw (s : State) (k : Nat) : (awaitedPulse s k).hw = s.hw := by simp [awaitedPulse]
@[simp] theorem awaitedPulse_link (s : State) (k : Nat) : (awaitedPulse s k).link = s.link := by simp [awaitedPulse]
@[simp] theorem awaitedPulse_chorus (s : State) (k : Nat) : (awaitedPulse s k).chorus = s.chorus := by simp [awaitedPulse]
@[simp] theorem awaitedPulse_host (s : State) (k : Nat) : (awaitedPulse s k).host = s.host := by simp [awaitedPulse]
@[simp] theorem awaitedPulse_plat (s : State) (k : Nat) : (awaitedPulse s k).plat = s.plat := by simp [awaitedPulse]
@[simp] theorem awaitedPulse_issue (s : State) (k : Nat) : (awaitedPulse s k).issue = s.issue := by simp [awaitedPulse]
@[simp] theorem awaitedPulse_agenda (s : State) (k : Nat) : (awaitedPulse s k).agenda = s.agenda := by simp [awaitedPulse]
@[simp] theorem awaitedPulse_turn (s : State) (k : Nat) : (awaitedPulse s k).turn = s.turn := by simp [awaitedPulse]
@[simp] theorem awaitedPulse_delays (s : State) (k : Nat) : (awaitedPulse s k).delays = s.delays := by simp [awaitedPulse]
@[simp] theorem awaitedPulse_clock (s : State) (k : Nat) : (awaitedPulse s k).clock = s.clock := by simp [awaitedPulse]
@[simp] theorem awaitedPulse_seq (s : State) (k : Nat) : (awaitedPulse s k).seq = s.seq := by simp [awaitedPulse]
@[simp] theorem awaitedPulse_fresh (s : State) (k : Nat) : (awaitedPulse s k).fresh = s.fresh := by simp [awaitedPulse]

@[simp] theorem noteWrite_mem (s : State) (p : Nat) : (noteWrite s p).mem = s.mem := by unfold noteWrite; split <;> rfl
@[simp] theorem noteWrite_tags (s : State) (p : Nat) : (noteWrite s p).tags = s.tags := by unfold noteWrite; split <;> rfl
@[simp] theorem noteWrite_cores (s : State) (p : Nat) : (noteWrite s p).cores = s.cores := by unfold noteWrite; split <;> rfl
@[simp] theorem noteWrite_ctxs (s : State) (p : Nat) : (noteWrite s p).ctxs = s.ctxs := by unfold noteWrite; split <;> rfl
@[simp] theorem noteWrite_link (s : State) (p : Nat) : (noteWrite s p).link = s.link := by unfold noteWrite; split <;> rfl
@[simp] theorem noteWrite_chorus (s : State) (p : Nat) : (noteWrite s p).chorus = s.chorus := by unfold noteWrite; split <;> rfl
@[simp] theorem noteWrite_host (s : State) (p : Nat) : (noteWrite s p).host = s.host := by unfold noteWrite; split <;> rfl
@[simp] theorem noteWrite_plat (s : State) (p : Nat) : (noteWrite s p).plat = s.plat := by unfold noteWrite; split <;> rfl
@[simp] theorem noteWrite_issue (s : State) (p : Nat) : (noteWrite s p).issue = s.issue := by unfold noteWrite; split <;> rfl
@[simp] theorem noteWrite_agenda (s : State) (p : Nat) : (noteWrite s p).agenda = s.agenda := by unfold noteWrite; split <;> rfl
@[simp] theorem noteWrite_turn (s : State) (p : Nat) : (noteWrite s p).turn = s.turn := by unfold noteWrite; split <;> rfl
@[simp] theorem noteWrite_delays (s : State) (p : Nat) : (noteWrite s p).delays = s.delays := by unfold noteWrite; split <;> rfl
@[simp] theorem noteWrite_clock (s : State) (p : Nat) : (noteWrite s p).clock = s.clock := by unfold noteWrite; split <;> rfl
@[simp] theorem noteWrite_fresh (s : State) (p : Nat) : (noteWrite s p).fresh = s.fresh := by unfold noteWrite; split <;> rfl

@[simp] theorem putByte_tags (s : State) (p : Nat) (b : Byte) : (putByte s p b).tags = s.tags := by simp [putByte]
@[simp] theorem putByte_cores (s : State) (p : Nat) (b : Byte) : (putByte s p b).cores = s.cores := by simp [putByte]
@[simp] theorem putByte_ctxs (s : State) (p : Nat) (b : Byte) : (putByte s p b).ctxs = s.ctxs := by simp [putByte]
@[simp] theorem putByte_link (s : State) (p : Nat) (b : Byte) : (putByte s p b).link = s.link := by simp [putByte]
@[simp] theorem putByte_chorus (s : State) (p : Nat) (b : Byte) : (putByte s p b).chorus = s.chorus := by simp [putByte]
@[simp] theorem putByte_host (s : State) (p : Nat) (b : Byte) : (putByte s p b).host = s.host := by simp [putByte]
@[simp] theorem putByte_plat (s : State) (p : Nat) (b : Byte) : (putByte s p b).plat = s.plat := by simp [putByte]
@[simp] theorem putByte_issue (s : State) (p : Nat) (b : Byte) : (putByte s p b).issue = s.issue := by simp [putByte]
@[simp] theorem putByte_agenda (s : State) (p : Nat) (b : Byte) : (putByte s p b).agenda = s.agenda := by simp [putByte]
@[simp] theorem putByte_turn (s : State) (p : Nat) (b : Byte) : (putByte s p b).turn = s.turn := by simp [putByte]
@[simp] theorem putByte_delays (s : State) (p : Nat) (b : Byte) : (putByte s p b).delays = s.delays := by simp [putByte]
@[simp] theorem putByte_clock (s : State) (p : Nat) (b : Byte) : (putByte s p b).clock = s.clock := by simp [putByte]
@[simp] theorem putByte_fresh (s : State) (p : Nat) (b : Byte) : (putByte s p b).fresh = s.fresh := by simp [putByte]

@[simp] theorem setTag_mem (s : State) (p : Nat) (b : Bool) : (setTag s p b).mem = s.mem := rfl
@[simp] theorem setTag_cores (s : State) (p : Nat) (b : Bool) : (setTag s p b).cores = s.cores := rfl
@[simp] theorem setTag_ctxs (s : State) (p : Nat) (b : Bool) : (setTag s p b).ctxs = s.ctxs := rfl
@[simp] theorem setTag_hw (s : State) (p : Nat) (b : Bool) : (setTag s p b).hw = s.hw := rfl
@[simp] theorem setTag_link (s : State) (p : Nat) (b : Bool) : (setTag s p b).link = s.link := rfl
@[simp] theorem setTag_chorus (s : State) (p : Nat) (b : Bool) : (setTag s p b).chorus = s.chorus := rfl
@[simp] theorem setTag_host (s : State) (p : Nat) (b : Bool) : (setTag s p b).host = s.host := rfl
@[simp] theorem setTag_plat (s : State) (p : Nat) (b : Bool) : (setTag s p b).plat = s.plat := rfl
@[simp] theorem setTag_issue (s : State) (p : Nat) (b : Bool) : (setTag s p b).issue = s.issue := rfl
@[simp] theorem setTag_agenda (s : State) (p : Nat) (b : Bool) : (setTag s p b).agenda = s.agenda := rfl
@[simp] theorem setTag_turn (s : State) (p : Nat) (b : Bool) : (setTag s p b).turn = s.turn := rfl
@[simp] theorem setTag_delays (s : State) (p : Nat) (b : Bool) : (setTag s p b).delays = s.delays := rfl
@[simp] theorem setTag_clock (s : State) (p : Nat) (b : Bool) : (setTag s p b).clock = s.clock := rfl
@[simp] theorem setTag_seq (s : State) (p : Nat) (b : Bool) : (setTag s p b).seq = s.seq := rfl
@[simp] theorem setTag_fresh (s : State) (p : Nat) (b : Bool) : (setTag s p b).fresh = s.fresh := rfl

@[simp] theorem setLineTime_mem (s : State) (l : Nat) (t : LineTime) : (setLineTime s l t).mem = s.mem := rfl
@[simp] theorem setLineTime_tags (s : State) (l : Nat) (t : LineTime) : (setLineTime s l t).tags = s.tags := rfl
@[simp] theorem setLineTime_cores (s : State) (l : Nat) (t : LineTime) : (setLineTime s l t).cores = s.cores := rfl
@[simp] theorem setLineTime_ctxs (s : State) (l : Nat) (t : LineTime) : (setLineTime s l t).ctxs = s.ctxs := rfl
@[simp] theorem setLineTime_link (s : State) (l : Nat) (t : LineTime) : (setLineTime s l t).link = s.link := rfl
@[simp] theorem setLineTime_chorus (s : State) (l : Nat) (t : LineTime) : (setLineTime s l t).chorus = s.chorus := rfl
@[simp] theorem setLineTime_host (s : State) (l : Nat) (t : LineTime) : (setLineTime s l t).host = s.host := rfl
@[simp] theorem setLineTime_plat (s : State) (l : Nat) (t : LineTime) : (setLineTime s l t).plat = s.plat := rfl
@[simp] theorem setLineTime_issue (s : State) (l : Nat) (t : LineTime) : (setLineTime s l t).issue = s.issue := rfl
@[simp] theorem setLineTime_agenda (s : State) (l : Nat) (t : LineTime) : (setLineTime s l t).agenda = s.agenda := rfl
@[simp] theorem setLineTime_turn (s : State) (l : Nat) (t : LineTime) : (setLineTime s l t).turn = s.turn := rfl
@[simp] theorem setLineTime_delays (s : State) (l : Nat) (t : LineTime) : (setLineTime s l t).delays = s.delays := rfl
@[simp] theorem setLineTime_clock (s : State) (l : Nat) (t : LineTime) : (setLineTime s l t).clock = s.clock := rfl
@[simp] theorem setLineTime_seq (s : State) (l : Nat) (t : LineTime) : (setLineTime s l t).seq = s.seq := rfl
@[simp] theorem setLineTime_fresh (s : State) (l : Nat) (t : LineTime) : (setLineTime s l t).fresh = s.fresh := rfl

@[simp] theorem setClock_mem (s : State) (a : Agent) (t : Nat) : (setClock s a t).mem = s.mem := by cases a <;> rfl
@[simp] theorem setClock_tags (s : State) (a : Agent) (t : Nat) : (setClock s a t).tags = s.tags := by cases a <;> rfl
@[simp] theorem setClock_ctxs (s : State) (a : Agent) (t : Nat) : (setClock s a t).ctxs = s.ctxs := by cases a <;> rfl
@[simp] theorem setClock_link (s : State) (a : Agent) (t : Nat) : (setClock s a t).link = s.link := by cases a <;> rfl
@[simp] theorem setClock_host (s : State) (a : Agent) (t : Nat) : (setClock s a t).host = s.host := by cases a <;> rfl
@[simp] theorem setClock_plat (s : State) (a : Agent) (t : Nat) : (setClock s a t).plat = s.plat := by cases a <;> rfl
@[simp] theorem setClock_issue (s : State) (a : Agent) (t : Nat) : (setClock s a t).issue = s.issue := by cases a <;> rfl
@[simp] theorem setClock_agenda (s : State) (a : Agent) (t : Nat) : (setClock s a t).agenda = s.agenda := by cases a <;> rfl
@[simp] theorem setClock_turn (s : State) (a : Agent) (t : Nat) : (setClock s a t).turn = s.turn := by cases a <;> rfl
@[simp] theorem setClock_delays (s : State) (a : Agent) (t : Nat) : (setClock s a t).delays = s.delays := by cases a <;> rfl
@[simp] theorem setClock_clock (s : State) (a : Agent) (t : Nat) : (setClock s a t).clock = s.clock := by cases a <;> rfl
@[simp] theorem setClock_seq (s : State) (a : Agent) (t : Nat) : (setClock s a t).seq = s.seq := by cases a <;> rfl
@[simp] theorem setClock_fresh (s : State) (a : Agent) (t : Nat) : (setClock s a t).fresh = s.fresh := by cases a <;> rfl

@[simp] theorem follows_mem (s : State) (a b : Agent) : (follows s a b).mem = s.mem := by unfold follows; split <;> simp
@[simp] theorem follows_tags (s : State) (a b : Agent) : (follows s a b).tags = s.tags := by unfold follows; split <;> simp
@[simp] theorem follows_ctxs (s : State) (a b : Agent) : (follows s a b).ctxs = s.ctxs := by unfold follows; split <;> simp
@[simp] theorem follows_link (s : State) (a b : Agent) : (follows s a b).link = s.link := by unfold follows; split <;> simp
@[simp] theorem follows_host (s : State) (a b : Agent) : (follows s a b).host = s.host := by unfold follows; split <;> simp
@[simp] theorem follows_plat (s : State) (a b : Agent) : (follows s a b).plat = s.plat := by unfold follows; split <;> simp
@[simp] theorem follows_issue (s : State) (a b : Agent) : (follows s a b).issue = s.issue := by unfold follows; split <;> simp
@[simp] theorem follows_agenda (s : State) (a b : Agent) : (follows s a b).agenda = s.agenda := by unfold follows; split <;> simp
@[simp] theorem follows_turn (s : State) (a b : Agent) : (follows s a b).turn = s.turn := by unfold follows; split <;> simp
@[simp] theorem follows_delays (s : State) (a b : Agent) : (follows s a b).delays = s.delays := by unfold follows; split <;> simp
@[simp] theorem follows_clock (s : State) (a b : Agent) : (follows s a b).clock = s.clock := by unfold follows; split <;> simp
@[simp] theorem follows_seq (s : State) (a b : Agent) : (follows s a b).seq = s.seq := by unfold follows; split <;> simp
@[simp] theorem follows_fresh (s : State) (a b : Agent) : (follows s a b).fresh = s.fresh := by unfold follows; split <;> simp

/-! ## Reading after an update -/

theorem getCore_setCore (s : State) (n m : Nat) (c : Core) : getCore (setCore s n c) m = if m = n then c else getCore s m := by
  unfold getCore setCore; exact spGet_spSet _ _ _ _ _

@[simp] theorem getCore_setCore_self (s : State) (n : Nat) (c : Core) : getCore (setCore s n c) n = c := by simp [getCore_setCore]

@[simp] theorem getCore_modCore_self (s : State) (n : Nat) (f : Core → Core) : getCore (modCore s n f) n = f (getCore s n) := by
  simp [modCore]

theorem getCore_modCore_of_ne (s : State) {n m : Nat} (f : Core → Core) (h : m ≠ n) : getCore (modCore s n f) m = getCore s m := by
  simp [modCore, getCore_setCore, h]

@[simp] theorem curCore_modCur (s : State) (f : Core → Core) : curCore (modCur s f) = f (curCore s) := by
  simp [curCore, modCur]

theorem getCtx_setCtx (s : State) (n m : Nat) (c : Ctx) : getCtx (setCtx s n c) m = if m = n then some c else getCtx s m := by
  unfold getCtx setCtx; exact spFind_spPut _ _ _ _

@[simp] theorem getCtx_setCtx_self (s : State) (n : Nat) (c : Ctx) : getCtx (setCtx s n c) n = some c := by simp [getCtx_setCtx]

theorem getCtx_modCtx (s : State) (n m : Nat) (f : Ctx → Ctx) :
    getCtx (modCtx s n f) m = if m = n then (getCtx s n).map f else getCtx s m := by
  unfold modCtx
  split
  · next c h => simp only [getCtx_setCtx, h, Option.map_some]
  · next h => split <;> simp_all

@[simp] theorem getCore_setCtx (s : State) (n m : Nat) (c : Ctx) : getCore (setCtx s n c) m = getCore s m := rfl

@[simp] theorem getCore_modCtx (s : State) (n m : Nat) (f : Ctx → Ctx) : getCore (modCtx s n f) m = getCore s m := by
  simp [getCore]

@[simp] theorem getCtx_setCore (s : State) (n m : Nat) (c : Core) : getCtx (setCore s n c) m = getCtx s m := rfl

@[simp] theorem getCtx_modCore (s : State) (n m : Nat) (f : Core → Core) : getCtx (modCore s n f) m = getCtx s m := rfl

/-! ## Registers (R17, R20) -/

@[simp] theorem readX_zero (g : Regs) : g.readX 0 = 0 := rfl

theorem readX_writeX (g : Regs) (r q : Nat) (v : Word) :
    (g.writeX r v).readX q = if q = r ∧ r ≠ 0 then v else g.readX q := by
  unfold Regs.writeX Regs.readX
  by_cases hr : r = 0 <;> by_cases hq : q = 0 <;> simp_all [spGet_spSet]
  intro h; omega

theorem readV_writeV (g : Regs) (b c : Bool) (r q : Nat) (v : Vec) :
    (g.writeV b r v).readV c q = if vecKey c q = vecKey b r then v else g.readV c q := by
  simp [Regs.writeV, Regs.readV, spGet_spSet]

theorem ring_setRing (g : Regs) (q p : Nat) (r : Ring) : (g.setRing q r).ring p = if p = q then r else g.ring p := by
  simp [Regs.setRing, Regs.ring, spGet_spSet]

end Sys2Proof.Machine
end

