-- ==== Sys2Proof/Laws/Memory.lean ====
section
/-!
SUPPORT. Laws of memory: a byte read after a write, and that every operation on memory keeps its canonical form.
-/
set_option Elab.async false

namespace Sys2Proof.Machine

theorem reset_memOk : State.reset.memOk = true := rfl

/-! ## Bytes -/

theorem rawByte_putByte (s : State) (p q : Nat) (b : Byte) : rawByte (putByte s p b) q = if q = p then b else rawByte s q := by
  unfold rawByte putByte
  simp only [spGet_spSet, noteWrite_mem]

theorem memOk_of_mem {s t : State} (h : t.mem = s.mem) : t.memOk = s.memOk := by simp [State.memOk, h]

theorem putByte_memOk (s : State) (p : Nat) (b : Byte) (h : s.memOk = true) : (putByte s p b).memOk = true := by
  unfold putByte State.memOk
  exact spWf_spSet restByte _ p b (by rw [noteWrite_mem]; exact h)

theorem putBytes_memOk (bs : List Byte) : ∀ (s : State) (p : Nat), s.memOk = true → (putBytes s p bs).memOk = true := by
  induction bs with
  | nil => exact fun s p h => h
  | cons b bs ih => exact fun s p h => ih _ _ (putByte_memOk s p b h)

theorem rawByte_putBytes (bs : List Byte) : ∀ (s : State) (p q : Nat),
    rawByte (putBytes s p bs) q = if p ≤ q ∧ q < p + bs.length then bs.getD (q - p) 0 else rawByte s q := by
  induction bs with
  | nil => intro s p q; rw [if_neg (by simp only [List.length_nil]; omega)]; rfl
  | cons b bs ih =>
    intro s p q
    rw [putBytes, ih, List.length_cons]
    by_cases h1 : q = p
    · subst h1
      rw [if_neg (by omega), if_pos (by omega), rawByte_putByte, if_pos rfl, Nat.sub_self]; rfl
    · by_cases h2 : p + 1 ≤ q ∧ q < p + 1 + bs.length
      · rw [if_pos h2, if_pos (by omega)]
        obtain ⟨k, rfl⟩ : ∃ k, q = p + 1 + k := ⟨q - (p + 1), by omega⟩
        rw [show p + 1 + k - (p + 1) = k by omega, show p + 1 + k - p = k + 1 by omega]
        simp
      · rw [if_neg h2, if_neg (by omega), rawByte_putByte, if_neg h1]

theorem putBytes_frame (bs : List Byte) : ∀ (s : State) (p : Nat),
    (putBytes s p bs).tags = s.tags ∧ (putBytes s p bs).cores = s.cores ∧ (putBytes s p bs).ctxs = s.ctxs ∧
      (putBytes s p bs).issue = s.issue ∧ (putBytes s p bs).link = s.link := by
  induction bs with
  | nil => intro s p; exact ⟨rfl, rfl, rfl, rfl, rfl⟩
  | cons b bs ih => intro s p; simpa [putBytes] using ih (putByte s p b) (p + 1)

/-! ## Ranges -/

theorem wipePlaces_memOk (s : State) (lo size : Nat) (h : s.memOk = true) : (wipePlaces s lo size).memOk = true :=
  spWf_spClear restByte s.mem _ _ h

theorem copyPlaces_memOk (s : State) (old new size : Nat) (h : s.memOk = true) : (copyPlaces s old new size).memOk = true :=
  spWf_foldl_spSet restByte _ _ _ _ (spWf_spClear restByte s.mem _ _ h)

theorem saveLocal_memOk (s : State) (k : Nat) (c : Ctx) (h : s.memOk = true) : (saveLocal s k c).memOk = true :=
  spWf_filter restByte _ s.mem h

theorem loadLocal_memOk (s : State) (k : Nat) (c : Ctx) (h : s.memOk = true) : (loadLocal s k c).memOk = true :=
  spWf_foldl_spSet restByte _ _ _ _ (spWf_filter restByte _ s.mem h)

theorem wipeAll_memOk (s : State) (lo size : Nat) (h : s.memOk = true) : (wipeAll s lo size).memOk = true :=
  wipePlaces_memOk s lo size h

/-! ## Partials, times, packets -/

theorem foldl_memOk {α : Type} (f : State → α → State) (hf : ∀ s x, s.memOk = true → (f s x).memOk = true) :
    ∀ (xs : List α) (s : State), s.memOk = true → (xs.foldl f s).memOk = true
  | [], _, h => h
  | x :: xs, s, h => foldl_memOk f hf xs (f s x) (hf s x h)

theorem foldl_mem {α : Type} (f : State → α → State) (hf : ∀ s x, (f s x).mem = s.mem) :
    ∀ (xs : List α) (s : State), (xs.foldl f s).mem = s.mem
  | [], _ => rfl
  | x :: xs, s => (foldl_mem f hf xs (f s x)).trans (hf s x)

theorem mergeValues_memOk (s : State) (ls : List Nat) (h : s.memOk = true) : (mergeValues s ls).memOk = true := by
  unfold mergeValues
  split
  · exact h
  · exact foldl_memOk _ (fun s q hs => putBytes_memOk _ _ _ hs) _ _ h

@[simp] theorem loads_mem (s : State) (a : Agent) (p n : Nat) : (loads s a p n).mem = s.mem := by
  simp only [loads, setClock_mem]
  exact foldl_mem _ (fun st l => setLineTime_mem _ _ _) _ _

@[simp] theorem stores_mem (s : State) (a : Agent) (p n : Nat) : (stores s a p n).mem = s.mem := by
  simp only [stores, setClock_mem]
  exact foldl_mem _ (fun st l => setLineTime_mem _ _ _) _ _

@[simp] theorem barTime_mem (s : State) (k name : Nat) (a : Agent) (w : Bool) : (barTime s k name a w).mem = s.mem := by
  unfold barTime; dsimp only
  split
  · rfl
  · split <;> simp

@[simp] theorem sendPacket_mem (s : State) (p : Packet) : (sendPacket s p).mem = s.mem := by
  unfold sendPacket; split <;> rfl

@[simp] theorem addDeps_mem (s : State) (w : Who) (ds : List Nat) : (addDeps s w ds).mem = s.mem := by
  unfold addDeps; split <;> simp

@[simp] theorem dropSync_mem (s : State) (n id : Nat) : (dropSync s n id).mem = s.mem := rfl

@[simp] theorem fillPending_mem (s : State) (n id : Nat) (p : Payload) : (fillPending s n id p).mem = s.mem := rfl

@[simp] theorem putSync_mem (s : State) (n : Nat) (o : SyncOp) : (putSync s n o).mem = s.mem := rfl

@[simp] theorem modDev_mem (s : State) (n : Nat) (f : Dev → Dev) : (modDev s n f).mem = s.mem := rfl

theorem setTag_memOk (s : State) (p : Nat) (b : Bool) (h : s.memOk = true) : (setTag s p b).memOk = true := h

/-! ## Waits -/

theorem performSync_memOk (s : State) (n : Nat) (o : SyncOp) (h : s.memOk = true) : (performSync s n o).memOk = true := by
  have hb := fun (p : Nat) (bs : List Byte) => putBytes_memOk bs s p h
  unfold performSync
  cases hk : o.kind <;> simp only
  case ldf size empty =>
    rw [memOk_of_mem (s := s)]
    · exact h
    · cases empty <;> simp <;> split <;> simp
  case ste size v =>
    rw [memOk_of_mem (s := putBytes s o.place (bytesOf size v))]
    · exact hb _ _
    · simp only [dropSync_mem, stores_mem, setTag_mem]; split <;> simp
  case vldf =>
    split
    · rw [memOk_of_mem (s := s)]
      · exact h
      · simp
    · rw [memOk_of_mem (s := s)]
      · exact h
      · simp
  case vste =>
    split
    · exact h
    · next e es _ =>
      rw [memOk_of_mem (s := putBytes s e.place (bytesOf 4 e.data))]
      · exact hb _ _
      · simp only [putSync_mem, stores_mem, setTag_mem]
  all_goals (rw [memOk_of_mem (s := s)] <;> first | exact h | simp)

theorem performMonitor_memOk (s : State) (m : Monitor) (h : s.memOk = true) : (performMonitor s m).memOk = true := by
  rw [memOk_of_mem (s := s)]
  · exact h
  · simp [performMonitor, answerDeps]

theorem performWaiter_memOk (s : State) (w : Waiter) (h : s.memOk = true) : (performWaiter s w).memOk = true := by
  cases w
  · exact performSync_memOk s _ _ h
  · exact performMonitor_memOk s _ h

theorem settleFuel_memOk : ∀ (k : Nat) (s : State), s.memOk = true → (settleFuel k s).memOk = true
  | 0, _, h => h
  | k + 1, s, h => by
    unfold settleFuel
    split
    · exact h
    · exact settleFuel_memOk k _ (performWaiter_memOk _ _ h)

theorem settle_memOk (s : State) (h : s.memOk = true) : (settle s).memOk = true := settleFuel_memOk _ s h

/-! ## The L2 (R340, R341) -/

theorem evict_memOk (s : State) (xs : List L2Line) (h : s.memOk = true) : (evict s xs).1.memOk = true := by
  unfold evict
  split
  · exact h
  · exact mergeValues_memOk s _ h

theorem l2Write_memOk (s : State) (l : Nat) (o : LineOwner) (skip : Bool) (h : s.memOk = true) :
    (l2Write s l o skip).1.memOk = true := by
  unfold l2Write
  exact evict_memOk _ _ h

theorem l2WriteAll_memOk (s : State) (ls : List LineWrite) (h : s.memOk = true) : (l2WriteAll s ls).1.memOk = true := by
  have key : ∀ (ls : List LineWrite) (acc : State × Bool), acc.1.memOk = true →
      (ls.foldl (fun (acc : State × Bool) e =>
        let r := l2Write acc.1 e.line e.owner e.spilled; (r.1, acc.2 || r.2)) acc).1.memOk = true := by
    intro ls
    induction ls with
    | nil => exact fun acc h => h
    | cons e ls ih => exact fun acc h => ih _ (l2Write_memOk acc.1 _ _ _ h)
  exact key ls (s, false) h

theorem mergeLines_memOk (s : State) (ls : List Nat) (h : s.memOk = true) : (mergeLines s ls).memOk = true := by
  unfold mergeLines
  split
  · exact h
  · exact l2WriteAll_memOk _ _ (mergeValues_memOk s ls h)

theorem mergePartials_memOk (s : State) (p n : Nat) (h : s.memOk = true) : (mergePartials s p n).memOk = true := by
  unfold mergePartials
  split
  · exact mergeLines_memOk s _ h
  · exact h

theorem l2Commit_memOk (s : State) (p n : Nat) (h : s.memOk = true) : (l2Commit s p n).memOk = true := by
  unfold l2Commit
  split
  · exact l2WriteAll_memOk s _ h
  · exact h

/-! ## Stores -/

@[simp] theorem shadowWrite_mem (s : State) (w : Who) (va p : Nat) (b : Byte) : (shadowWrite s w va p b).1.mem = s.mem := by
  unfold shadowWrite
  split
  · rfl
  · split
    · rfl
    · dsimp only
      split <;> split <;> simp

theorem storeByte_memOk (s : State) (w : Who) (va p : Nat) (b : Byte) (h : s.memOk = true) :
    (storeByte s w va p b).1.memOk = true := by
  unfold storeByte
  split
  · split
    · rw [memOk_of_mem (shadowWrite_mem s w va p b)]; exact h
    · exact putByte_memOk _ _ _ h
  · exact putByte_memOk _ _ _ h

theorem storeBytes_memOk (w : Who) : ∀ (bs : List Byte) (s : State) (va p : Nat), s.memOk = true →
    (storeBytes s w va p bs).1.memOk = true
  | [], _, _, _, h => h
  | b :: bs, s, va, p, h => by
    have h1 := storeByte_memOk s w va p b h
    unfold storeBytes
    dsimp only
    split
    · exact h1
    · exact storeBytes_memOk w bs _ _ _ h1

theorem stores_memOk (s : State) (a : Agent) (p n : Nat) (h : s.memOk = true) : (stores s a p n).memOk = true := by
  rw [memOk_of_mem (stores_mem s a p n)]; exact h

theorem storeAt_memOk (s : State) (a : Agent) (w : Who) (va p : Nat) (bs : List Byte) (h : s.memOk = true) :
    (storeAt s a w va p bs).1.memOk = true := by
  have h1 := l2WriteAll_memOk _ (lineWrites (mergePartials s p bs.length) w va p bs.length) (mergePartials_memOk s p bs.length h)
  unfold storeAt
  dsimp only
  split
  · exact h1
  · exact settle_memOk _ (storeBytes_memOk w bs _ va p (stores_memOk _ _ _ _ h1))

theorem storeList_memOk (a : Agent) (w : Who) : ∀ (xs : List (Nat × Nat × List Byte)) (s : State), s.memOk = true →
    (storeList s a w xs).1.memOk = true
  | [], _, h => h
  | (va, p, bs) :: rest, s, h => by
    have h1 := storeAt_memOk s a w va p bs h
    unfold storeList
    dsimp only
    split
    · exact h1
    · exact storeList_memOk a w rest _ h1

theorem holdPartial_mem (s : State) (p size op die v : Nat) : (holdPartial s p size op die v).mem = s.mem := by
  unfold holdPartial; dsimp only; split <;> rfl

theorem reduceAt_memOk (s : State) (a : Agent) (w : Who) (va p size op v : Nat) (h : s.memOk = true) :
    (reduceAt s a w va p size op v).1.memOk = true := by
  unfold reduceAt
  split
  · dsimp only
    rw [memOk_of_mem (holdPartial_mem _ _ _ _ _ _)]
    exact stores_memOk _ _ _ _ (l2WriteAll_memOk { s with fresh := s.fresh + 1 } _ h)
  · exact storeAt_memOk _ _ _ _ _ _ (mergePartials_memOk _ p size h)

theorem writeAs_memOk (s : State) (a : Agent) (p : Nat) (bs : List Byte) (h : s.memOk = true) : (writeAs s a p bs).memOk = true :=
  settle_memOk _ (putBytes_memOk _ _ _ (stores_memOk _ _ _ _ (l2Commit_memOk _ _ _ (mergePartials_memOk s p bs.length h))))

theorem writeDirect_memOk (s : State) (p : Nat) (bs : List Byte) (h : s.memOk = true) : (writeDirect s p bs).memOk = true :=
  writeAs_memOk s .manager p bs h

theorem readAt_memOk (s : State) (w : Who) (p n : Nat) (h : s.memOk = true) : (readAt s w p n).1.memOk = true := by
  unfold readAt
  dsimp only
  rw [memOk_of_mem (addDeps_mem _ _ _)]
  exact mergePartials_memOk s p n h

theorem readDirect_memOk (s : State) (p n : Nat) (h : s.memOk = true) : (readDirect s p n).memOk = true := by
  unfold readDirect
  rw [memOk_of_mem (loads_mem _ _ _ _)]
  exact mergePartials_memOk s p n h

/-! ## Leases -/

@[simp] theorem leaseLine_mem (s : State) (n : Nat) (w : Who) (l : Nat) : (leaseLine s n w l).mem = s.mem := by
  unfold leaseLine; split <;> rfl

theorem coreRead_memOk (s : State) (n : Nat) (w : Who) (p len : Nat) (h : s.memOk = true) : (coreRead s n w p len).1.memOk = true := by
  have h1 : (loads (readAt s w p len).1 (.core n) p len).memOk = true := by
    rw [memOk_of_mem (loads_mem _ _ _ _)]; exact readAt_memOk s w p len h
  have h2 : ((linesOf p len).foldl (fun st l => leaseLine st n w l) (loads (readAt s w p len).1 (.core n) p len)).memOk = true := by
    rw [memOk_of_mem (foldl_mem _ (fun st l => leaseLine_mem st n w l) _ _)]; exact h1
  unfold coreRead
  dsimp only
  split
  · exact h1
  · split
    · exact h2
    · split
      · rw [memOk_of_mem (setClock_mem _ _ _)]; exact h
      · exact h2

end Sys2Proof.Machine
end

