-- ==== Sys2Proof/Laws/PerInstr.lean ====
section
/-!
SUPPORT. Statements made per instruction: every instruction's word fits a slot of 32 bits (R63).
-/
set_option Elab.async false

namespace Sys2Proof.Laws.Fits

/-- The word of an instruction is below 2 ^ 32; an event's is 0. -/
def Statement (i : Instr) : Prop := encode i < 2 ^ 32

theorem next (a : BitVec 4) (b : BitVec 3) : Statement (.next a b) := by
  have h : 0x00000000 + a.toNat * 268435456 + b.toNat * 33554432 < 4294967296 := by have := a.isLt; have := b.isLt; omega
  exact h
theorem br (a : BitVec 4) (b : BitVec 3) (c : BitVec 3) (d : BitVec 5) (e : BitVec 13) : Statement (.br a b c d e) := by
  have h : 0x00200000 + a.toNat * 268435456 + b.toNat * 33554432 + c.toNat * 262144 + d.toNat * 8192 + e.toNat < 4294967296 := by have := a.isLt; have := b.isLt; have := c.isLt; have := d.isLt; have := e.isLt; omega
  exact h
theorem brp (a : BitVec 4) (b : BitVec 3) (c : BitVec 1) (d : BitVec 3) (e : BitVec 2) (f : BitVec 15) : Statement (.brp a b c d e f) := by
  have h : 0x00400000 + a.toNat * 268435456 + b.toNat * 33554432 + c.toNat * 1048576 + d.toNat * 131072 + e.toNat * 32768 + f.toNat < 4294967296 := by have := a.isLt; have := b.isLt; have := c.isLt; have := d.isLt; have := e.isLt; have := f.isLt; omega
  exact h
theorem jmp (a : BitVec 4) (b : BitVec 3) (c : BitVec 21) : Statement (.jmp a b c) := by
  have h : 0x00600000 + a.toNat * 268435456 + b.toNat * 33554432 + c.toNat < 4294967296 := by have := a.isLt; have := b.isLt; have := c.isLt; omega
  exact h
theorem call (a : BitVec 4) (b : BitVec 3) (c : BitVec 21) : Statement (.call a b c) := by
  have h : 0x00800000 + a.toNat * 268435456 + b.toNat * 33554432 + c.toNat < 4294967296 := by have := a.isLt; have := b.isLt; have := c.isLt; omega
  exact h
theorem jmpx (a : BitVec 4) (b : BitVec 3) (c : BitVec 5) : Statement (.jmpx a b c) := by
  have h : 0x00A00000 + a.toNat * 268435456 + b.toNat * 33554432 + c.toNat * 65536 < 4294967296 := by have := a.isLt; have := b.isLt; have := c.isLt; omega
  exact h
theorem loop (a : BitVec 4) (b : BitVec 3) (c : BitVec 5) (d : BitVec 12) : Statement (.loop a b c d) := by
  have h : 0x00C00000 + a.toNat * 268435456 + b.toNat * 33554432 + c.toNat * 65536 + d.toNat * 16 < 4294967296 := by have := a.isLt; have := b.isLt; have := c.isLt; have := d.isLt; omega
  exact h
theorem loopi (a : BitVec 4) (b : BitVec 3) (c : BitVec 12) (d : BitVec 9) : Statement (.loopi a b c d) := by
  have h : 0x00E00000 + a.toNat * 268435456 + b.toNat * 33554432 + c.toNat * 512 + d.toNat < 4294967296 := by have := a.isLt; have := b.isLt; have := c.isLt; have := d.isLt; omega
  exact h
theorem waitc (a : BitVec 4) (b : BitVec 3) (c : BitVec 21) : Statement (.waitc a b c) := by
  have h : 0x01000000 + a.toNat * 268435456 + b.toNat * 33554432 + c.toNat < 4294967296 := by have := a.isLt; have := b.isLt; have := c.isLt; omega
  exact h
theorem trap (a : BitVec 4) (b : BitVec 3) (c : BitVec 16) : Statement (.trap a b c) := by
  have h : 0x01200000 + a.toNat * 268435456 + b.toNat * 33554432 + c.toNat < 4294967296 := by have := a.isLt; have := b.isLt; have := c.isLt; omega
  exact h
theorem eret (a : BitVec 4) (b : BitVec 3) : Statement (.eret a b) := by
  have h : 0x01400000 + a.toNat * 268435456 + b.toNat * 33554432 < 4294967296 := by have := a.isLt; have := b.isLt; omega
  exact h
theorem done (a : BitVec 4) (b : BitVec 3) : Statement (.done a b) := by
  have h : 0x01600000 + a.toNat * 268435456 + b.toNat * 33554432 < 4294967296 := by have := a.isLt; have := b.isLt; omega
  exact h
theorem halt (a : BitVec 4) (b : BitVec 3) : Statement (.halt a b) := by
  have h : 0x01800000 + a.toNat * 268435456 + b.toNat * 33554432 < 4294967296 := by have := a.isLt; have := b.isLt; omega
  exact h
theorem brk (a : BitVec 4) (b : BitVec 3) (c : BitVec 16) : Statement (.brk a b c) := by
  have h : 0x01A00000 + a.toNat * 268435456 + b.toNat * 33554432 + c.toNat < 4294967296 := by have := a.isLt; have := b.isLt; have := c.isLt; omega
  exact h
theorem iwait (a : BitVec 4) (b : BitVec 3) (c : BitVec 12) : Statement (.iwait a b c) := by
  have h : 0x01C00000 + a.toNat * 268435456 + b.toNat * 33554432 + c.toNat < 4294967296 := by have := a.isLt; have := b.isLt; have := c.isLt; omega
  exact h
theorem scalarNop : Statement (.scalarNop) := Nat.two_pow_pos 32
theorem lui (a : BitVec 20) (b : BitVec 5) : Statement (.lui a b) := by
  have h : 0x00000037 + a.toNat * 4096 + b.toNat * 128 < 4294967296 := by have := a.isLt; have := b.isLt; omega
  exact h
theorem addi (a : BitVec 12) (b : BitVec 5) (c : BitVec 5) : Statement (.addi a b c) := by
  have h : 0x00000013 + a.toNat * 1048576 + b.toNat * 32768 + c.toNat * 128 < 4294967296 := by have := a.isLt; have := b.isLt; have := c.isLt; omega
  exact h
theorem slti (a : BitVec 12) (b : BitVec 5) (c : BitVec 5) : Statement (.slti a b c) := by
  have h : 0x00002013 + a.toNat * 1048576 + b.toNat * 32768 + c.toNat * 128 < 4294967296 := by have := a.isLt; have := b.isLt; have := c.isLt; omega
  exact h
theorem sltiu (a : BitVec 12) (b : BitVec 5) (c : BitVec 5) : Statement (.sltiu a b c) := by
  have h : 0x00003013 + a.toNat * 1048576 + b.toNat * 32768 + c.toNat * 128 < 4294967296 := by have := a.isLt; have := b.isLt; have := c.isLt; omega
  exact h
theorem xori (a : BitVec 12) (b : BitVec 5) (c : BitVec 5) : Statement (.xori a b c) := by
  have h : 0x00004013 + a.toNat * 1048576 + b.toNat * 32768 + c.toNat * 128 < 4294967296 := by have := a.isLt; have := b.isLt; have := c.isLt; omega
  exact h
theorem ori (a : BitVec 12) (b : BitVec 5) (c : BitVec 5) : Statement (.ori a b c) := by
  have h : 0x00006013 + a.toNat * 1048576 + b.toNat * 32768 + c.toNat * 128 < 4294967296 := by have := a.isLt; have := b.isLt; have := c.isLt; omega
  exact h
theorem andi (a : BitVec 12) (b : BitVec 5) (c : BitVec 5) : Statement (.andi a b c) := by
  have h : 0x00007013 + a.toNat * 1048576 + b.toNat * 32768 + c.toNat * 128 < 4294967296 := by have := a.isLt; have := b.isLt; have := c.isLt; omega
  exact h
theorem slli (a : BitVec 6) (b : BitVec 5) (c : BitVec 5) : Statement (.slli a b c) := by
  have h : 0x00001013 + a.toNat * 1048576 + b.toNat * 32768 + c.toNat * 128 < 4294967296 := by have := a.isLt; have := b.isLt; have := c.isLt; omega
  exact h
theorem srli (a : BitVec 6) (b : BitVec 5) (c : BitVec 5) : Statement (.srli a b c) := by
  have h : 0x00005013 + a.toNat * 1048576 + b.toNat * 32768 + c.toNat * 128 < 4294967296 := by have := a.isLt; have := b.isLt; have := c.isLt; omega
  exact h
theorem srai (a : BitVec 6) (b : BitVec 5) (c : BitVec 5) : Statement (.srai a b c) := by
  have h : 0x40005013 + a.toNat * 1048576 + b.toNat * 32768 + c.toNat * 128 < 4294967296 := by have := a.isLt; have := b.isLt; have := c.isLt; omega
  exact h
theorem addiw (a : BitVec 12) (b : BitVec 5) (c : BitVec 5) : Statement (.addiw a b c) := by
  have h : 0x0000001B + a.toNat * 1048576 + b.toNat * 32768 + c.toNat * 128 < 4294967296 := by have := a.isLt; have := b.isLt; have := c.isLt; omega
  exact h
theorem slliw (a : BitVec 5) (b : BitVec 5) (c : BitVec 5) : Statement (.slliw a b c) := by
  have h : 0x0000101B + a.toNat * 1048576 + b.toNat * 32768 + c.toNat * 128 < 4294967296 := by have := a.isLt; have := b.isLt; have := c.isLt; omega
  exact h
theorem srliw (a : BitVec 5) (b : BitVec 5) (c : BitVec 5) : Statement (.srliw a b c) := by
  have h : 0x0000501B + a.toNat * 1048576 + b.toNat * 32768 + c.toNat * 128 < 4294967296 := by have := a.isLt; have := b.isLt; have := c.isLt; omega
  exact h
theorem sraiw (a : BitVec 5) (b : BitVec 5) (c : BitVec 5) : Statement (.sraiw a b c) := by
  have h : 0x4000501B + a.toNat * 1048576 + b.toNat * 32768 + c.toNat * 128 < 4294967296 := by have := a.isLt; have := b.isLt; have := c.isLt; omega
  exact h
theorem add (a : BitVec 5) (b : BitVec 5) (c : BitVec 5) : Statement (.add a b c) := by
  have h : 0x00000033 + a.toNat * 1048576 + b.toNat * 32768 + c.toNat * 128 < 4294967296 := by have := a.isLt; have := b.isLt; have := c.isLt; omega
  exact h
theorem sub (a : BitVec 5) (b : BitVec 5) (c : BitVec 5) : Statement (.sub a b c) := by
  have h : 0x40000033 + a.toNat * 1048576 + b.toNat * 32768 + c.toNat * 128 < 4294967296 := by have := a.isLt; have := b.isLt; have := c.isLt; omega
  exact h
theorem sll (a : BitVec 5) (b : BitVec 5) (c : BitVec 5) : Statement (.sll a b c) := by
  have h : 0x00001033 + a.toNat * 1048576 + b.toNat * 32768 + c.toNat * 128 < 4294967296 := by have := a.isLt; have := b.isLt; have := c.isLt; omega
  exact h
theorem slt (a : BitVec 5) (b : BitVec 5) (c : BitVec 5) : Statement (.slt a b c) := by
  have h : 0x00002033 + a.toNat * 1048576 + b.toNat * 32768 + c.toNat * 128 < 4294967296 := by have := a.isLt; have := b.isLt; have := c.isLt; omega
  exact h
theorem sltu (a : BitVec 5) (b : BitVec 5) (c : BitVec 5) : Statement (.sltu a b c) := by
  have h : 0x00003033 + a.toNat * 1048576 + b.toNat * 32768 + c.toNat * 128 < 4294967296 := by have := a.isLt; have := b.isLt; have := c.isLt; omega
  exact h
theorem xor (a : BitVec 5) (b : BitVec 5) (c : BitVec 5) : Statement (.xor a b c) := by
  have h : 0x00004033 + a.toNat * 1048576 + b.toNat * 32768 + c.toNat * 128 < 4294967296 := by have := a.isLt; have := b.isLt; have := c.isLt; omega
  exact h
theorem srl (a : BitVec 5) (b : BitVec 5) (c : BitVec 5) : Statement (.srl a b c) := by
  have h : 0x00005033 + a.toNat * 1048576 + b.toNat * 32768 + c.toNat * 128 < 4294967296 := by have := a.isLt; have := b.isLt; have := c.isLt; omega
  exact h
theorem sra (a : BitVec 5) (b : BitVec 5) (c : BitVec 5) : Statement (.sra a b c) := by
  have h : 0x40005033 + a.toNat * 1048576 + b.toNat * 32768 + c.toNat * 128 < 4294967296 := by have := a.isLt; have := b.isLt; have := c.isLt; omega
  exact h
theorem or (a : BitVec 5) (b : BitVec 5) (c : BitVec 5) : Statement (.or a b c) := by
  have h : 0x00006033 + a.toNat * 1048576 + b.toNat * 32768 + c.toNat * 128 < 4294967296 := by have := a.isLt; have := b.isLt; have := c.isLt; omega
  exact h
theorem and (a : BitVec 5) (b : BitVec 5) (c : BitVec 5) : Statement (.and a b c) := by
  have h : 0x00007033 + a.toNat * 1048576 + b.toNat * 32768 + c.toNat * 128 < 4294967296 := by have := a.isLt; have := b.isLt; have := c.isLt; omega
  exact h
theorem mul (a : BitVec 5) (b : BitVec 5) (c : BitVec 5) : Statement (.mul a b c) := by
  have h : 0x02000033 + a.toNat * 1048576 + b.toNat * 32768 + c.toNat * 128 < 4294967296 := by have := a.isLt; have := b.isLt; have := c.isLt; omega
  exact h
theorem mulh (a : BitVec 5) (b : BitVec 5) (c : BitVec 5) : Statement (.mulh a b c) := by
  have h : 0x02001033 + a.toNat * 1048576 + b.toNat * 32768 + c.toNat * 128 < 4294967296 := by have := a.isLt; have := b.isLt; have := c.isLt; omega
  exact h
theorem mulhsu (a : BitVec 5) (b : BitVec 5) (c : BitVec 5) : Statement (.mulhsu a b c) := by
  have h : 0x02002033 + a.toNat * 1048576 + b.toNat * 32768 + c.toNat * 128 < 4294967296 := by have := a.isLt; have := b.isLt; have := c.isLt; omega
  exact h
theorem mulhu (a : BitVec 5) (b : BitVec 5) (c : BitVec 5) : Statement (.mulhu a b c) := by
  have h : 0x02003033 + a.toNat * 1048576 + b.toNat * 32768 + c.toNat * 128 < 4294967296 := by have := a.isLt; have := b.isLt; have := c.isLt; omega
  exact h
theorem div (a : BitVec 5) (b : BitVec 5) (c : BitVec 5) : Statement (.div a b c) := by
  have h : 0x02004033 + a.toNat * 1048576 + b.toNat * 32768 + c.toNat * 128 < 4294967296 := by have := a.isLt; have := b.isLt; have := c.isLt; omega
  exact h
theorem divu (a : BitVec 5) (b : BitVec 5) (c : BitVec 5) : Statement (.divu a b c) := by
  have h : 0x02005033 + a.toNat * 1048576 + b.toNat * 32768 + c.toNat * 128 < 4294967296 := by have := a.isLt; have := b.isLt; have := c.isLt; omega
  exact h
theorem rem (a : BitVec 5) (b : BitVec 5) (c : BitVec 5) : Statement (.rem a b c) := by
  have h : 0x02006033 + a.toNat * 1048576 + b.toNat * 32768 + c.toNat * 128 < 4294967296 := by have := a.isLt; have := b.isLt; have := c.isLt; omega
  exact h
theorem remu (a : BitVec 5) (b : BitVec 5) (c : BitVec 5) : Statement (.remu a b c) := by
  have h : 0x02007033 + a.toNat * 1048576 + b.toNat * 32768 + c.toNat * 128 < 4294967296 := by have := a.isLt; have := b.isLt; have := c.isLt; omega
  exact h
theorem addw (a : BitVec 5) (b : BitVec 5) (c : BitVec 5) : Statement (.addw a b c) := by
  have h : 0x0000003B + a.toNat * 1048576 + b.toNat * 32768 + c.toNat * 128 < 4294967296 := by have := a.isLt; have := b.isLt; have := c.isLt; omega
  exact h
theorem subw (a : BitVec 5) (b : BitVec 5) (c : BitVec 5) : Statement (.subw a b c) := by
  have h : 0x4000003B + a.toNat * 1048576 + b.toNat * 32768 + c.toNat * 128 < 4294967296 := by have := a.isLt; have := b.isLt; have := c.isLt; omega
  exact h
theorem sllw (a : BitVec 5) (b : BitVec 5) (c : BitVec 5) : Statement (.sllw a b c) := by
  have h : 0x0000103B + a.toNat * 1048576 + b.toNat * 32768 + c.toNat * 128 < 4294967296 := by have := a.isLt; have := b.isLt; have := c.isLt; omega
  exact h
theorem srlw (a : BitVec 5) (b : BitVec 5) (c : BitVec 5) : Statement (.srlw a b c) := by
  have h : 0x0000503B + a.toNat * 1048576 + b.toNat * 32768 + c.toNat * 128 < 4294967296 := by have := a.isLt; have := b.isLt; have := c.isLt; omega
  exact h
theorem sraw (a : BitVec 5) (b : BitVec 5) (c : BitVec 5) : Statement (.sraw a b c) := by
  have h : 0x4000503B + a.toNat * 1048576 + b.toNat * 32768 + c.toNat * 128 < 4294967296 := by have := a.isLt; have := b.isLt; have := c.isLt; omega
  exact h
theorem mulw (a : BitVec 5) (b : BitVec 5) (c : BitVec 5) : Statement (.mulw a b c) := by
  have h : 0x0200003B + a.toNat * 1048576 + b.toNat * 32768 + c.toNat * 128 < 4294967296 := by have := a.isLt; have := b.isLt; have := c.isLt; omega
  exact h
theorem divw (a : BitVec 5) (b : BitVec 5) (c : BitVec 5) : Statement (.divw a b c) := by
  have h : 0x0200403B + a.toNat * 1048576 + b.toNat * 32768 + c.toNat * 128 < 4294967296 := by have := a.isLt; have := b.isLt; have := c.isLt; omega
  exact h
theorem divuw (a : BitVec 5) (b : BitVec 5) (c : BitVec 5) : Statement (.divuw a b c) := by
  have h : 0x0200503B + a.toNat * 1048576 + b.toNat * 32768 + c.toNat * 128 < 4294967296 := by have := a.isLt; have := b.isLt; have := c.isLt; omega
  exact h
theorem remw (a : BitVec 5) (b : BitVec 5) (c : BitVec 5) : Statement (.remw a b c) := by
  have h : 0x0200603B + a.toNat * 1048576 + b.toNat * 32768 + c.toNat * 128 < 4294967296 := by have := a.isLt; have := b.isLt; have := c.isLt; omega
  exact h
theorem remuw (a : BitVec 5) (b : BitVec 5) (c : BitVec 5) : Statement (.remuw a b c) := by
  have h : 0x0200703B + a.toNat * 1048576 + b.toNat * 32768 + c.toNat * 128 < 4294967296 := by have := a.isLt; have := b.isLt; have := c.isLt; omega
  exact h
theorem lb (a : BitVec 12) (b : BitVec 5) (c : BitVec 5) : Statement (.lb a b c) := by
  have h : 0x00000003 + a.toNat * 1048576 + b.toNat * 32768 + c.toNat * 128 < 4294967296 := by have := a.isLt; have := b.isLt; have := c.isLt; omega
  exact h
theorem lh (a : BitVec 12) (b : BitVec 5) (c : BitVec 5) : Statement (.lh a b c) := by
  have h : 0x00001003 + a.toNat * 1048576 + b.toNat * 32768 + c.toNat * 128 < 4294967296 := by have := a.isLt; have := b.isLt; have := c.isLt; omega
  exact h
theorem lw (a : BitVec 12) (b : BitVec 5) (c : BitVec 5) : Statement (.lw a b c) := by
  have h : 0x00002003 + a.toNat * 1048576 + b.toNat * 32768 + c.toNat * 128 < 4294967296 := by have := a.isLt; have := b.isLt; have := c.isLt; omega
  exact h
theorem ld (a : BitVec 12) (b : BitVec 5) (c : BitVec 5) : Statement (.ld a b c) := by
  have h : 0x00003003 + a.toNat * 1048576 + b.toNat * 32768 + c.toNat * 128 < 4294967296 := by have := a.isLt; have := b.isLt; have := c.isLt; omega
  exact h
theorem lbu (a : BitVec 12) (b : BitVec 5) (c : BitVec 5) : Statement (.lbu a b c) := by
  have h : 0x00004003 + a.toNat * 1048576 + b.toNat * 32768 + c.toNat * 128 < 4294967296 := by have := a.isLt; have := b.isLt; have := c.isLt; omega
  exact h
theorem lhu (a : BitVec 12) (b : BitVec 5) (c : BitVec 5) : Statement (.lhu a b c) := by
  have h : 0x00005003 + a.toNat * 1048576 + b.toNat * 32768 + c.toNat * 128 < 4294967296 := by have := a.isLt; have := b.isLt; have := c.isLt; omega
  exact h
theorem lwu (a : BitVec 12) (b : BitVec 5) (c : BitVec 5) : Statement (.lwu a b c) := by
  have h : 0x00006003 + a.toNat * 1048576 + b.toNat * 32768 + c.toNat * 128 < 4294967296 := by have := a.isLt; have := b.isLt; have := c.isLt; omega
  exact h
theorem sb (a : BitVec 7) (b : BitVec 5) (c : BitVec 5) (d : BitVec 5) : Statement (.sb a b c d) := by
  have h : 0x00000023 + a.toNat * 33554432 + b.toNat * 1048576 + c.toNat * 32768 + d.toNat * 128 < 4294967296 := by have := a.isLt; have := b.isLt; have := c.isLt; have := d.isLt; omega
  exact h
theorem sh (a : BitVec 7) (b : BitVec 5) (c : BitVec 5) (d : BitVec 5) : Statement (.sh a b c d) := by
  have h : 0x00001023 + a.toNat * 33554432 + b.toNat * 1048576 + c.toNat * 32768 + d.toNat * 128 < 4294967296 := by have := a.isLt; have := b.isLt; have := c.isLt; have := d.isLt; omega
  exact h
theorem sw (a : BitVec 7) (b : BitVec 5) (c : BitVec 5) (d : BitVec 5) : Statement (.sw a b c d) := by
  have h : 0x00002023 + a.toNat * 33554432 + b.toNat * 1048576 + c.toNat * 32768 + d.toNat * 128 < 4294967296 := by have := a.isLt; have := b.isLt; have := c.isLt; have := d.isLt; omega
  exact h
theorem sd (a : BitVec 7) (b : BitVec 5) (c : BitVec 5) (d : BitVec 5) : Statement (.sd a b c d) := by
  have h : 0x00003023 + a.toNat * 33554432 + b.toNat * 1048576 + c.toNat * 32768 + d.toNat * 128 < 4294967296 := by have := a.isLt; have := b.isLt; have := c.isLt; have := d.isLt; omega
  exact h
theorem shw (a : BitVec 2) (b : BitVec 2) (c : BitVec 2) (d : BitVec 5) : Statement (.shw a b c d) := by
  have h : 0x0000000B + a.toNat * 1073741824 + b.toNat * 268435456 + c.toNat * 67108864 + d.toNat * 32768 < 4294967296 := by have := a.isLt; have := b.isLt; have := c.isLt; have := d.isLt; omega
  exact h
theorem shr (a : BitVec 2) (b : BitVec 2) (c : BitVec 2) (d : BitVec 5) : Statement (.shr a b c d) := by
  have h : 0x0000100B + a.toNat * 1073741824 + b.toNat * 268435456 + c.toNat * 67108864 + d.toNat * 128 < 4294967296 := by have := a.isLt; have := b.isLt; have := c.isLt; have := d.isLt; omega
  exact h
theorem brld (a : BitVec 6) (b : BitVec 5) : Statement (.brld a b) := by
  have h : 0x0000200B + a.toNat * 33554432 + b.toNat * 32768 < 4294967296 := by have := a.isLt; have := b.isLt; omega
  exact h
theorem brst (a : BitVec 6) (b : BitVec 5) : Statement (.brst a b) := by
  have h : 0x0000300B + a.toNat * 33554432 + b.toNat * 32768 < 4294967296 := by have := a.isLt; have := b.isLt; omega
  exact h
theorem getd (a : BitVec 7) (b : BitVec 5) (c : BitVec 5) : Statement (.getd a b c) := by
  have h : 0x0000400B + a.toNat * 33554432 + b.toNat * 1048576 + c.toNat * 128 < 4294967296 := by have := a.isLt; have := b.isLt; have := c.isLt; omega
  exact h
theorem setd (a : BitVec 7) (b : BitVec 5) (c : BitVec 5) : Statement (.setd a b c) := by
  have h : 0x0000500B + a.toNat * 33554432 + b.toNat * 1048576 + c.toNat * 32768 < 4294967296 := by have := a.isLt; have := b.isLt; have := c.isLt; omega
  exact h
theorem clz (a : BitVec 5) (b : BitVec 5) : Statement (.clz a b) := by
  have h : 0x0000600B + a.toNat * 32768 + b.toNat * 128 < 4294967296 := by have := a.isLt; have := b.isLt; omega
  exact h
theorem ctz (a : BitVec 5) (b : BitVec 5) : Statement (.ctz a b) := by
  have h : 0x0200600B + a.toNat * 32768 + b.toNat * 128 < 4294967296 := by have := a.isLt; have := b.isLt; omega
  exact h
theorem popc (a : BitVec 5) (b : BitVec 5) : Statement (.popc a b) := by
  have h : 0x0400600B + a.toNat * 32768 + b.toNat * 128 < 4294967296 := by have := a.isLt; have := b.isLt; omega
  exact h
theorem spillx (a : BitVec 5) (b : BitVec 3) (c : BitVec 5) : Statement (.spillx a b c) := by
  have h : 0x0000700B + a.toNat * 33554432 + b.toNat * 1048576 + c.toNat * 32768 < 4294967296 := by have := a.isLt; have := b.isLt; have := c.isLt; omega
  exact h
theorem fillx (a : BitVec 5) (b : BitVec 3) (c : BitVec 5) : Statement (.fillx a b c) := by
  have h : 0x8000700B + a.toNat * 33554432 + b.toNat * 1048576 + c.toNat * 128 < 4294967296 := by have := a.isLt; have := b.isLt; have := c.isLt; omega
  exact h
theorem ldfW (a : BitVec 5) (b : BitVec 5) : Statement (.ldfW a b) := by
  have h : 0x0000002B + a.toNat * 32768 + b.toNat * 128 < 4294967296 := by have := a.isLt; have := b.isLt; omega
  exact h
theorem ldfD (a : BitVec 5) (b : BitVec 5) : Statement (.ldfD a b) := by
  have h : 0x0200002B + a.toNat * 32768 + b.toNat * 128 < 4294967296 := by have := a.isLt; have := b.isLt; omega
  exact h
theorem ldfeW (a : BitVec 5) (b : BitVec 5) : Statement (.ldfeW a b) := by
  have h : 0x0400002B + a.toNat * 32768 + b.toNat * 128 < 4294967296 := by have := a.isLt; have := b.isLt; omega
  exact h
theorem ldfeD (a : BitVec 5) (b : BitVec 5) : Statement (.ldfeD a b) := by
  have h : 0x0600002B + a.toNat * 32768 + b.toNat * 128 < 4294967296 := by have := a.isLt; have := b.isLt; omega
  exact h
theorem ldt (a : BitVec 5) (b : BitVec 5) : Statement (.ldt a b) := by
  have h : 0x0800002B + a.toNat * 32768 + b.toNat * 128 < 4294967296 := by have := a.isLt; have := b.isLt; omega
  exact h
theorem steW (a : BitVec 5) (b : BitVec 5) : Statement (.steW a b) := by
  have h : 0x0000102B + a.toNat * 1048576 + b.toNat * 32768 < 4294967296 := by have := a.isLt; have := b.isLt; omega
  exact h
theorem steD (a : BitVec 5) (b : BitVec 5) : Statement (.steD a b) := by
  have h : 0x0200102B + a.toNat * 1048576 + b.toNat * 32768 < 4294967296 := by have := a.isLt; have := b.isLt; omega
  exact h
theorem stfW (a : BitVec 5) (b : BitVec 5) : Statement (.stfW a b) := by
  have h : 0x0400102B + a.toNat * 1048576 + b.toNat * 32768 < 4294967296 := by have := a.isLt; have := b.isLt; omega
  exact h
theorem stfD (a : BitVec 5) (b : BitVec 5) : Statement (.stfD a b) := by
  have h : 0x0600102B + a.toNat * 1048576 + b.toNat * 32768 < 4294967296 := by have := a.isLt; have := b.isLt; omega
  exact h
theorem sete (a : BitVec 5) : Statement (.sete a) := by
  have h : 0x0800102B + a.toNat * 32768 < 4294967296 := by have := a.isLt; omega
  exact h
theorem setf (a : BitVec 5) : Statement (.setf a) := by
  have h : 0x0A00102B + a.toNat * 32768 < 4294967296 := by have := a.isLt; omega
  exact h
theorem bari (a : BitVec 5) (b : BitVec 5) : Statement (.bari a b) := by
  have h : 0x0000202B + a.toNat * 1048576 + b.toNat * 32768 < 4294967296 := by have := a.isLt; have := b.isLt; omega
  exact h
theorem bara (a : BitVec 5) (b : BitVec 5) : Statement (.bara a b) := by
  have h : 0x0200202B + a.toNat * 1048576 + b.toNat * 32768 < 4294967296 := by have := a.isLt; have := b.isLt; omega
  exact h
theorem barw (a : BitVec 5) (b : BitVec 5) (c : BitVec 5) : Statement (.barw a b c) := by
  have h : 0x0400202B + a.toNat * 1048576 + b.toNat * 32768 + c.toNat * 128 < 4294967296 := by have := a.isLt; have := b.isLt; have := c.isLt; omega
  exact h
theorem baraw (a : BitVec 5) (b : BitVec 5) (c : BitVec 5) : Statement (.baraw a b c) := by
  have h : 0x0600202B + a.toNat * 1048576 + b.toNat * 32768 + c.toNat * 128 < 4294967296 := by have := a.isLt; have := b.isLt; have := c.isLt; omega
  exact h
theorem barc (a : BitVec 5) (b : BitVec 5) : Statement (.barc a b) := by
  have h : 0x0800202B + a.toNat * 1048576 + b.toNat * 32768 < 4294967296 := by have := a.isLt; have := b.isLt; omega
  exact h
theorem bart (a : BitVec 5) (b : BitVec 5) : Statement (.bart a b) := by
  have h : 0x0A00202B + a.toNat * 32768 + b.toNat * 128 < 4294967296 := by have := a.isLt; have := b.isLt; omega
  exact h
theorem waitvEq (a : BitVec 5) (b : BitVec 5) (c : BitVec 5) : Statement (.waitvEq a b c) := by
  have h : 0x0000302B + a.toNat * 1048576 + b.toNat * 32768 + c.toNat * 128 < 4294967296 := by have := a.isLt; have := b.isLt; have := c.isLt; omega
  exact h
theorem waitvNe (a : BitVec 5) (b : BitVec 5) (c : BitVec 5) : Statement (.waitvNe a b c) := by
  have h : 0x0200302B + a.toNat * 1048576 + b.toNat * 32768 + c.toNat * 128 < 4294967296 := by have := a.isLt; have := b.isLt; have := c.isLt; omega
  exact h
theorem amoadd (a : BitVec 2) (b : BitVec 5) (c : BitVec 5) (d : BitVec 1) (e : BitVec 5) : Statement (.amoadd a b c d e) := by
  have h : 0x0000205B + a.toNat * 33554432 + b.toNat * 1048576 + c.toNat * 32768 + d.toNat * 4096 + e.toNat * 128 < 4294967296 := by have := a.isLt; have := b.isLt; have := c.isLt; have := d.isLt; have := e.isLt; omega
  exact h
theorem amoswap (a : BitVec 2) (b : BitVec 5) (c : BitVec 5) (d : BitVec 1) (e : BitVec 5) : Statement (.amoswap a b c d e) := by
  have h : 0x0800205B + a.toNat * 33554432 + b.toNat * 1048576 + c.toNat * 32768 + d.toNat * 4096 + e.toNat * 128 < 4294967296 := by have := a.isLt; have := b.isLt; have := c.isLt; have := d.isLt; have := e.isLt; omega
  exact h
theorem amocas (a : BitVec 2) (b : BitVec 5) (c : BitVec 5) (d : BitVec 1) (e : BitVec 5) : Statement (.amocas a b c d e) := by
  have h : 0x1000205B + a.toNat * 33554432 + b.toNat * 1048576 + c.toNat * 32768 + d.toNat * 4096 + e.toNat * 128 < 4294967296 := by have := a.isLt; have := b.isLt; have := c.isLt; have := d.isLt; have := e.isLt; omega
  exact h
theorem amoand (a : BitVec 2) (b : BitVec 5) (c : BitVec 5) (d : BitVec 1) (e : BitVec 5) : Statement (.amoand a b c d e) := by
  have h : 0x1800205B + a.toNat * 33554432 + b.toNat * 1048576 + c.toNat * 32768 + d.toNat * 4096 + e.toNat * 128 < 4294967296 := by have := a.isLt; have := b.isLt; have := c.isLt; have := d.isLt; have := e.isLt; omega
  exact h
theorem amoor (a : BitVec 2) (b : BitVec 5) (c : BitVec 5) (d : BitVec 1) (e : BitVec 5) : Statement (.amoor a b c d e) := by
  have h : 0x2000205B + a.toNat * 33554432 + b.toNat * 1048576 + c.toNat * 32768 + d.toNat * 4096 + e.toNat * 128 < 4294967296 := by have := a.isLt; have := b.isLt; have := c.isLt; have := d.isLt; have := e.isLt; omega
  exact h
theorem amoxor (a : BitVec 2) (b : BitVec 5) (c : BitVec 5) (d : BitVec 1) (e : BitVec 5) : Statement (.amoxor a b c d e) := by
  have h : 0x2800205B + a.toNat * 33554432 + b.toNat * 1048576 + c.toNat * 32768 + d.toNat * 4096 + e.toNat * 128 < 4294967296 := by have := a.isLt; have := b.isLt; have := c.isLt; have := d.isLt; have := e.isLt; omega
  exact h
theorem amomin (a : BitVec 2) (b : BitVec 5) (c : BitVec 5) (d : BitVec 1) (e : BitVec 5) : Statement (.amomin a b c d e) := by
  have h : 0x3000205B + a.toNat * 33554432 + b.toNat * 1048576 + c.toNat * 32768 + d.toNat * 4096 + e.toNat * 128 < 4294967296 := by have := a.isLt; have := b.isLt; have := c.isLt; have := d.isLt; have := e.isLt; omega
  exact h
theorem amomax (a : BitVec 2) (b : BitVec 5) (c : BitVec 5) (d : BitVec 1) (e : BitVec 5) : Statement (.amomax a b c d e) := by
  have h : 0x3800205B + a.toNat * 33554432 + b.toNat * 1048576 + c.toNat * 32768 + d.toNat * 4096 + e.toNat * 128 < 4294967296 := by have := a.isLt; have := b.isLt; have := c.isLt; have := d.isLt; have := e.isLt; omega
  exact h
theorem amominu (a : BitVec 2) (b : BitVec 5) (c : BitVec 5) (d : BitVec 1) (e : BitVec 5) : Statement (.amominu a b c d e) := by
  have h : 0x4000205B + a.toNat * 33554432 + b.toNat * 1048576 + c.toNat * 32768 + d.toNat * 4096 + e.toNat * 128 < 4294967296 := by have := a.isLt; have := b.isLt; have := c.isLt; have := d.isLt; have := e.isLt; omega
  exact h
theorem amomaxu (a : BitVec 2) (b : BitVec 5) (c : BitVec 5) (d : BitVec 1) (e : BitVec 5) : Statement (.amomaxu a b c d e) := by
  have h : 0x4800205B + a.toNat * 33554432 + b.toNat * 1048576 + c.toNat * 32768 + d.toNat * 4096 + e.toNat * 128 < 4294967296 := by have := a.isLt; have := b.isLt; have := c.isLt; have := d.isLt; have := e.isLt; omega
  exact h
theorem amofadd (a : BitVec 2) (b : BitVec 5) (c : BitVec 5) (d : BitVec 5) : Statement (.amofadd a b c d) := by
  have h : 0x5000205B + a.toNat * 33554432 + b.toNat * 1048576 + c.toNat * 32768 + d.toNat * 128 < 4294967296 := by have := a.isLt; have := b.isLt; have := c.isLt; have := d.isLt; omega
  exact h
theorem redadd (a : BitVec 2) (b : BitVec 5) (c : BitVec 5) (d : BitVec 1) : Statement (.redadd a b c d) := by
  have h : 0x8000205B + a.toNat * 33554432 + b.toNat * 1048576 + c.toNat * 32768 + d.toNat * 4096 < 4294967296 := by have := a.isLt; have := b.isLt; have := c.isLt; have := d.isLt; omega
  exact h
theorem redand (a : BitVec 2) (b : BitVec 5) (c : BitVec 5) (d : BitVec 1) : Statement (.redand a b c d) := by
  have h : 0x8800205B + a.toNat * 33554432 + b.toNat * 1048576 + c.toNat * 32768 + d.toNat * 4096 < 4294967296 := by have := a.isLt; have := b.isLt; have := c.isLt; have := d.isLt; omega
  exact h
theorem redor (a : BitVec 2) (b : BitVec 5) (c : BitVec 5) (d : BitVec 1) : Statement (.redor a b c d) := by
  have h : 0x9000205B + a.toNat * 33554432 + b.toNat * 1048576 + c.toNat * 32768 + d.toNat * 4096 < 4294967296 := by have := a.isLt; have := b.isLt; have := c.isLt; have := d.isLt; omega
  exact h
theorem redxor (a : BitVec 2) (b : BitVec 5) (c : BitVec 5) (d : BitVec 1) : Statement (.redxor a b c d) := by
  have h : 0x9800205B + a.toNat * 33554432 + b.toNat * 1048576 + c.toNat * 32768 + d.toNat * 4096 < 4294967296 := by have := a.isLt; have := b.isLt; have := c.isLt; have := d.isLt; omega
  exact h
theorem redmin (a : BitVec 2) (b : BitVec 5) (c : BitVec 5) (d : BitVec 1) : Statement (.redmin a b c d) := by
  have h : 0xA000205B + a.toNat * 33554432 + b.toNat * 1048576 + c.toNat * 32768 + d.toNat * 4096 < 4294967296 := by have := a.isLt; have := b.isLt; have := c.isLt; have := d.isLt; omega
  exact h
theorem redmax (a : BitVec 2) (b : BitVec 5) (c : BitVec 5) (d : BitVec 1) : Statement (.redmax a b c d) := by
  have h : 0xA800205B + a.toNat * 33554432 + b.toNat * 1048576 + c.toNat * 32768 + d.toNat * 4096 < 4294967296 := by have := a.isLt; have := b.isLt; have := c.isLt; have := d.isLt; omega
  exact h
theorem redminu (a : BitVec 2) (b : BitVec 5) (c : BitVec 5) (d : BitVec 1) : Statement (.redminu a b c d) := by
  have h : 0xB000205B + a.toNat * 33554432 + b.toNat * 1048576 + c.toNat * 32768 + d.toNat * 4096 < 4294967296 := by have := a.isLt; have := b.isLt; have := c.isLt; have := d.isLt; omega
  exact h
theorem redmaxu (a : BitVec 2) (b : BitVec 5) (c : BitVec 5) (d : BitVec 1) : Statement (.redmaxu a b c d) := by
  have h : 0xB800205B + a.toNat * 33554432 + b.toNat * 1048576 + c.toNat * 32768 + d.toNat * 4096 < 4294967296 := by have := a.isLt; have := b.isLt; have := c.isLt; have := d.isLt; omega
  exact h
theorem redfadd (a : BitVec 2) (b : BitVec 5) (c : BitVec 5) : Statement (.redfadd a b c) := by
  have h : 0xC000205B + a.toNat * 33554432 + b.toNat * 1048576 + c.toNat * 32768 < 4294967296 := by have := a.isLt; have := b.isLt; have := c.isLt; omega
  exact h
theorem redofadd (a : BitVec 2) (b : BitVec 5) (c : BitVec 5) (d : BitVec 5) : Statement (.redofadd a b c d) := by
  have h : 0xC800205B + a.toNat * 33554432 + b.toNat * 1048576 + c.toNat * 32768 + d.toNat * 128 < 4294967296 := by have := a.isLt; have := b.isLt; have := c.isLt; have := d.isLt; omega
  exact h
theorem lda (a : BitVec 2) (b : BitVec 5) (c : BitVec 1) (d : BitVec 5) : Statement (.lda a b c d) := by
  have h : 0xE000205B + a.toNat * 33554432 + b.toNat * 32768 + c.toNat * 4096 + d.toNat * 128 < 4294967296 := by have := a.isLt; have := b.isLt; have := c.isLt; have := d.isLt; omega
  exact h
theorem stl (a : BitVec 2) (b : BitVec 5) (c : BitVec 5) (d : BitVec 1) : Statement (.stl a b c d) := by
  have h : 0xE800205B + a.toNat * 33554432 + b.toNat * 1048576 + c.toNat * 32768 + d.toNat * 4096 < 4294967296 := by have := a.isLt; have := b.isLt; have := c.isLt; have := d.isLt; omega
  exact h
theorem fence (a : BitVec 2) (b : BitVec 2) : Statement (.fence a b) := by
  have h : 0xF000005B + a.toNat * 33554432 + b.toNat * 1048576 < 4294967296 := by have := a.isLt; have := b.isLt; omega
  exact h
theorem tget (a : BitVec 1) (b : BitVec 1) (c : BitVec 5) : Statement (.tget a b c) := by
  have h : 0x0000007B + a.toNat * 67108864 + b.toNat * 33554432 + c.toNat * 128 < 4294967296 := by have := a.isLt; have := b.isLt; have := c.isLt; omega
  exact h
theorem tdone (a : BitVec 5) : Statement (.tdone a) := by
  have h : 0x0000107B + a.toNat * 32768 < 4294967296 := by have := a.isLt; omega
  exact h
theorem tabort (a : BitVec 5) : Statement (.tabort a) := by
  have h : 0x0200107B + a.toNat * 32768 < 4294967296 := by have := a.isLt; omega
  exact h
theorem tspawn (a : BitVec 5) (b : BitVec 5) : Statement (.tspawn a b) := by
  have h : 0x0000207B + a.toNat * 1048576 + b.toNat * 32768 < 4294967296 := by have := a.isLt; have := b.isLt; omega
  exact h
theorem launch (a : BitVec 5) (b : BitVec 5) (c : BitVec 5) : Statement (.launch a b c) := by
  have h : 0x0000307B + a.toNat * 1048576 + b.toNat * 32768 + c.toNat * 128 < 4294967296 := by have := a.isLt; have := b.isLt; have := c.isLt; omega
  exact h
theorem lwait (a : BitVec 5) (b : BitVec 5) : Statement (.lwait a b) := by
  have h : 0x0000407B + a.toNat * 32768 + b.toNat * 128 < 4294967296 := by have := a.isLt; have := b.isLt; omega
  exact h
theorem rand (a : BitVec 5) : Statement (.rand a) := by
  have h : 0x0000507B + a.toNat * 128 < 4294967296 := by have := a.isLt; omega
  exact h
theorem valuNop : Statement (.valuNop) := Nat.two_pow_pos 32
theorem vadd (a : BitVec 3) (b : BitVec 4) (c : BitVec 4) (d : BitVec 4) (e : BitVec 3) : Statement (.vadd a b c d e) := by
  have h : 0x04000000 + a.toNat * 8388608 + b.toNat * 524288 + c.toNat * 32768 + d.toNat * 2048 + e.toNat * 256 < 4294967296 := by have := a.isLt; have := b.isLt; have := c.isLt; have := d.isLt; have := e.isLt; omega
  exact h
theorem vsub (a : BitVec 3) (b : BitVec 4) (c : BitVec 4) (d : BitVec 4) (e : BitVec 3) : Statement (.vsub a b c d e) := by
  have h : 0x08000000 + a.toNat * 8388608 + b.toNat * 524288 + c.toNat * 32768 + d.toNat * 2048 + e.toNat * 256 < 4294967296 := by have := a.isLt; have := b.isLt; have := c.isLt; have := d.isLt; have := e.isLt; omega
  exact h
theorem vmul (a : BitVec 3) (b : BitVec 4) (c : BitVec 4) (d : BitVec 4) (e : BitVec 3) : Statement (.vmul a b c d e) := by
  have h : 0x0C000000 + a.toNat * 8388608 + b.toNat * 524288 + c.toNat * 32768 + d.toNat * 2048 + e.toNat * 256 < 4294967296 := by have := a.isLt; have := b.isLt; have := c.isLt; have := d.isLt; have := e.isLt; omega
  exact h
theorem vmulh (a : BitVec 3) (b : BitVec 4) (c : BitVec 4) (d : BitVec 4) (e : BitVec 3) (f : BitVec 1) : Statement (.vmulh a b c d e f) := by
  have h : 0x10000000 + a.toNat * 8388608 + b.toNat * 524288 + c.toNat * 32768 + d.toNat * 2048 + e.toNat * 256 + f.toNat < 4294967296 := by have := a.isLt; have := b.isLt; have := c.isLt; have := d.isLt; have := e.isLt; have := f.isLt; omega
  exact h
theorem vmac (a : BitVec 3) (b : BitVec 4) (c : BitVec 4) (d : BitVec 4) (e : BitVec 3) : Statement (.vmac a b c d e) := by
  have h : 0x14000000 + a.toNat * 8388608 + b.toNat * 524288 + c.toNat * 32768 + d.toNat * 2048 + e.toNat * 256 < 4294967296 := by have := a.isLt; have := b.isLt; have := c.isLt; have := d.isLt; have := e.isLt; omega
  exact h
theorem vand (a : BitVec 3) (b : BitVec 4) (c : BitVec 4) (d : BitVec 4) (e : BitVec 3) : Statement (.vand a b c d e) := by
  have h : 0x18000000 + a.toNat * 8388608 + b.toNat * 524288 + c.toNat * 32768 + d.toNat * 2048 + e.toNat * 256 < 4294967296 := by have := a.isLt; have := b.isLt; have := c.isLt; have := d.isLt; have := e.isLt; omega
  exact h
theorem vor (a : BitVec 3) (b : BitVec 4) (c : BitVec 4) (d : BitVec 4) (e : BitVec 3) : Statement (.vor a b c d e) := by
  have h : 0x1C000000 + a.toNat * 8388608 + b.toNat * 524288 + c.toNat * 32768 + d.toNat * 2048 + e.toNat * 256 < 4294967296 := by have := a.isLt; have := b.isLt; have := c.isLt; have := d.isLt; have := e.isLt; omega
  exact h
theorem vxor (a : BitVec 3) (b : BitVec 4) (c : BitVec 4) (d : BitVec 4) (e : BitVec 3) : Statement (.vxor a b c d e) := by
  have h : 0x20000000 + a.toNat * 8388608 + b.toNat * 524288 + c.toNat * 32768 + d.toNat * 2048 + e.toNat * 256 < 4294967296 := by have := a.isLt; have := b.isLt; have := c.isLt; have := d.isLt; have := e.isLt; omega
  exact h
theorem vshl (a : BitVec 3) (b : BitVec 4) (c : BitVec 4) (d : BitVec 4) (e : BitVec 3) (f : BitVec 1) (g : BitVec 5) : Statement (.vshl a b c d e f g) := by
  have h : 0x24000000 + a.toNat * 8388608 + b.toNat * 524288 + c.toNat * 32768 + d.toNat * 2048 + e.toNat * 256 + f.toNat * 128 + g.toNat < 4294967296 := by have := a.isLt; have := b.isLt; have := c.isLt; have := d.isLt; have := e.isLt; have := f.isLt; have := g.isLt; omega
  exact h
theorem vshr (a : BitVec 3) (b : BitVec 4) (c : BitVec 4) (d : BitVec 4) (e : BitVec 3) (f : BitVec 1) (g : BitVec 5) : Statement (.vshr a b c d e f g) := by
  have h : 0x28000000 + a.toNat * 8388608 + b.toNat * 524288 + c.toNat * 32768 + d.toNat * 2048 + e.toNat * 256 + f.toNat * 128 + g.toNat < 4294967296 := by have := a.isLt; have := b.isLt; have := c.isLt; have := d.isLt; have := e.isLt; have := f.isLt; have := g.isLt; omega
  exact h
theorem vsra (a : BitVec 3) (b : BitVec 4) (c : BitVec 4) (d : BitVec 4) (e : BitVec 3) (f : BitVec 1) (g : BitVec 5) : Statement (.vsra a b c d e f g) := by
  have h : 0x2C000000 + a.toNat * 8388608 + b.toNat * 524288 + c.toNat * 32768 + d.toNat * 2048 + e.toNat * 256 + f.toNat * 128 + g.toNat < 4294967296 := by have := a.isLt; have := b.isLt; have := c.isLt; have := d.isLt; have := e.isLt; have := f.isLt; have := g.isLt; omega
  exact h
theorem vmin (a : BitVec 3) (b : BitVec 4) (c : BitVec 4) (d : BitVec 4) (e : BitVec 3) (f : BitVec 1) : Statement (.vmin a b c d e f) := by
  have h : 0x30000000 + a.toNat * 8388608 + b.toNat * 524288 + c.toNat * 32768 + d.toNat * 2048 + e.toNat * 256 + f.toNat < 4294967296 := by have := a.isLt; have := b.isLt; have := c.isLt; have := d.isLt; have := e.isLt; have := f.isLt; omega
  exact h
theorem vmax (a : BitVec 3) (b : BitVec 4) (c : BitVec 4) (d : BitVec 4) (e : BitVec 3) (f : BitVec 1) : Statement (.vmax a b c d e f) := by
  have h : 0x34000000 + a.toNat * 8388608 + b.toNat * 524288 + c.toNat * 32768 + d.toNat * 2048 + e.toNat * 256 + f.toNat < 4294967296 := by have := a.isLt; have := b.isLt; have := c.isLt; have := d.isLt; have := e.isLt; have := f.isLt; omega
  exact h
theorem vabs (a : BitVec 3) (b : BitVec 4) (c : BitVec 4) (d : BitVec 3) : Statement (.vabs a b c d) := by
  have h : 0x38000000 + a.toNat * 8388608 + b.toNat * 524288 + c.toNat * 32768 + d.toNat * 256 < 4294967296 := by have := a.isLt; have := b.isLt; have := c.isLt; have := d.isLt; omega
  exact h
theorem vadds (a : BitVec 3) (b : BitVec 4) (c : BitVec 4) (d : BitVec 4) (e : BitVec 3) (f : BitVec 1) (g : BitVec 1) : Statement (.vadds a b c d e f g) := by
  have h : 0x3C000000 + a.toNat * 8388608 + b.toNat * 524288 + c.toNat * 32768 + d.toNat * 2048 + e.toNat * 256 + f.toNat * 2 + g.toNat < 4294967296 := by have := a.isLt; have := b.isLt; have := c.isLt; have := d.isLt; have := e.isLt; have := f.isLt; have := g.isLt; omega
  exact h
theorem vfadd (a : BitVec 3) (b : BitVec 4) (c : BitVec 4) (d : BitVec 4) (e : BitVec 3) : Statement (.vfadd a b c d e) := by
  have h : 0x40000000 + a.toNat * 8388608 + b.toNat * 524288 + c.toNat * 32768 + d.toNat * 2048 + e.toNat * 256 < 4294967296 := by have := a.isLt; have := b.isLt; have := c.isLt; have := d.isLt; have := e.isLt; omega
  exact h
theorem vfsub (a : BitVec 3) (b : BitVec 4) (c : BitVec 4) (d : BitVec 4) (e : BitVec 3) : Statement (.vfsub a b c d e) := by
  have h : 0x44000000 + a.toNat * 8388608 + b.toNat * 524288 + c.toNat * 32768 + d.toNat * 2048 + e.toNat * 256 < 4294967296 := by have := a.isLt; have := b.isLt; have := c.isLt; have := d.isLt; have := e.isLt; omega
  exact h
theorem vfmul (a : BitVec 3) (b : BitVec 4) (c : BitVec 4) (d : BitVec 4) (e : BitVec 3) : Statement (.vfmul a b c d e) := by
  have h : 0x48000000 + a.toNat * 8388608 + b.toNat * 524288 + c.toNat * 32768 + d.toNat * 2048 + e.toNat * 256 < 4294967296 := by have := a.isLt; have := b.isLt; have := c.isLt; have := d.isLt; have := e.isLt; omega
  exact h
theorem vfma (a : BitVec 3) (b : BitVec 4) (c : BitVec 4) (d : BitVec 4) (e : BitVec 3) : Statement (.vfma a b c d e) := by
  have h : 0x4C000000 + a.toNat * 8388608 + b.toNat * 524288 + c.toNat * 32768 + d.toNat * 2048 + e.toNat * 256 < 4294967296 := by have := a.isLt; have := b.isLt; have := c.isLt; have := d.isLt; have := e.isLt; omega
  exact h
theorem vfms (a : BitVec 3) (b : BitVec 4) (c : BitVec 4) (d : BitVec 4) (e : BitVec 3) : Statement (.vfms a b c d e) := by
  have h : 0x50000000 + a.toNat * 8388608 + b.toNat * 524288 + c.toNat * 32768 + d.toNat * 2048 + e.toNat * 256 < 4294967296 := by have := a.isLt; have := b.isLt; have := c.isLt; have := d.isLt; have := e.isLt; omega
  exact h
theorem vfmin (a : BitVec 3) (b : BitVec 4) (c : BitVec 4) (d : BitVec 4) (e : BitVec 3) : Statement (.vfmin a b c d e) := by
  have h : 0x54000000 + a.toNat * 8388608 + b.toNat * 524288 + c.toNat * 32768 + d.toNat * 2048 + e.toNat * 256 < 4294967296 := by have := a.isLt; have := b.isLt; have := c.isLt; have := d.isLt; have := e.isLt; omega
  exact h
theorem vfmax (a : BitVec 3) (b : BitVec 4) (c : BitVec 4) (d : BitVec 4) (e : BitVec 3) : Statement (.vfmax a b c d e) := by
  have h : 0x58000000 + a.toNat * 8388608 + b.toNat * 524288 + c.toNat * 32768 + d.toNat * 2048 + e.toNat * 256 < 4294967296 := by have := a.isLt; have := b.isLt; have := c.isLt; have := d.isLt; have := e.isLt; omega
  exact h
theorem vfsgn (a : BitVec 3) (b : BitVec 4) (c : BitVec 4) (d : BitVec 4) (e : BitVec 3) (f : BitVec 2) : Statement (.vfsgn a b c d e f) := by
  have h : 0x5C000000 + a.toNat * 8388608 + b.toNat * 524288 + c.toNat * 32768 + d.toNat * 2048 + e.toNat * 256 + f.toNat < 4294967296 := by have := a.isLt; have := b.isLt; have := c.isLt; have := d.isLt; have := e.isLt; have := f.isLt; omega
  exact h
theorem vcmp (a : BitVec 3) (b : BitVec 3) (c : BitVec 4) (d : BitVec 4) (e : BitVec 3) (f : BitVec 1) (g : BitVec 3) : Statement (.vcmp a b c d e f g) := by
  have h : 0x60000000 + a.toNat * 8388608 + b.toNat * 524288 + c.toNat * 32768 + d.toNat * 2048 + e.toNat * 256 + f.toNat * 8 + g.toNat < 4294967296 := by have := a.isLt; have := b.isLt; have := c.isLt; have := d.isLt; have := e.isLt; have := f.isLt; have := g.isLt; omega
  exact h
theorem vsel (a : BitVec 3) (b : BitVec 4) (c : BitVec 4) (d : BitVec 4) (e : BitVec 3) : Statement (.vsel a b c d e) := by
  have h : 0x64000000 + a.toNat * 8388608 + b.toNat * 524288 + c.toNat * 32768 + d.toNat * 2048 + e.toNat * 256 < 4294967296 := by have := a.isLt; have := b.isLt; have := c.isLt; have := d.isLt; have := e.isLt; omega
  exact h
theorem vmovi (a : BitVec 3) (b : BitVec 4) (c : BitVec 4) (d : BitVec 4) (e : BitVec 3) (f : BitVec 8) : Statement (.vmovi a b c d e f) := by
  have h : 0x68000000 + a.toNat * 8388608 + b.toNat * 524288 + c.toNat * 32768 + d.toNat * 2048 + e.toNat * 256 + f.toNat < 4294967296 := by have := a.isLt; have := b.isLt; have := c.isLt; have := d.isLt; have := e.isLt; have := f.isLt; omega
  exact h
theorem vmovx (a : BitVec 3) (b : BitVec 4) (c : BitVec 3) (d : BitVec 5) : Statement (.vmovx a b c d) := by
  have h : 0x6C000000 + a.toNat * 8388608 + b.toNat * 524288 + c.toNat * 256 + d.toNat < 4294967296 := by have := a.isLt; have := b.isLt; have := c.isLt; have := d.isLt; omega
  exact h
theorem vmov (a : BitVec 3) (b : BitVec 4) (c : BitVec 4) (d : BitVec 3) : Statement (.vmov a b c d) := by
  have h : 0x70000000 + a.toNat * 8388608 + b.toNat * 524288 + c.toNat * 32768 + d.toNat * 256 < 4294967296 := by have := a.isLt; have := b.isLt; have := c.isLt; have := d.isLt; omega
  exact h
theorem xmv (a : BitVec 3) (b : BitVec 4) (c : BitVec 4) (d : BitVec 3) : Statement (.xmv a b c d) := by
  have h : 0x74000000 + a.toNat * 8388608 + b.toNat * 524288 + c.toNat * 32768 + d.toNat * 256 < 4294967296 := by have := a.isLt; have := b.isLt; have := c.isLt; have := d.isLt; omega
  exact h
theorem vshuf4 (a : BitVec 3) (b : BitVec 4) (c : BitVec 4) (d : BitVec 3) : Statement (.vshuf4 a b c d) := by
  have h : 0x78000000 + a.toNat * 8388608 + b.toNat * 524288 + c.toNat * 32768 + d.toNat * 256 < 4294967296 := by have := a.isLt; have := b.isLt; have := c.isLt; have := d.isLt; omega
  exact h
theorem vrand (a : BitVec 4) (b : BitVec 3) (c : BitVec 5) : Statement (.vrand a b c) := by
  have h : 0x7D000000 + a.toNat * 524288 + b.toNat * 256 + c.toNat < 4294967296 := by have := a.isLt; have := b.isLt; have := c.isLt; omega
  exact h
theorem vperm (a : BitVec 3) (b : BitVec 4) (c : BitVec 4) (d : BitVec 4) (e : BitVec 3) (f : BitVec 1) : Statement (.vperm a b c d e f) := by
  have h : 0x80000000 + a.toNat * 8388608 + b.toNat * 524288 + c.toNat * 32768 + d.toNat * 2048 + e.toNat * 256 + f.toNat < 4294967296 := by have := a.isLt; have := b.isLt; have := c.isLt; have := d.isLt; have := e.isLt; have := f.isLt; omega
  exact h
theorem vrot (a : BitVec 3) (b : BitVec 4) (c : BitVec 4) (d : BitVec 3) (e : BitVec 8) : Statement (.vrot a b c d e) := by
  have h : 0x84000000 + a.toNat * 8388608 + b.toNat * 524288 + c.toNat * 32768 + d.toNat * 256 + e.toNat < 4294967296 := by have := a.isLt; have := b.isLt; have := c.isLt; have := d.isLt; have := e.isLt; omega
  exact h
theorem vbcast (a : BitVec 3) (b : BitVec 4) (c : BitVec 4) (d : BitVec 3) (e : BitVec 8) : Statement (.vbcast a b c d e) := by
  have h : 0x88000000 + a.toNat * 8388608 + b.toNat * 524288 + c.toNat * 32768 + d.toNat * 256 + e.toNat < 4294967296 := by have := a.isLt; have := b.isLt; have := c.isLt; have := d.isLt; have := e.isLt; omega
  exact h
theorem vzip (a : BitVec 3) (b : BitVec 4) (c : BitVec 4) (d : BitVec 4) (e : BitVec 3) (f : BitVec 1) : Statement (.vzip a b c d e f) := by
  have h : 0x8C000000 + a.toNat * 8388608 + b.toNat * 524288 + c.toNat * 32768 + d.toNat * 2048 + e.toNat * 256 + f.toNat < 4294967296 := by have := a.isLt; have := b.isLt; have := c.isLt; have := d.isLt; have := e.isLt; have := f.isLt; omega
  exact h
theorem vuzp (a : BitVec 3) (b : BitVec 4) (c : BitVec 4) (d : BitVec 4) (e : BitVec 3) (f : BitVec 1) : Statement (.vuzp a b c d e f) := by
  have h : 0x90000000 + a.toNat * 8388608 + b.toNat * 524288 + c.toNat * 32768 + d.toNat * 2048 + e.toNat * 256 + f.toNat < 4294967296 := by have := a.isLt; have := b.isLt; have := c.isLt; have := d.isLt; have := e.isLt; have := f.isLt; omega
  exact h
theorem vrsum (a : BitVec 3) (b : BitVec 4) (c : BitVec 4) (d : BitVec 3) : Statement (.vrsum a b c d) := by
  have h : 0x94000000 + a.toNat * 8388608 + b.toNat * 524288 + c.toNat * 32768 + d.toNat * 256 < 4294967296 := by have := a.isLt; have := b.isLt; have := c.isLt; have := d.isLt; omega
  exact h
theorem vrmax (a : BitVec 3) (b : BitVec 4) (c : BitVec 4) (d : BitVec 3) : Statement (.vrmax a b c d) := by
  have h : 0x98000000 + a.toNat * 8388608 + b.toNat * 524288 + c.toNat * 32768 + d.toNat * 256 < 4294967296 := by have := a.isLt; have := b.isLt; have := c.isLt; have := d.isLt; omega
  exact h
theorem vrmin (a : BitVec 3) (b : BitVec 4) (c : BitVec 4) (d : BitVec 3) : Statement (.vrmin a b c d) := by
  have h : 0x9C000000 + a.toNat * 8388608 + b.toNat * 524288 + c.toNat * 32768 + d.toNat * 256 < 4294967296 := by have := a.isLt; have := b.isLt; have := c.isLt; have := d.isLt; omega
  exact h
theorem vcvt (a : BitVec 3) (b : BitVec 4) (c : BitVec 4) (d : BitVec 4) (e : BitVec 3) (f : BitVec 5) (g : BitVec 3) : Statement (.vcvt a b c d e f g) := by
  have h : 0xA0000000 + a.toNat * 8388608 + b.toNat * 524288 + c.toNat * 32768 + d.toNat * 2048 + e.toNat * 256 + f.toNat * 8 + g.toNat < 4294967296 := by have := a.isLt; have := b.isLt; have := c.isLt; have := d.isLt; have := e.isLt; have := f.isLt; have := g.isLt; omega
  exact h
theorem vpack (a : BitVec 3) (b : BitVec 4) (c : BitVec 4) (d : BitVec 4) (e : BitVec 3) (f : BitVec 5) (g : BitVec 3) : Statement (.vpack a b c d e f g) := by
  have h : 0xA4000000 + a.toNat * 8388608 + b.toNat * 524288 + c.toNat * 32768 + d.toNat * 2048 + e.toNat * 256 + f.toNat * 8 + g.toNat < 4294967296 := by have := a.isLt; have := b.isLt; have := c.isLt; have := d.isLt; have := e.isLt; have := f.isLt; have := g.isLt; omega
  exact h
theorem vunpk (a : BitVec 3) (b : BitVec 4) (c : BitVec 4) (d : BitVec 4) (e : BitVec 3) (f : BitVec 5) (g : BitVec 3) : Statement (.vunpk a b c d e f g) := by
  have h : 0xA8000000 + a.toNat * 8388608 + b.toNat * 524288 + c.toNat * 32768 + d.toNat * 2048 + e.toNat * 256 + f.toNat * 8 + g.toNat < 4294967296 := by have := a.isLt; have := b.isLt; have := c.isLt; have := d.isLt; have := e.isLt; have := f.isLt; have := g.isLt; omega
  exact h
theorem plog (a : BitVec 3) (b : BitVec 3) (c : BitVec 3) (d : BitVec 4) : Statement (.plog a b c d) := by
  have h : 0xB0000000 + a.toNat * 524288 + b.toNat * 32768 + c.toNat * 2048 + d.toNat < 4294967296 := by have := a.isLt; have := b.isLt; have := c.isLt; have := d.isLt; omega
  exact h
theorem pcnt (a : BitVec 3) (b : BitVec 3) (c : BitVec 5) : Statement (.pcnt a b c) := by
  have h : 0xB4000000 + a.toNat * 8388608 + b.toNat * 256 + c.toNat < 4294967296 := by have := a.isLt; have := b.isLt; have := c.isLt; omega
  exact h
theorem pfirst (a : BitVec 3) (b : BitVec 3) (c : BitVec 5) : Statement (.pfirst a b c) := by
  have h : 0xB8000000 + a.toNat * 8388608 + b.toNat * 256 + c.toNat < 4294967296 := by have := a.isLt; have := b.isLt; have := c.isLt; omega
  exact h
theorem pset (a : BitVec 3) (b : BitVec 3) (c : BitVec 5) : Statement (.pset a b c) := by
  have h : 0xBC000000 + a.toNat * 8388608 + b.toNat * 524288 + c.toNat < 4294967296 := by have := a.isLt; have := b.isLt; have := c.isLt; omega
  exact h
theorem vspill (a : BitVec 4) (b : BitVec 8) : Statement (.vspill a b) := by
  have h : 0xC0000000 + a.toNat * 32768 + b.toNat < 4294967296 := by have := a.isLt; have := b.isLt; omega
  exact h
theorem vfill (a : BitVec 4) (b : BitVec 8) : Statement (.vfill a b) := by
  have h : 0xC4000000 + a.toNat * 524288 + b.toNat < 4294967296 := by have := a.isLt; have := b.isLt; omega
  exact h
theorem vext (a : BitVec 3) (b : BitVec 4) (c : BitVec 4) (d : BitVec 4) (e : BitVec 5) : Statement (.vext a b c d e) := by
  have h : 0xC8000000 + a.toNat * 8388608 + b.toNat * 524288 + c.toNat * 32768 + d.toNat * 2048 + e.toNat < 4294967296 := by have := a.isLt; have := b.isLt; have := c.isLt; have := d.isLt; have := e.isLt; omega
  exact h
theorem vins (a : BitVec 3) (b : BitVec 4) (c : BitVec 4) (d : BitVec 4) (e : BitVec 5) : Statement (.vins a b c d e) := by
  have h : 0xCC000000 + a.toNat * 8388608 + b.toNat * 524288 + c.toNat * 32768 + d.toNat * 2048 + e.toNat < 4294967296 := by have := a.isLt; have := b.isLt; have := c.isLt; have := d.isLt; have := e.isLt; omega
  exact h
theorem vexp2 (a : BitVec 3) (b : BitVec 4) (c : BitVec 4) (d : BitVec 3) : Statement (.vexp2 a b c d) := by
  have h : 0xD0000000 + a.toNat * 8388608 + b.toNat * 524288 + c.toNat * 32768 + d.toNat * 256 < 4294967296 := by have := a.isLt; have := b.isLt; have := c.isLt; have := d.isLt; omega
  exact h
theorem vlog2 (a : BitVec 3) (b : BitVec 4) (c : BitVec 4) (d : BitVec 3) : Statement (.vlog2 a b c d) := by
  have h : 0xD4000000 + a.toNat * 8388608 + b.toNat * 524288 + c.toNat * 32768 + d.toNat * 256 < 4294967296 := by have := a.isLt; have := b.isLt; have := c.isLt; have := d.isLt; omega
  exact h
theorem vrcp (a : BitVec 3) (b : BitVec 4) (c : BitVec 4) (d : BitVec 3) : Statement (.vrcp a b c d) := by
  have h : 0xD8000000 + a.toNat * 8388608 + b.toNat * 524288 + c.toNat * 32768 + d.toNat * 256 < 4294967296 := by have := a.isLt; have := b.isLt; have := c.isLt; have := d.isLt; omega
  exact h
theorem vrsqrt (a : BitVec 3) (b : BitVec 4) (c : BitVec 4) (d : BitVec 3) : Statement (.vrsqrt a b c d) := by
  have h : 0xDC000000 + a.toNat * 8388608 + b.toNat * 524288 + c.toNat * 32768 + d.toNat * 256 < 4294967296 := by have := a.isLt; have := b.isLt; have := c.isLt; have := d.isLt; omega
  exact h
theorem vsqrt (a : BitVec 3) (b : BitVec 4) (c : BitVec 4) (d : BitVec 3) : Statement (.vsqrt a b c d) := by
  have h : 0xE0000000 + a.toNat * 8388608 + b.toNat * 524288 + c.toNat * 32768 + d.toNat * 256 < 4294967296 := by have := a.isLt; have := b.isLt; have := c.isLt; have := d.isLt; omega
  exact h
theorem vtanh (a : BitVec 3) (b : BitVec 4) (c : BitVec 4) (d : BitVec 3) : Statement (.vtanh a b c d) := by
  have h : 0xE4000000 + a.toNat * 8388608 + b.toNat * 524288 + c.toNat * 32768 + d.toNat * 256 < 4294967296 := by have := a.isLt; have := b.isLt; have := c.isLt; have := d.isLt; omega
  exact h
theorem verf (a : BitVec 3) (b : BitVec 4) (c : BitVec 4) (d : BitVec 3) : Statement (.verf a b c d) := by
  have h : 0xE8000000 + a.toNat * 8388608 + b.toNat * 524288 + c.toNat * 32768 + d.toNat * 256 < 4294967296 := by have := a.isLt; have := b.isLt; have := c.isLt; have := d.isLt; omega
  exact h
theorem acr (a : BitVec 3) (b : BitVec 4) (c : BitVec 2) (d : BitVec 1) (e : BitVec 3) (f : BitVec 3) (g : BitVec 2) (h : BitVec 6) : Statement (.acr a b c d e f g h) := by
  have h : 0xEC000000 + a.toNat * 8388608 + b.toNat * 524288 + c.toNat * 32768 + d.toNat * 16384 + e.toNat * 2048 + f.toNat * 256 + g.toNat * 64 + h.toNat < 4294967296 := by have := a.isLt; have := b.isLt; have := c.isLt; have := d.isLt; have := e.isLt; have := f.isLt; have := g.isLt; have := h.isLt; omega
  exact h
theorem acw (a : BitVec 3) (b : BitVec 2) (c : BitVec 4) (d : BitVec 3) (e : BitVec 2) (f : BitVec 6) : Statement (.acw a b c d e f) := by
  have h : 0xF0000000 + a.toNat * 8388608 + b.toNat * 524288 + c.toNat * 32768 + d.toNat * 256 + e.toNat * 64 + f.toNat < 4294967296 := by have := a.isLt; have := b.isLt; have := c.isLt; have := d.isLt; have := e.isLt; have := f.isLt; omega
  exact h
theorem acs (a : BitVec 4) (b : BitVec 1) (c : BitVec 2) (d : BitVec 3) : Statement (.acs a b c d) := by
  have h : 0xF6800000 + a.toNat * 524288 + b.toNat * 131072 + c.toNat * 32768 + d.toNat * 256 < 4294967296 := by have := a.isLt; have := b.isLt; have := c.isLt; have := d.isLt; omega
  exact h
theorem acsw (a : BitVec 1) (b : BitVec 2) (c : BitVec 4) (d : BitVec 3) : Statement (.acsw a b c d) := by
  have h : 0xFA800000 + a.toNat * 2097152 + b.toNat * 524288 + c.toNat * 32768 + d.toNat * 256 < 4294967296 := by have := a.isLt; have := b.isLt; have := c.isLt; have := d.isLt; omega
  exact h
theorem vmNop : Statement (.vmNop) := Nat.two_pow_pos 32
theorem vld (a : BitVec 5) (b : BitVec 6) (c : BitVec 5) (d : BitVec 3) (e : BitVec 8) : Statement (.vld a b c d e) := by
  have h : 0x08000000 + a.toNat * 4194304 + b.toNat * 65536 + c.toNat * 2048 + d.toNat * 256 + e.toNat < 4294967296 := by have := a.isLt; have := b.isLt; have := c.isLt; have := d.isLt; have := e.isLt; omega
  exact h
theorem vst (a : BitVec 4) (b : BitVec 6) (c : BitVec 5) (d : BitVec 3) (e : BitVec 8) : Statement (.vst a b c d e) := by
  have h : 0x10000000 + a.toNat * 4194304 + b.toNat * 65536 + c.toNat * 2048 + d.toNat * 256 + e.toNat < 4294967296 := by have := a.isLt; have := b.isLt; have := c.isLt; have := d.isLt; have := e.isLt; omega
  exact h
theorem vlds (a : BitVec 5) (b : BitVec 6) (c : BitVec 5) (d : BitVec 3) (e : BitVec 8) : Statement (.vlds a b c d e) := by
  have h : 0x18000000 + a.toNat * 4194304 + b.toNat * 65536 + c.toNat * 2048 + d.toNat * 256 + e.toNat < 4294967296 := by have := a.isLt; have := b.isLt; have := c.isLt; have := d.isLt; have := e.isLt; omega
  exact h
theorem vsts (a : BitVec 4) (b : BitVec 6) (c : BitVec 5) (d : BitVec 3) (e : BitVec 8) : Statement (.vsts a b c d e) := by
  have h : 0x20000000 + a.toNat * 4194304 + b.toNat * 65536 + c.toNat * 2048 + d.toNat * 256 + e.toNat < 4294967296 := by have := a.isLt; have := b.isLt; have := c.isLt; have := d.isLt; have := e.isLt; omega
  exact h
theorem vgth (a : BitVec 5) (b : BitVec 6) (c : BitVec 4) (d : BitVec 3) (e : BitVec 8) : Statement (.vgth a b c d e) := by
  have h : 0x28000000 + a.toNat * 4194304 + b.toNat * 65536 + c.toNat * 2048 + d.toNat * 256 + e.toNat < 4294967296 := by have := a.isLt; have := b.isLt; have := c.isLt; have := d.isLt; have := e.isLt; omega
  exact h
theorem vsct (a : BitVec 4) (b : BitVec 6) (c : BitVec 4) (d : BitVec 3) (e : BitVec 8) : Statement (.vsct a b c d e) := by
  have h : 0x30000000 + a.toNat * 4194304 + b.toNat * 65536 + c.toNat * 2048 + d.toNat * 256 + e.toNat < 4294967296 := by have := a.isLt; have := b.isLt; have := c.isLt; have := d.isLt; have := e.isLt; omega
  exact h
theorem vldl (a : BitVec 5) (b : BitVec 4) (c : BitVec 3) (d : BitVec 8) : Statement (.vldl a b c d) := by
  have h : 0x38000000 + a.toNat * 4194304 + b.toNat * 2048 + c.toNat * 256 + d.toNat < 4294967296 := by have := a.isLt; have := b.isLt; have := c.isLt; have := d.isLt; omega
  exact h
theorem vstl (a : BitVec 4) (b : BitVec 4) (c : BitVec 3) (d : BitVec 8) : Statement (.vstl a b c d) := by
  have h : 0x40000000 + a.toNat * 4194304 + b.toNat * 2048 + c.toNat * 256 + d.toNat < 4294967296 := by have := a.isLt; have := b.isLt; have := c.isLt; have := d.isLt; omega
  exact h
theorem vldf (a : BitVec 5) (b : BitVec 6) (c : BitVec 5) (d : BitVec 3) (e : BitVec 8) : Statement (.vldf a b c d e) := by
  have h : 0x48000000 + a.toNat * 4194304 + b.toNat * 65536 + c.toNat * 2048 + d.toNat * 256 + e.toNat < 4294967296 := by have := a.isLt; have := b.isLt; have := c.isLt; have := d.isLt; have := e.isLt; omega
  exact h
theorem vste (a : BitVec 4) (b : BitVec 6) (c : BitVec 5) (d : BitVec 3) (e : BitVec 8) : Statement (.vste a b c d e) := by
  have h : 0x50000000 + a.toNat * 4194304 + b.toNat * 65536 + c.toNat * 2048 + d.toNat * 256 + e.toNat < 4294967296 := by have := a.isLt; have := b.isLt; have := c.isLt; have := d.isLt; have := e.isLt; omega
  exact h
theorem vpush (a : BitVec 4) (b : BitVec 4) : Statement (.vpush a b) := by
  have h : 0x58000000 + a.toNat * 4194304 + b.toNat * 65536 < 4294967296 := by have := a.isLt; have := b.isLt; omega
  exact h
theorem vpop (a : BitVec 5) (b : BitVec 4) : Statement (.vpop a b) := by
  have h : 0x60000000 + a.toNat * 4194304 + b.toNat * 65536 < 4294967296 := by have := a.isLt; have := b.isLt; omega
  exact h
theorem vstb (a : BitVec 4) (b : BitVec 6) (c : BitVec 5) (d : BitVec 3) (e : BitVec 8) : Statement (.vstb a b c d e) := by
  have h : 0x68000000 + a.toNat * 4194304 + b.toNat * 65536 + c.toNat * 2048 + d.toNat * 256 + e.toNat < 4294967296 := by have := a.isLt; have := b.isLt; have := c.isLt; have := d.isLt; have := e.isLt; omega
  exact h
theorem vred (a : BitVec 4) (b : BitVec 6) (c : BitVec 5) (d : BitVec 3) (e : BitVec 5) : Statement (.vred a b c d e) := by
  have h : 0x70000000 + a.toNat * 4194304 + b.toNat * 65536 + c.toNat * 2048 + d.toNat * 256 + e.toNat < 4294967296 := by have := a.isLt; have := b.isLt; have := c.isLt; have := d.isLt; have := e.isLt; omega
  exact h
theorem vpref (a : BitVec 6) (b : BitVec 5) (c : BitVec 3) (d : BitVec 8) : Statement (.vpref a b c d) := by
  have h : 0x78000000 + a.toNat * 65536 + b.toNat * 2048 + c.toNat * 256 + d.toNat < 4294967296 := by have := a.isLt; have := b.isLt; have := c.isLt; have := d.isLt; omega
  exact h
theorem mxNop : Statement (.mxNop) := Nat.two_pow_pos 32
theorem mwl (a : BitVec 4) (b : BitVec 1) : Statement (.mwl a b) := by
  have h : 0x081F8000 + a.toNat * 2097152 + b.toNat * 16384 < 4294967296 := by have := a.isLt; have := b.isLt; omega
  exact h
theorem mma (a : BitVec 2) (b : BitVec 4) (c : BitVec 6) (d : BitVec 1) (e : BitVec 6) : Statement (.mma a b c d e) := by
  have h : 0x10000000 + a.toNat * 33554432 + b.toNat * 2097152 + c.toNat * 32768 + d.toNat * 16384 + e.toNat < 4294967296 := by have := a.isLt; have := b.isLt; have := c.isLt; have := d.isLt; have := e.isLt; omega
  exact h
theorem mmz (a : BitVec 2) (b : BitVec 4) (c : BitVec 6) (d : BitVec 1) (e : BitVec 6) : Statement (.mmz a b c d e) := by
  have h : 0x18000000 + a.toNat * 33554432 + b.toNat * 2097152 + c.toNat * 32768 + d.toNat * 16384 + e.toNat < 4294967296 := by have := a.isLt; have := b.isLt; have := c.isLt; have := d.isLt; have := e.isLt; omega
  exact h
theorem mmg (a : BitVec 2) (b : BitVec 4) (c : BitVec 6) (d : BitVec 1) (e : BitVec 1) (f : BitVec 6) : Statement (.mmg a b c d e f) := by
  have h : 0x20000000 + a.toNat * 33554432 + b.toNat * 2097152 + c.toNat * 32768 + d.toNat * 16384 + e.toNat * 4096 + f.toNat < 4294967296 := by have := a.isLt; have := b.isLt; have := c.isLt; have := d.isLt; have := e.isLt; have := f.isLt; omega
  exact h
theorem mtl (a : BitVec 2) (b : BitVec 4) (c : BitVec 6) (d : BitVec 1) (e : BitVec 2) (f : BitVec 6) : Statement (.mtl a b c d e f) := by
  have h : 0x28000000 + a.toNat * 33554432 + b.toNat * 2097152 + c.toNat * 32768 + d.toNat * 16384 + e.toNat * 4096 + f.toNat < 4294967296 := by have := a.isLt; have := b.isLt; have := c.isLt; have := d.isLt; have := e.isLt; have := f.isLt; omega
  exact h
theorem msm (a : BitVec 2) (b : BitVec 4) (c : BitVec 6) (d : BitVec 2) (e : BitVec 6) (f : BitVec 2) : Statement (.msm a b c d e f) := by
  have h : 0x30000000 + a.toNat * 33554432 + b.toNat * 2097152 + c.toNat * 32768 + d.toNat * 4096 + e.toNat * 4 + f.toNat < 4294967296 := by have := a.isLt; have := b.isLt; have := c.isLt; have := d.isLt; have := e.isLt; have := f.isLt; omega
  exact h
theorem mclr (a : BitVec 2) (b : BitVec 1) : Statement (.mclr a b) := by
  have h : 0x38000000 + a.toNat * 33554432 + b.toNat * 4096 < 4294967296 := by have := a.isLt; have := b.isLt; omega
  exact h
theorem mout (a : BitVec 2) (b : BitVec 4) (c : BitVec 6) (d : BitVec 2) (e : BitVec 6) : Statement (.mout a b c d e) := by
  have h : 0x40000000 + a.toNat * 33554432 + b.toNat * 2097152 + c.toNat * 32768 + d.toNat * 4096 + e.toNat < 4294967296 := by have := a.isLt; have := b.isLt; have := c.isLt; have := d.isLt; have := e.isLt; omega
  exact h
theorem mside (a : BitVec 2) (b : BitVec 2) (c : BitVec 2) : Statement (.mside a b c) := by
  have h : 0x48000000 + a.toNat * 33554432 + b.toNat * 4096 + c.toNat < 4294967296 := by have := a.isLt; have := b.isLt; have := c.isLt; omega
  exact h
theorem mwait (a : BitVec 1) : Statement (.mwait a) := by
  have h : 0x50000000 + a.toNat * 4096 < 4294967296 := by have := a.isLt; omega
  exact h
theorem stNop : Statement (.stNop) := Nat.two_pow_pos 32
theorem cpy (a : BitVec 2) (b : BitVec 6) (c : BitVec 6) (d : BitVec 5) (e : BitVec 5) : Statement (.cpy a b c d e) := by
  have h : 0x04000000 + a.toNat * 4194304 + b.toNat * 65536 + c.toNat * 1024 + d.toNat * 32 + e.toNat < 4294967296 := by have := a.isLt; have := b.isLt; have := c.isLt; have := d.isLt; have := e.isLt; omega
  exact h
theorem cpyq (a : BitVec 4) (b : BitVec 6) (c : BitVec 2) (d : BitVec 5) (e : BitVec 5) : Statement (.cpyq a b c d e) := by
  have h : 0x08000000 + a.toNat * 4194304 + b.toNat * 65536 + c.toNat * 1024 + d.toNat * 32 + e.toNat < 4294967296 := by have := a.isLt; have := b.isLt; have := c.isLt; have := d.isLt; have := e.isLt; omega
  exact h
theorem cpyo (a : BitVec 4) (b : BitVec 2) (c : BitVec 6) (d : BitVec 5) (e : BitVec 5) : Statement (.cpyo a b c d e) := by
  have h : 0x0C000000 + a.toNat * 4194304 + b.toNat * 65536 + c.toNat * 1024 + d.toNat * 32 + e.toNat < 4294967296 := by have := a.isLt; have := b.isLt; have := c.isLt; have := d.isLt; have := e.isLt; omega
  exact h
theorem cwait (a : BitVec 1) (b : BitVec 5) : Statement (.cwait a b) := by
  have h : 0x10000000 + a.toNat * 4194304 + b.toNat < 4294967296 := by have := a.isLt; have := b.isLt; omega
  exact h
theorem ringi (a : BitVec 4) (b : BitVec 5) : Statement (.ringi a b) := by
  have h : 0x14000000 + a.toNat * 4194304 + b.toNat * 32 < 4294967296 := by have := a.isLt; have := b.isLt; omega
  exact h
theorem wset (a : BitVec 4) (b : BitVec 6) (c : BitVec 2) (d : BitVec 5) (e : BitVec 5) : Statement (.wset a b c d e) := by
  have h : 0x18000000 + a.toNat * 4194304 + b.toNat * 65536 + c.toNat * 1024 + d.toNat * 32 + e.toNat < 4294967296 := by have := a.isLt; have := b.isLt; have := c.isLt; have := d.isLt; have := e.isLt; omega
  exact h
theorem wadv (a : BitVec 4) (b : BitVec 5) (c : BitVec 5) : Statement (.wadv a b c) := by
  have h : 0x1C000000 + a.toNat * 4194304 + b.toNat * 32 + c.toNat < 4294967296 := by have := a.isLt; have := b.isLt; have := c.isLt; omega
  exact h
theorem kpost (a : BitVec 4) (b : BitVec 6) (c : BitVec 6) (d : BitVec 5) (e : BitVec 5) : Statement (.kpost a b c d e) := by
  have h : 0x20000000 + a.toNat * 4194304 + b.toNat * 65536 + c.toNat * 1024 + d.toNat * 32 + e.toNat < 4294967296 := by have := a.isLt; have := b.isLt; have := c.isLt; have := d.isLt; have := e.isLt; omega
  exact h
theorem kwait (a : BitVec 5) (b : BitVec 5) : Statement (.kwait a b) := by
  have h : 0x24000000 + a.toNat * 32 + b.toNat < 4294967296 := by have := a.isLt; have := b.isLt; omega
  exact h
theorem ovl (a : BitVec 5) (b : BitVec 5) : Statement (.ovl a b) := by
  have h : 0x28000000 + a.toNat * 32 + b.toNat < 4294967296 := by have := a.isLt; have := b.isLt; omega
  exact h
theorem pref (a : BitVec 6) (b : BitVec 2) (c : BitVec 5) : Statement (.pref a b c) := by
  have h : 0x2C000000 + a.toNat * 65536 + b.toNat * 1024 + c.toNat * 32 < 4294967296 := by have := a.isLt; have := b.isLt; have := c.isLt; omega
  exact h
theorem res (a : BitVec 1) (b : BitVec 6) : Statement (.res a b) := by
  have h : 0x30000000 + a.toNat * 4194304 + b.toNat * 65536 < 4294967296 := by have := a.isLt; have := b.isLt; omega
  exact h
theorem resultLand (a : Nat) : Statement (.resultLand a) := Nat.two_pow_pos 32
theorem interlockedResultLand (a : Nat) (b : Nat) : Statement (.interlockedResultLand a b) := Nat.two_pow_pos 32
theorem waitcExpire (a : Nat) : Statement (.waitcExpire a) := Nat.two_pow_pos 32
theorem waitvTimeout (a : Nat) : Statement (.waitvTimeout a) := Nat.two_pow_pos 32
theorem lwbReplayLand (a : Nat) : Statement (.lwbReplayLand a) := Nat.two_pow_pos 32
theorem baseRegionLoad (a : Nat) (b : Nat) : Statement (.baseRegionLoad a b) := Nat.two_pow_pos 32
theorem ovlRegionWritten (a : Nat) (b : Nat) (c : Nat) : Statement (.ovlRegionWritten a b c) := Nat.two_pow_pos 32
theorem jobStart (a : Nat) (b : Nat) : Statement (.jobStart a b) := Nat.two_pow_pos 32
theorem ringSlotClaim (a : Nat) (b : Nat) : Statement (.ringSlotClaim a b) := Nat.two_pow_pos 32
theorem jobComplete (a : Nat) (b : Nat) : Statement (.jobComplete a b) := Nat.two_pow_pos 32
theorem jobFault (a : Nat) (b : Nat) : Statement (.jobFault a b) := Nat.two_pow_pos 32
theorem mxSlotRelease (a : Nat) : Statement (.mxSlotRelease a) := Nat.two_pow_pos 32
theorem mxRowPush (a : Nat) : Statement (.mxRowPush a) := Nat.two_pow_pos 32
theorem mtlStep (a : Nat) : Statement (.mtlStep a) := Nat.two_pow_pos 32
theorem mxFinish (a : Nat) : Statement (.mxFinish a) := Nat.two_pow_pos 32
theorem idleCorePass (a : Nat) : Statement (.idleCorePass a) := Nat.two_pow_pos 32
theorem taskStart (a : Nat) : Statement (.taskStart a) := Nat.two_pow_pos 32
theorem taskComplete (a : Nat) : Statement (.taskComplete a) := Nat.two_pow_pos 32
theorem subversionMerge (a : Nat) (b : Nat) (c : Nat) : Statement (.subversionMerge a b c) := Nat.two_pow_pos 32
theorem admissionRead (a : Nat) (b : Nat) : Statement (.admissionRead a b) := Nat.two_pow_pos 32
theorem admission (a : Nat) (b : Nat) : Statement (.admission a b) := Nat.two_pow_pos 32
theorem launchComplete (a : Nat) (b : Nat) : Statement (.launchComplete a b) := Nat.two_pow_pos 32
theorem launchCommit (a : Nat) (b : Nat) : Statement (.launchCommit a b) := Nat.two_pow_pos 32
theorem prepareAcknowledge (a : Nat) (b : Nat) (c : Nat) : Statement (.prepareAcknowledge a b c) := Nat.two_pow_pos 32
theorem prepareTimeout (a : Nat) (b : Nat) : Statement (.prepareTimeout a b) := Nat.two_pow_pos 32
theorem preparedAccessResume (a : Nat) : Statement (.preparedAccessResume a) := Nat.two_pow_pos 32
theorem rehearsalCompare (a : Nat) (b : Nat) : Statement (.rehearsalCompare a b) := Nat.two_pow_pos 32
theorem versionFree (a : Nat) (b : Nat) : Statement (.versionFree a b) := Nat.two_pow_pos 32
theorem collectiveComplete (a : Nat) (b : Nat) : Statement (.collectiveComplete a b) := Nat.two_pow_pos 32
theorem chunkComplete (a : Nat) (b : Nat) (c : Nat) : Statement (.chunkComplete a b c) := Nat.two_pow_pos 32
theorem laneBoundary (a : Nat) : Statement (.laneBoundary a) := Nat.two_pow_pos 32
theorem hopGrant (a : Nat) (b : Nat) : Statement (.hopGrant a b) := Nat.two_pow_pos 32
theorem preemptDecision (a : Nat) (b : Nat) (c : Nat) : Statement (.preemptDecision a b c) := Nat.two_pow_pos 32
theorem drainWindowExpire (a : Nat) : Statement (.drainWindowExpire a) := Nat.two_pow_pos 32
theorem park (a : Nat) : Statement (.park a) := Nat.two_pow_pos 32
theorem saveComplete (a : Nat) : Statement (.saveComplete a) := Nat.two_pow_pos 32
theorem restore (a : Nat) (b : List Nat) : Statement (.restore a b) := Nat.two_pow_pos 32
theorem restoreComplete (a : Nat) : Statement (.restoreComplete a) := Nat.two_pow_pos 32
theorem watchdogFire (a : Nat) : Statement (.watchdogFire a) := Nat.two_pow_pos 32
theorem contextKill (a : Nat) : Statement (.contextKill a) := Nat.two_pow_pos 32
theorem contextCreate (a : Nat) (b : ContextParams) : Statement (.contextCreate a b) := Nat.two_pow_pos 32
theorem pageWalkComplete (a : Nat) : Statement (.pageWalkComplete a) := Nat.two_pow_pos 32
theorem pagePresent (a : Nat) (b : Nat) : Statement (.pagePresent a b) := Nat.two_pow_pos 32
theorem addressInvalid (a : Nat) (b : Nat) : Statement (.addressInvalid a b) := Nat.two_pow_pos 32
theorem mappingChange (a : Nat) (b : Nat) (c : Nat) : Statement (.mappingChange a b c) := Nat.two_pow_pos 32
theorem pageMigrate (a : Nat) (b : Nat) (c : Nat) : Statement (.pageMigrate a b c) := Nat.two_pow_pos 32
theorem codeLoad (a : Nat) (b : CodeImage) : Statement (.codeLoad a b) := Nat.two_pow_pos 32
theorem codeUnload (a : Nat) : Statement (.codeUnload a) := Nat.two_pow_pos 32
theorem forcedUnload (a : Nat) : Statement (.forcedUnload a) := Nat.two_pow_pos 32
theorem dbgSet (a : Nat) (b : Nat) (c : Nat) (d : Nat) : Statement (.dbgSet a b c d) := Nat.two_pow_pos 32
theorem debugResume (a : Nat) : Statement (.debugResume a) := Nat.two_pow_pos 32
theorem codeSample (a : Nat) (b : Nat) (c : Nat) : Statement (.codeSample a b c) := Nat.two_pow_pos 32
theorem codeChange (a : Nat) : Statement (.codeChange a) := Nat.two_pow_pos 32
theorem heartbeat (a : Nat) : Statement (.heartbeat a) := Nat.two_pow_pos 32
theorem heartbeatDeadline (a : Nat) : Statement (.heartbeatDeadline a) := Nat.two_pow_pos 32
theorem takeover (a : Nat) : Statement (.takeover a) := Nat.two_pow_pos 32
theorem patrolScrub (a : Nat) : Statement (.patrolScrub a) := Nat.two_pow_pos 32
theorem wipe (a : WipeTarget) : Statement (.wipe a) := Nat.two_pow_pos 32
theorem classifyWindow (a : Nat) : Statement (.classifyWindow a) := Nat.two_pow_pos 32
theorem demote (a : Nat) (b : Nat) : Statement (.demote a b) := Nat.two_pow_pos 32
theorem promote (a : Nat) (b : Nat) : Statement (.promote a b) := Nat.two_pow_pos 32
theorem flyBind (a : Nat) (b : Nat) (c : Bool) : Statement (.flyBind a b c) := Nat.two_pow_pos 32
theorem flyCancel (a : Nat) : Statement (.flyCancel a) := Nat.two_pow_pos 32
theorem flySave (a : Nat) : Statement (.flySave a) := Nat.two_pow_pos 32
theorem flySwitch (a : Nat) : Statement (.flySwitch a) := Nat.two_pow_pos 32
theorem flyAbandon (a : Nat) : Statement (.flyAbandon a) := Nat.two_pow_pos 32
theorem flyRelease (a : Nat) : Statement (.flyRelease a) := Nat.two_pow_pos 32
theorem recreate (a : Nat) (b : Nat) (c : ContextParams) : Statement (.recreate a b c) := Nat.two_pow_pos 32
theorem remoteStore (a : Packet) : Statement (.remoteStore a) := Nat.two_pow_pos 32
theorem loadRequest (a : Packet) : Statement (.loadRequest a) := Nat.two_pow_pos 32
theorem loadResponse (a : Packet) : Statement (.loadResponse a) := Nat.two_pow_pos 32
theorem acknowledgement (a : Packet) : Statement (.acknowledgement a) := Nat.two_pow_pos 32
theorem refusal (a : Packet) : Statement (.refusal a) := Nat.two_pow_pos 32
theorem remoteAtomic (a : Packet) : Statement (.remoteAtomic a) := Nat.two_pow_pos 32
theorem remoteReduction (a : Packet) : Statement (.remoteReduction a) := Nat.two_pow_pos 32
theorem chorusUpOrdered (a : Packet) : Statement (.chorusUpOrdered a) := Nat.two_pow_pos 32
theorem chorusUpUnordered (a : Packet) : Statement (.chorusUpUnordered a) := Nat.two_pow_pos 32
theorem chorusDown (a : Packet) : Statement (.chorusDown a) := Nat.two_pow_pos 32
theorem reservationRequest (a : Packet) : Statement (.reservationRequest a) := Nat.two_pow_pos 32
theorem grant (a : Packet) : Statement (.grant a) := Nat.two_pow_pos 32
theorem commitControl (a : Packet) : Statement (.commitControl a) := Nat.two_pow_pos 32
theorem flyControl (a : Packet) : Statement (.flyControl a) := Nat.two_pow_pos 32
theorem flyData (a : Packet) : Statement (.flyData a) := Nat.two_pow_pos 32
theorem flitRetransmit (a : Nat) (b : Nat) : Statement (.flitRetransmit a b) := Nat.two_pow_pos 32
theorem portRetrainFail (a : Nat) : Statement (.portRetrainFail a) := Nat.two_pow_pos 32
theorem routeSet (a : Nat) (b : Nat) : Statement (.routeSet a b) := Nat.two_pow_pos 32
theorem nodeNumberSet (a : Nat) : Statement (.nodeNumberSet a) := Nat.two_pow_pos 32
theorem doorbell (a : Nat) (b : Nat) (c : Nat) : Statement (.doorbell a b c) := Nat.two_pow_pos 32
theorem bar2Read (a : Nat) (b : Nat) : Statement (.bar2Read a b) := Nat.two_pow_pos 32
theorem bar2Write (a : Nat) (b : List (BitVec 8)) : Statement (.bar2Write a b) := Nat.two_pow_pos 32
theorem registerWrite (a : SysReg) (b : Nat) : Statement (.registerWrite a b) := Nat.two_pow_pos 32
theorem completionFree (a : Nat) (b : Nat) : Statement (.completionFree a b) := Nat.two_pow_pos 32
theorem status : Statement (.status) := Nat.two_pow_pos 32
theorem fwStage (a : Nat) (b : List (BitVec 8)) : Statement (.fwStage a b) := Nat.two_pow_pos 32
theorem fwCommit (a : Nat) : Statement (.fwCommit a) := Nat.two_pow_pos 32
theorem reset : Statement (.reset) := Nat.two_pow_pos 32
theorem lcAdvance (a : Nat) : Statement (.lcAdvance a) := Nat.two_pow_pos 32
theorem report (a : Nat) (b : Nat) : Statement (.report a b) := Nat.two_pow_pos 32
theorem idkey : Statement (.idkey) := Nat.two_pow_pos 32
theorem setLtol (a : Nat) : Statement (.setLtol a) := Nat.two_pow_pos 32
theorem powerOnReset : Statement (.powerOnReset) := Nat.two_pow_pos 32
theorem hostReset : Statement (.hostReset) := Nat.two_pow_pos 32
theorem bootComplete : Statement (.bootComplete) := Nat.two_pow_pos 32
theorem lowPowerEntry : Statement (.lowPowerEntry) := Nat.two_pow_pos 32
theorem wake : Statement (.wake) := Nat.two_pow_pos 32
theorem throttle : Statement (.throttle) := Nat.two_pow_pos 32
theorem clockRestore : Statement (.clockRestore) := Nat.two_pow_pos 32
theorem thermalTrip : Statement (.thermalTrip) := Nat.two_pow_pos 32
theorem logicalClockTick (a : Nat) : Statement (.logicalClockTick a) := Nat.two_pow_pos 32
theorem powerLoss : Statement (.powerLoss) := Nat.two_pow_pos 32
theorem contextResume (a : Nat) : Statement (.contextResume a) := Nat.two_pow_pos 32
theorem contextFree (a : Nat) : Statement (.contextFree a) := Nat.two_pow_pos 32
theorem debuggerAttach (a : Nat) (b : Bool) : Statement (.debuggerAttach a b) := Nat.two_pow_pos 32
theorem debugContextSave (a : Nat) : Statement (.debugContextSave a) := Nat.two_pow_pos 32
theorem commitOutcomeQuery (a : Nat) (b : Nat) (c : Nat) : Statement (.commitOutcomeQuery a b c) := Nat.two_pow_pos 32

end Sys2Proof.Laws.Fits
end

