-- ==== Sys2Proof/Tests/Slice0.lean ====
section
/-!
SUPPORT. Tests of the model, one step each: a term that each check of WellFormed refuses; a word of every instruction with an encoding,
written out field by field from its entry; results worked by hand or taken from the worked examples of the spec; and, for every
statement with hypotheses, a named witness that its hypotheses are met together.
-/
namespace Sys2Proof.Tests
open Sys2Proof.Machine Sys2Proof.Claims

set_option Elab.async false
set_option synthInstance.maxSize 2000
set_option synthInstance.maxHeartbeats 200000

/-- Bytes laid at places of memory. -/
def laid (s : State) (ws : List (Nat × Nat × Nat)) : State := ws.foldl (fun st e => putBytes st e.1 (bytesOf e.2.1 e.2.2)) s

/-- A code object of one kernel, with base region 0 and an overlay of regions 2 and 3, all of its bundles NOPs. -/
def nopCode : CodeObj :=
  { id := 1, tag := 1, len := 0x1000, data := 0
    bytes := 0x53564D52 + 2 ^ 32 + 0x0001000100010001 * 2 ^ 64 + 2 ^ 128 + 2 * 2 ^ 160 + 0x40 * 2 ^ 192 + 0x60 * 2 ^ 256 +
      (2 ^ 96 + 2 ^ 112) * 2 ^ (8 * 0x40) + (2 ^ 16 + 0x80 * 2 ^ 64) * 2 ^ (8 * 0x60) +
      (2 + 2 * 2 ^ 16 + 0x480 * 2 ^ 64) * 2 ^ (8 * 0x70) }

/-- A launch record of one wide point whose footprint is one written entry, at 0x10000, of 32 KiB. -/
def aRecord : LaunchRec :=
  { code := 1, entry := 0, arg := 0, mode := 0, flags := 0, cls := 0, tokens := 3, est := 0, budget := 0, ext := [1], ndim := 1, ndep := 0
    deps := [], tcb := 0, ntcb := 0, levels := [], foot := [⟨0, 0, 2, 0x8000, 0x10000⟩] }

/-- The launch 1 of the host, running, with task slot 0 open for the task of core 0. -/
def aLaunch : Launch :=
  { handle := 1, queue := 0, desc := aRecord, origin := .host 0, phase := .running
    a := { started := true, slots := [{ num := 0, deps := [], core := 0, item := 0, kind := .point, completed := false, stamp := 1 }] } }

/-- A context of two ranks on cluster 0, whose page table lies at 0x10000. -/
def aCtx : Ctx :=
  { job := 1, rank := 0, nranks := 2, key0 := 7, key1 := 9, state := .running, clusters := 1, part := [0], root := 0x10000
    chipSize := 0x10000, launches := [aLaunch], nextHandle := 5, code := [nopCode], dog := .armed, allowance := 0x10000
    spillCap := 0x10000, keepAllow := 1024, overflowCap := 64 }

/-- The task of core 0: the point 0 of launch 1, running. -/
def aTask : Task :=
  { launch := 1, run := false, kind := .point, mode := 0, item := 0, ident := 0, slot := some 0, entry := 0, code := 1, codeTag := 1
    exact := false, firstOvl := 1, ovls := 1, ckpt := false, phase := .running }

/-- Core 0 in cycle 100, at bundle 10, with page 1 translated and operands in x5 to x9. -/
def aCore : Core :=
  { ctx := some 0, logical := 0, status := .running, now := 100, task := some aTask
    regs := { x := [(5, 0x10010), (6, 0x123456789ABCDEF0), (7, 0xFFFFFFFFFFFFFFFF), (8, 3), (9, 0x8000000000000000)] }
    ctl := { pc := 10, eligible := 100 }, imem := { tags := [(0, 1)] }
    tlb := [⟨1, 16, 0, 0, 0x200000, true, true, none⟩], nextId := 4 }

/-- A package that runs it: the table maps page 1 to frame 0x200000, page 3 to node 9, and page 4 to frame 0x210000 for reading. -/
def base : State :=
  laid { State.reset with
    cores := [(0, aCore)], ctxs := [(0, aCtx)]
    plat := { State.reset.plat with power := .active, ready := true }
    link := { State.reset.link with node := 3 } }
   [(0x10000, 8, 0x20001), (0x20000, 8, 0x30001), (0x30008, 8, 0x20001D), (0x30018, 8, 0x500001D + 9 * 2 ^ 46 + 2 ^ 62),
    (0x30020, 8, 0x21000D), (0x200010, 8, 0x8182838485868788), (2 ^ 42 + 0x40, 8, 0x0102030405060708)]

/-- Core 0 of the package changed. -/
def with0 (f : Core → Core) (s : State := base) : State := modCore s 0 f

/-- The context changed. -/
def withCtx (f : Ctx → Ctx) (s : State := base) : State := modCtx s 0 f

/-- A register of core 0 set. -/
def setX (r : Nat) (v : Nat) (s : State := base) : State :=
  modCore s 0 (fun c => { c with regs := c.regs.writeX r (BitVec.ofNat 64 v) })

/-! ## Words and terms -/

/-- Every pair of a slot and a word decodes to its instruction, which that slot accepts. -/
def reads (l : List (Nat × Nat × Instr)) : Bool :=
  l.all (fun e => decide (decodeSlot e.1 e.2.1 = some e.2.2) && wellFormedIn e.1 e.2.2)

/-- CTL words (R66, R95 to R107), each written out field by field from its entry, the highest bit first. -/
theorem test_words_ctl : reads [
  (0, 0b1010_011_0000000000000000000000000, .next 10 3),
  (0, 0b1100_011_0001_101_11010_1011000011001, .br 12 3 5 26 5657),
  (0, 0b1110_110_0010_1_110_11_000001110110111, .brp 14 6 1 6 3 951),
  (0, 0b1110_100_0011_110001101010010101000, .jmp 14 4 1627304),
  (0, 0b0100_110_0100_000011010100011001001, .call 4 6 108745),
  (0, 0b0011_001_0101_01100_0000000000000000, .jmpx 3 1 12),
  (0, 0b1000_111_0110_01000_011000011000_0000, .loop 8 7 8 1560),
  (0, 0b0010_101_0111_001111111110_000000111, .loopi 2 5 1022 7),
  (0, 0b1100_010_1000_011010000111110010011, .waitc 12 2 855955),
  (0, 0b0101_010_100100000_1110101010010110, .trap 5 2 60054),
  (0, 0b1110_111_1010000000000000000000000, .eret 14 7),
  (0, 0b0111_010_1011000000000000000000000, .done 7 2),
  (0, 0b1101_111_1100000000000000000000000, .halt 13 7),
  (0, 0b0010_010_110100000_1001111000110001, .brk 2 2 40497),
  (0, 0b1010_100_1110000000000_000001011101, .iwait 10 4 93)] = true := by decide +kernel

/-- Scalar words of RISC-V form (R67, R108 to R110), each written out field by field from its entry, the highest bit first. -/
theorem test_words_scalarPlain : reads [
  (1, 0b00000000000000000000000000000000, .scalarNop),
  (1, 0b00100000011011110110_00101_0110111, .lui 132854 5),
  (1, 0b000000001000_11100_000_00001_0010011, .addi 8 28 1),
  (1, 0b001101011010_11001_010_00111_0010011, .slti 858 25 7),
  (1, 0b111101011101_00110_011_11100_0010011, .sltiu 3933 6 28),
  (1, 0b001010101010_01011_100_00111_0010011, .xori 682 11 7),
  (1, 0b100010100001_11101_110_10110_0010011, .ori 2209 29 22),
  (1, 0b101000000011_00111_111_00110_0010011, .andi 2563 7 6),
  (1, 0b000000_111101_10111_001_00111_0010011, .slli 61 23 7),
  (1, 0b000000_111110_11101_101_01101_0010011, .srli 62 29 13),
  (1, 0b010000_010100_00001_101_01100_0010011, .srai 20 1 12),
  (1, 0b011010100100_00110_000_11110_0011011, .addiw 1700 6 30),
  (1, 0b0000000_00101_01001_001_00011_0011011, .slliw 5 9 3),
  (1, 0b0000000_01011_10100_101_10011_0011011, .srliw 11 20 19),
  (1, 0b0100000_00001_10100_101_10110_0011011, .sraiw 1 20 22),
  (1, 0b0000000_10111_01011_000_00011_0110011, .add 23 11 3),
  (1, 0b0100000_01100_10000_000_10111_0110011, .sub 12 16 23),
  (1, 0b0000000_01011_00110_001_10000_0110011, .sll 11 6 16),
  (1, 0b0000000_10000_10111_010_00110_0110011, .slt 16 23 6),
  (1, 0b0000000_00010_01001_011_00001_0110011, .sltu 2 9 1),
  (1, 0b0000000_11000_01100_100_11100_0110011, .xor 24 12 28),
  (1, 0b0000000_01101_00001_101_10010_0110011, .srl 13 1 18),
  (1, 0b0100000_11010_01100_101_01101_0110011, .sra 26 12 13),
  (1, 0b0000000_10011_00001_110_01111_0110011, .or 19 1 15),
  (1, 0b0000000_00010_10111_111_00110_0110011, .and 2 23 6),
  (1, 0b0000001_10100_00111_000_11001_0110011, .mul 20 7 25),
  (1, 0b0000001_01000_11110_001_01111_0110011, .mulh 8 30 15),
  (1, 0b0000001_01100_01100_010_11101_0110011, .mulhsu 12 12 29),
  (1, 0b0000001_01001_11001_011_01111_0110011, .mulhu 9 25 15),
  (1, 0b0000001_10011_11000_100_11001_0110011, .div 19 24 25),
  (1, 0b0000001_11010_01100_101_11100_0110011, .divu 26 12 28),
  (1, 0b0000001_00010_00011_110_00111_0110011, .rem 2 3 7),
  (1, 0b0000001_01011_10100_111_01100_0110011, .remu 11 20 12),
  (1, 0b0000000_11110_00101_000_01011_0111011, .addw 30 5 11),
  (1, 0b0100000_01001_11110_000_10111_0111011, .subw 9 30 23),
  (1, 0b0000000_10010_00011_001_10110_0111011, .sllw 18 3 22),
  (1, 0b0000000_01011_00110_101_11010_0111011, .srlw 11 6 26),
  (1, 0b0100000_00011_00101_101_11000_0111011, .sraw 3 5 24),
  (1, 0b0000001_10111_10000_000_00110_0111011, .mulw 23 16 6),
  (1, 0b0000001_11000_00010_100_00011_0111011, .divw 24 2 3),
  (1, 0b0000001_10100_10010_101_11110_0111011, .divuw 20 18 30),
  (1, 0b0000001_01101_00010_110_01000_0111011, .remw 13 2 8),
  (1, 0b0000001_11000_10100_111_01100_0111011, .remuw 24 20 12),
  (1, 0b110100111001_01001_000_01111_0000011, .lb 3385 9 15),
  (1, 0b101001101011_00101_001_00010_0000011, .lh 2667 5 2),
  (1, 0b111110101011_11110_010_00010_0000011, .lw 4011 30 2),
  (1, 0b110011010100_10000_011_01011_0000011, .ld 3284 16 11),
  (1, 0b001101010001_00101_100_11000_0000011, .lbu 849 5 24),
  (1, 0b100100000111_00101_101_11101_0000011, .lhu 2311 5 29),
  (1, 0b110010011100_00110_110_01100_0000011, .lwu 3228 6 12),
  (1, 0b1101101_00101_01111_000_11110_0100011, .sb 109 5 15 30),
  (1, 0b1010000_11100_00110_001_01111_0100011, .sh 80 28 6 15),
  (1, 0b1111011_10000_10111_010_11000_0100011, .sw 123 16 23 24),
  (1, 0b0101001_10000_01001_011_10000_0100011, .sd 41 16 9 16)] = true := by decide +kernel

/-- Custom-0 words (R67, R112 to R116), each written out field by field from its entry, the highest bit first. -/
theorem test_words_scalarDev : reads [
  (1, 0b01_10_01_000000_01101_000000000001011, .shw 1 2 1 13),
  (1, 0b10_11_01_00000000000001_11110_0001011, .shr 2 3 1 30),
  (1, 0b0_100000_00000_11100_010000000001011, .brld 32 28),
  (1, 0b0_010110_00000_00110_011000000001011, .brst 22 6),
  (1, 0b0000000_10011_00000100_00011_0001011, .getd 0 19 3),
  (1, 0b0000001_00101_10000_101000000001011, .setd 1 5 16),
  (1, 0b000000000000_01001_110_11010_0001011, .clz 9 26),
  (1, 0b000000100000_10010_110_11100_0001011, .ctz 18 28),
  (1, 0b000001000000_01100_110_00011_0001011, .popc 12 3),
  (1, 0b00_11010_00_111_11001_111000000001011, .spillx 26 7 25),
  (1, 0b10_01100_00_110_00000111_10011_0001011, .fillx 12 6 19)] = true := by decide +kernel

/-- Custom-1 words (R68, R187 to R191), each written out field by field from its entry, the highest bit first. -/
theorem test_words_scalarSync : reads [
  (2, 0b000000000000_10110_000_00010_0101011, .ldfW 22 2),
  (2, 0b000000100000_11001_000_01100_0101011, .ldfD 25 12),
  (2, 0b000001000000_10010_000_10111_0101011, .ldfeW 18 23),
  (2, 0b000001100000_10110_000_01001_0101011, .ldfeD 22 9),
  (2, 0b000010000000_10000_000_01001_0101011, .ldt 16 9),
  (2, 0b0000000_11001_10111_001000000101011, .steW 25 23),
  (2, 0b0000001_10111_01011_001000000101011, .steD 23 11),
  (2, 0b0000010_00110_10011_001000000101011, .stfW 6 19),
  (2, 0b0000011_11100_00001_001000000101011, .stfD 28 1),
  (2, 0b000010000000_10000_001000000101011, .sete 16),
  (2, 0b000010100000_10010_001000000101011, .setf 18),
  (2, 0b0000000_11001_01001_010000000101011, .bari 25 9),
  (2, 0b0000001_01011_10110_010000000101011, .bara 11 22),
  (2, 0b0000010_01001_01111_010_10110_0101011, .barw 9 15 22),
  (2, 0b0000011_11010_01100_010_01100_0101011, .baraw 26 12 12),
  (2, 0b0000100_01001_01100_010000000101011, .barc 9 12),
  (2, 0b000010100000_11000_010_01100_0101011, .bart 24 12),
  (2, 0b0000000_11110_00110_011_11100_0101011, .waitvEq 30 6 28),
  (2, 0b0000001_11100_10111_011_01111_0101011, .waitvNe 28 23 15)] = true := by decide +kernel

/-- Custom-2 words (R68, R193 to R199), each written out field by field from its entry, the highest bit first. -/
theorem test_words_scalarAtomic : reads [
  (2, 0b00000_10_01100_01011_01_0_00101_1011011, .amoadd 2 12 11 0 5),
  (2, 0b00001_10_00110_00111_01_1_01100_1011011, .amoswap 2 6 7 1 12),
  (2, 0b00010_10_11110_11100_01_0_10000_1011011, .amocas 2 30 28 0 16),
  (2, 0b00011_10_10111_00011_01_1_11000_1011011, .amoand 2 23 3 1 24),
  (2, 0b00100_10_10110_11000_01_0_00110_1011011, .amoor 2 22 24 0 6),
  (2, 0b00101_10_10100_11001_01_1_11110_1011011, .amoxor 2 20 25 1 30),
  (2, 0b00110_10_10011_10110_01_0_11110_1011011, .amomin 2 19 22 0 30),
  (2, 0b00111_10_10100_10010_01_1_11001_1011011, .amomax 2 20 18 1 25),
  (2, 0b01000_10_11100_01001_01_0_11000_1011011, .amominu 2 28 9 0 24),
  (2, 0b01001_10_00001_00111_01_1_00110_1011011, .amomaxu 2 1 7 1 6),
  (2, 0b01010_10_10011_01111_010_10100_1011011, .amofadd 2 19 15 20),
  (2, 0b10000_10_00110_01000_01_1_000001011011, .redadd 2 6 8 1),
  (2, 0b10001_10_11001_10110_01_0_000001011011, .redand 2 25 22 0),
  (2, 0b10010_10_00110_10111_01_1_000001011011, .redor 2 6 23 1),
  (2, 0b10011_10_00010_10000_01_0_000001011011, .redxor 2 2 16 0),
  (2, 0b10100_10_01000_00110_01_1_000001011011, .redmin 2 8 6 1),
  (2, 0b10101_10_00010_11101_01_0_000001011011, .redmax 2 2 29 0),
  (2, 0b10110_10_00101_01011_01_1_000001011011, .redminu 2 5 11 1),
  (2, 0b10111_10_00110_10000_01_0_000001011011, .redmaxu 2 6 16 0),
  (2, 0b11000_10_00111_10010_010000001011011, .redfadd 2 7 18),
  (2, 0b11001_10_00010_01111_010_01100_1011011, .redofadd 2 2 15 12),
  (2, 0b11100_10_00000_01101_01_1_10110_1011011, .lda 2 13 1 22),
  (2, 0b11101_10_10100_00011_01_0_000001011011, .stl 2 20 3 0),
  (2, 0b11110_10_000_01_00000000000001011011, .fence 2 1)] = true := by decide +kernel

/-- Custom-3 words (R68, R200 to R205), each written out field by field from its entry, the highest bit first. -/
theorem test_words_scalarTask : reads [
  (2, 0b00000_0_0_0000000000000_10011_1111011, .tget 0 0 19),
  (2, 0b000000000000_00111_001000001111011, .tdone 7),
  (2, 0b000000100000_01000_001000001111011, .tabort 8),
  (2, 0b0000000_10111_11101_010000001111011, .tspawn 23 29),
  (2, 0b0000000_01100_00001_011_01100_1111011, .launch 12 1 12),
  (2, 0b000000000000_01101_100_01001_1111011, .lwait 13 9),
  (2, 0b00000000000000000101_11100_1111011, .rand 28)] = true := by decide +kernel

/-- Vector words over integers (R69, R122), each written out field by field from its entry, the highest bit first. -/
theorem test_words_vectorInt : reads [
  (3, 0b00000000000000000000000000000000, .valuNop),
  (3, 0b000001_000_0111_1110_0010_110_00000000, .vadd 0 7 14 2 6),
  (3, 0b000010_001_1110_0001_1010_011_00000000, .vsub 1 14 1 10 3),
  (3, 0b000011_010_0010_0101_1010_011_00000000, .vmul 2 2 5 10 3),
  (3, 0b000100_000_1110_0011_0111_100_0000000_1, .vmulh 0 14 3 7 4 1),
  (3, 0b000101_001_1110_1010_1011_101_00000000, .vmac 1 14 10 11 5),
  (3, 0b000110_010_1000_0011_0011_101_00000000, .vand 2 8 3 3 5),
  (3, 0b000111_000_0111_1010_1000_010_00000000, .vor 0 7 10 8 2),
  (3, 0b001000_001_0011_1010_0010_011_00000000, .vxor 1 3 10 2 3),
  (3, 0b001001_010_1110_1011_0000_001_1_00_00111, .vshl 2 14 11 0 1 1 7),
  (3, 0b001010_000_0111_0010_1011_011_0_00_00000, .vshr 0 7 2 11 3 0 0),
  (3, 0b001011_001_1010_1010_0000_101_1_00_01101, .vsra 1 10 10 0 5 1 13),
  (3, 0b001100_010_0011_1011_1010_100_0000000_1, .vmin 2 3 11 10 4 1),
  (3, 0b001101_000_0111_0111_0100_100_0000000_0, .vmax 0 7 7 4 4 0),
  (3, 0b001110_001_0101_1000_0000_110_00000000, .vabs 1 5 8 6),
  (3, 0b001111_010_0111_0111_1110_010_000000_1_0, .vadds 2 7 7 14 2 1 0)] = true := by decide +kernel

/-- Vector words over floats, compares and moves (R69, R123 to R126), each written out field by field from its entry, the highest bit first. -/
theorem test_words_vectorFloat : reads [
  (3, 0b010000_100_1010_1010_0101_110_00000000, .vfadd 4 10 10 5 6),
  (3, 0b010001_101_0101_1000_0101_100_00000000, .vfsub 5 5 8 5 4),
  (3, 0b010010_110_0001_0101_1000_011_00000000, .vfmul 6 1 5 8 3),
  (3, 0b010011_111_0011_1000_0001_001_00000000, .vfma 7 3 8 1 1),
  (3, 0b010100_011_1011_1010_1000_010_00000000, .vfms 3 11 10 8 2),
  (3, 0b010101_100_0101_0001_1101_010_00000000, .vfmin 4 5 1 13 2),
  (3, 0b010110_101_1110_0111_0001_100_00000000, .vfmax 5 14 7 1 4),
  (3, 0b010111_110_0101_0100_1000_111_000000_10, .vfsgn 6 5 4 8 7 2),
  (3, 0b011000_101_0_001_0100_1000_011_0000_0_011, .vcmp 5 1 4 8 3 0 3),
  (3, 0b011001_100_1110_0011_1100_011_00000000, .vsel 4 14 3 12 3),
  (3, 0b011010_100_0101_1001_0101_100_10011100, .vmovi 4 5 9 5 4 156),
  (3, 0b011011_100_1000_00000000_101_000_11100, .vmovx 4 8 5 28),
  (3, 0b011100_100_1010_1100_0000_001_00000000, .vmov 4 10 12 1),
  (3, 0b011101_100_0001_1101_0000_010_00000000, .xmv 4 1 13 2),
  (3, 0b011111010_1100_00000000_011_000_10100, .vrand 12 3 20)] = true := by decide +kernel

/-- Lane moves, reductions, conversions and predicates (R69, R127 to R135), each written out field by field from its entry, the highest bit first. -/
theorem test_words_vectorMove : reads [
  (3, 0b011110_100_0101_0101_0000_101_00000000, .vshuf4 4 5 5 5),
  (3, 0b100000_100_0101_1100_0001_100_0000000_1, .vperm 4 5 12 1 4 1),
  (3, 0b100001_100_1011_1100_0000_111_01100101, .vrot 4 11 12 7 101),
  (3, 0b100010_100_1010_0011_0000_001_01001101, .vbcast 4 10 3 1 77),
  (3, 0b100011_100_0001_0101_1000_110_0000000_0, .vzip 4 1 5 8 6 0),
  (3, 0b100100_100_0010_1011_0100_001_0000000_1, .vuzp 4 2 11 4 1 1),
  (3, 0b100101_100_0111_1101_0000_111_00000000, .vrsum 4 7 13 7),
  (3, 0b100110_001_0111_1010_0000_101_00000000, .vrmax 1 7 10 5),
  (3, 0b100111_101_1100_1100_0000_110_00000000, .vrmin 5 12 12 6),
  (3, 0b101000_100_1011_1000_1110_111_01001_101, .vcvt 4 11 8 14 7 9 5),
  (3, 0b101001_001_0111_1000_0111_110_11010_101, .vpack 1 7 8 7 6 26 5),
  (3, 0b101010_101_1110_1100_0000_010_01110_010, .vunpk 5 14 12 0 2 14 2),
  (3, 0b1011000000_011_0_100_0_111_0000000_1101, .plog 3 4 7 13),
  (3, 0b101101_001_000000000000_001_000_00001, .pcnt 1 1 1),
  (3, 0b101110_101_000000000000_110_000_11001, .pfirst 5 6 25),
  (3, 0b101111_100_0_100_00000000000000_10011, .pset 4 4 19),
  (3, 0b1100000000000_0101_0000000_10100110, .vspill 5 166),
  (3, 0b110001000_1101_00000000000_01111001, .vfill 13 121),
  (3, 0b110010_100_0101_0101_0011_000000_00110, .vext 4 5 5 3 6),
  (3, 0b110011_100_1000_0110_1100_000000_10010, .vins 4 8 6 12 18)] = true := by decide +kernel

/-- Special functions and accumulator moves (R69, R137 to R141), each written out field by field from its entry, the highest bit first. -/
theorem test_words_special : reads [
  (5, 0b110100_100_1000_0011_0000_100_00000000, .vexp2 4 8 3 4),
  (5, 0b110101_101_1010_1101_0000_001_00000000, .vlog2 5 10 13 1),
  (5, 0b110110_011_0010_1100_0000_010_00000000, .vrcp 3 2 12 2),
  (5, 0b110111_100_0101_1110_0000_001_00000000, .vrsqrt 4 5 14 1),
  (5, 0b111000_101_1101_0010_0000_110_00000000, .vsqrt 5 13 2 6),
  (5, 0b111001_011_0001_1100_0000_100_00000000, .vtanh 3 1 12 4),
  (5, 0b111010_100_0010_0111_0000_110_00000000, .verf 4 2 7 6),
  (5, 0b111011_011_1000_00_01_1_011_001_01_110110, .acr 3 8 1 1 3 1 1 54),
  (5, 0b111100_011_00_01_0100_0000_101_01_101010, .acw 3 1 4 5 1 42),
  (5, 0b111101101_1110_0_1_10_0000_001_00000000, .acs 14 1 2 1),
  (5, 0b1111101010_0_01_1100_0000_010_00000000, .acsw 0 1 12 2)] = true := by decide +kernel

/-- VM words (R70), each written out field by field from its entry, the highest bit first. -/
theorem test_words_vectorMem : reads [
  (4, 0b00000000000000000000000000000000, .vmNop),
  (4, 0b00001_10111_111011_01111_010_00101111, .vld 23 59 15 2 47),
  (4, 0b000100_1010_011011_11010_010_00010010, .vst 10 27 26 2 18),
  (4, 0b00011_10100_001110_00010_101_00011100, .vlds 20 14 2 5 28),
  (4, 0b001000_1011_011001_11000_001_01001000, .vsts 11 25 24 1 72),
  (4, 0b00101_00010_100101_0_1010_001_10111111, .vgth 2 37 10 1 191),
  (4, 0b001100_0111_111001_0_1010_010_00000011, .vsct 7 57 10 2 3),
  (4, 0b00111_00011_0000000_1011_101_01011011, .vldl 3 11 5 91),
  (4, 0b010000_1011_0000000_0001_010_10110011, .vstl 11 1 2 179),
  (4, 0b01001_00101_100101_10110_101_01001011, .vldf 5 37 22 5 75),
  (4, 0b010100_1010_001111_01001_001_10001110, .vste 10 15 9 1 142),
  (4, 0b010110_0100_00_0101_0000000000000000, .vpush 4 5),
  (4, 0b01100_11001_00_0101_0000000000000000, .vpop 25 5),
  (4, 0b011010_0011_110100_01000_111_01100000, .vstb 3 52 8 7 96),
  (4, 0b011100_1000_110000_10110_100_000_11000, .vred 8 48 22 4 24),
  (4, 0b0111100000_001001_10111_001_10101000, .vpref 9 23 1 168)] = true := by decide +kernel

/-- MX words (R71), each written out field by field from its entry, the highest bit first. -/
theorem test_words_matrix : reads [
  (6, 0b00000000000000000000000000000000, .mxNop),
  (6, 0b0000100_0010_111111_0_00000000000000, .mwl 2 0),
  (6, 0b00010_11_1011_001101_1_00000000_010110, .mma 3 11 13 1 22),
  (6, 0b00011_01_0010_001101_0_00000000_010110, .mmz 1 2 13 0 22),
  (6, 0b00100_01_1010_001101_1_0_1_000000_010110, .mmg 1 10 13 1 1 22),
  (6, 0b00101_10_0100_001101_0_10_000000_010110, .mtl 2 4 13 0 2 22),
  (6, 0b00110_01_1000_001101_0_10_0000_010110_10, .msm 1 8 13 2 22 2),
  (6, 0b00111_10_000000000000_0_000000000000, .mclr 2 0),
  (6, 0b01000_01_1101_001101_0_11_000000_010110, .mout 1 13 13 3 22),
  (6, 0b01001_01_00000000000_10_0000000000_11, .mside 1 2 3),
  (6, 0b0101000000000000000_1_000000000000, .mwait 1)] = true := by decide +kernel

/-- ST words (R72), each written out field by field from its entry, the highest bit first. -/
theorem test_words_stream : reads [
  (7, 0b00000000000000000000000000000000, .stNop),
  (7, 0b00000100_11_011001_000100_11100_00101, .cpy 3 25 4 28 5),
  (7, 0b000010_0111_101100_0000_01_11000_00011, .cpyq 7 44 1 24 3),
  (7, 0b000011_1011_0000_10_110101_00111_00101, .cpyo 11 2 53 7 5),
  (7, 0b000100000_0_00000000000000000_10111, .cwait 0 23),
  (7, 0b000101_1010_000000000000_01101_00000, .ringi 10 13),
  (7, 0b000110_1110_010000_0000_10_01011_11110, .wset 14 16 2 11 30),
  (7, 0b000111_1010_000000000000_10111_01100, .wadv 10 23 12),
  (7, 0b001000_1101_011001_011001_00101_11000, .kpost 13 25 25 5 24),
  (7, 0b0010010000000000000000_01100_11010, .kwait 12 26),
  (7, 0b0010100000000000000000_11100_01100, .ovl 28 12),
  (7, 0b0010110000_100010_0000_01_10011_00000, .pref 34 1 19),
  (7, 0b001100000_0_100101_0000000000000000, .res 0 37)] = true := by decide +kernel

/-- Each check of WellFormed refuses a term: R95, R98, R100, R101, R112, R114. -/
theorem test_illFormed_control : ([
  .br 0 0 6 1 4, .loop 0 0 3 0, .loopi 0 0 0 3, .loopi 0 0 3 0, .waitc 0 0 0, .iwait 0 0 128, .shw 3 0 0 1, .shr 3 0 0 1,
  .getd 0 5 1, .getd 0 11 1, .getd 2 1 1, .setd 0 0 1, .setd 0 2 1, .setd 1 0x1F 1] : List Instr).any WellFormed = false := by
  decide +kernel

/-- A scope of 3 and a fence of kind 3 are refused in every custom-2 word (R68, R195, R199). -/
theorem test_illFormed_scopes : ([
  .amoadd 3 1 2 0 3, .amoswap 3 1 2 0 3, .amocas 3 1 2 0 3, .amoand 3 1 2 0 3, .amoor 3 1 2 0 3, .amoxor 3 1 2 0 3,
  .amomin 3 1 2 0 3, .amomax 3 1 2 0 3, .amominu 3 1 2 0 3, .amomaxu 3 1 2 0 3, .amofadd 3 1 2 3, .redadd 3 1 2 0,
  .redand 3 1 2 0, .redor 3 1 2 0, .redxor 3 1 2 0, .redmin 3 1 2 0, .redmax 3 1 2 0, .redminu 3 1 2 0, .redmaxu 3 1 2 0,
  .redfadd 3 1 2, .redofadd 3 1 2 3, .lda 3 1 0 2, .stl 3 1 2 0, .fence 3 0, .fence 0 3] : List Instr).any WellFormed = false := by
  decide +kernel

/-- The element types and amounts that the entries refuse (R122, R123, R124, R126, R127, R137). -/
theorem test_illFormed_vector : ([
  .vadd 3 1 2 3 0, .vsub 4 1 2 3 0, .vmul 5 1 2 3 0, .vmac 6 1 2 3 0, .vand 7 1 2 3 0, .vor 3 1 2 3 0, .vxor 3 1 2 3 0,
  .vmulh 3 1 2 3 0 0, .vmin 4 1 2 3 0 0, .vmax 5 1 2 3 0 1, .vabs 6 1 2 0, .vadds 7 1 2 3 0 0 0, .vshl 3 1 2 0 0 1 4,
  .vshl 0 1 2 0 0 1 8, .vshr 1 1 2 0 0 1 16, .vsra 2 1 2 3 0 1 4, .vsra 2 1 2 3 0 0 4, .vfadd 2 1 2 3 0, .vfsub 1 1 2 3 0,
  .vfmul 0 1 2 3 0, .vfma 2 1 2 3 0, .vfms 2 1 2 3 0, .vfmin 2 1 2 3 0, .vfmax 2 1 2 3 0, .vfsgn 2 1 2 3 0 0,
  .vfsgn 5 1 2 3 0 3, .vcmp 2 1 2 3 0 0 6, .vcmp 5 1 2 3 0 1 0, .vmovi 0 1 0 1 0 9, .vmovi 6 1 1 0 0 9, .vrot 2 1 2 0 64,
  .vbcast 1 1 2 0 128, .vext 2 4 1 0 3, .vins 4 1 8 0 3, .vexp2 2 1 2 0, .vlog2 6 1 2 0, .vrcp 7 1 2 0, .vrsqrt 1 1 2 0,
  .vsqrt 0 1 2 0, .vtanh 6 1 2 0, .verf 7 1 2 0] : List Instr).any WellFormed = false := by decide +kernel

/-- The formats, modes, parts and rows that the entries refuse (R129, R130, R139, R140, R156, R157, R165, R175, R177, R221). -/
theorem test_illFormed_formats : ([
  .vcvt 5 1 2 0 0 6 0, .vcvt 5 1 2 0 0 0x0D 0, .vcvt 5 1 2 0 0 4 7, .vcvt 5 1 2 3 0 4 0, .vpack 5 1 2 0 0 0x0C 0,
  .vpack 5 1 2 0 0 0x12 0, .vpack 5 1 2 0 0 0x1D 0, .vpack 5 1 2 0 0 0x18 7, .vunpk 5 1 2 1 0 0x18 0, .acr 5 1 0 0 0 0 1 0,
  .acr 3 1 0 0 0 0 2 0, .acr 5 1 0 0 5 0 0 0, .acr 5 1 0 0 7 0 0 0, .acw 5 0 1 0 1 0, .acw 4 0 1 0 3 0, .vred 1 7 2 0 9,
  .vred 1 7 3 0 0x18, .mma 0 1 63 0 1, .mmz 0 1 1 0 63, .mout 0 1 32 0 32, .mmg 0 1 60 0 0 4, .mtl 0 1 63 0 0 63,
  .msm 0 1 63 0 1 1, .msm 2 1 0 0 0 2, .mside 0 3 0, .cwait 1 3] : List Instr).any WellFormed = false := by decide +kernel

/-- SA accepts no custom-1, custom-2 or custom-3 word, and VA no special function or accumulator move (R68, R69). -/
theorem test_slotsThatRefuse :
    ([.ldfW 1 2, .waitvEq 1 2 3, .amofadd 0 1 2 3, .fence 0 0, .tget 0 0 1, .rand 3] : List Instr).any (wellFormedIn 1) = false ∧
      ([.ldfW 1 2, .waitvEq 1 2 3, .amofadd 0 1 2 3, .fence 0 0, .tget 0 0 1, .rand 3] : List Instr).all (wellFormedIn 2) = true ∧
      ([.vexp2 5 1 2 0, .acr 5 1 0 0 0 0 0 0, .acsw 0 0 1 0] : List Instr).any (wellFormedIn 3) = false ∧
      ([.vexp2 5 1 2 0, .acr 5 1 0 0 0 0 0 0, .acsw 0 0 1 0] : List Instr).all (wellFormedIn 5) = true := by decide +kernel

/-- Words that no entry gives are not decoded (R73): a reserved CTL opcode, a set bit of an unused field, a funct7 of no row,
a VM opcode of no row. -/
theorem test_words_refused :
    decodeSlot 0 0x01F00000 = none ∧ decodeSlot 0 0x00000001 = none ∧ decodeSlot 1 0x40001033 = none ∧
      decodeSlot 2 0x00000033 = some (.add 0 0 0) ∧ decodeSlot 4 0xF8000000 = none ∧ decodeSlot 7 0x00000001 = none := by decide +kernel

/-! ## Results -/

/-- A vector register of the A cluster given 32-bit lanes. -/
def withV (k : Nat) (f : Nat → Nat) (s : State := base) : State := with0 (fun c => { c with regs := { c.regs with v := (k, BitVec.ofNat 2048 ((List.range 64).foldl (fun a i => a + f i % 2 ^ 32 * 2 ^ (32 * i)) 0)) :: c.regs.v } }) s

/-- The result that an instruction of core 0 leaves in flight. -/
def lastResult (o : Host.Outcome State Fault Refusal) : Option Payload :=
  match o with
  | .next t => (getCore t 0).pend.getLast?.map (fun e => e.what)
  | _ => none

/-- The value of a scalar result in flight. -/
def xAfter (s : State) (i : Instr) : Option Nat :=
  match lastResult (exec i s) with
  | some (.x _ v) => some v.toNat
  | _ => none

/-- Element j of size `size` of a vector result in flight. -/
def laneAfter (s : State) (i : Instr) (size j : Nat) : Option Nat :=
  match lastResult (exec i s) with
  | some (.vec _ _ v _) => some (elem v size j)
  | _ => none

/-- The flags of a result in flight. -/
def flagsAfter (s : State) (i : Instr) : Option FpFlags :=
  match exec i s with
  | .next t => (getCore t 0).pend.getLast?.map (fun e => e.flags)
  | _ => none

/-- Additions wrap, and a word operation extends the sign of its low 32 bits (R108, by hand). -/
theorem test_addiWraps : xAfter base (.addi 1 7 5) = some 0 ∧ xAfter base (.addiw 0x7FF 6 5) = some 0xFFFFFFFF9ABCE6EF := by decide +kernel

/-- LUI extends its sign; SLTIU compares with the immediate extended and then read unsigned (R108, by hand). -/
theorem test_luiSltiu : xAfter base (.lui 0x80000 5) = some 0xFFFFFFFF80000000 ∧ xAfter base (.sltiu 0xFFF 8 5) = some 1 := by decide +kernel

/-- The shifts (R108, by hand): SRLI of 2^63 by 60, SRAIW of 0x9ABCDEF0 by 4, SLLW of 3 by 63 mod 32. -/
theorem test_shifts : xAfter base (.srli 60 9 5) = some 8 ∧ xAfter base (.sraiw 4 6 5) = some 0xFFFFFFFFF9ABCDEF ∧
    xAfter base (.sllw 7 8 5) = some 0xFFFFFFFF80000000 := by decide +kernel

/-- The high products of −1 and 2^63 in their three readings (R108, by hand). -/
theorem test_highProducts : xAfter base (.mulh 9 7 5) = some 0 ∧ xAfter base (.mulhu 9 7 5) = some 0x7FFFFFFFFFFFFFFF ∧
    xAfter base (.mulhsu 9 7 5) = some 0xFFFFFFFFFFFFFFFF := by decide +kernel

/-- Division by zero and the overflow of the most negative number (R109). -/
theorem test_divisionCorners : xAfter base (.div 0 6 5) = some 0xFFFFFFFFFFFFFFFF ∧ xAfter base (.rem 0 6 5) = some 0x123456789ABCDEF0 ∧
    xAfter base (.div 7 9 5) = some 0x8000000000000000 ∧ xAfter base (.rem 7 9 5) = some 0 ∧
    xAfter base (.remuw 0 6 5) = some 0xFFFFFFFF9ABCDEF0 := by decide +kernel

/-- The counts of bits (R115, by hand). -/
theorem test_bitCounts : xAfter base (.clz 8 5) = some 62 ∧ xAfter base (.ctz 9 5) = some 63 ∧ xAfter base (.popc 7 5) = some 64 ∧
    xAfter base (.clz 0 5) = some 64 := by decide +kernel

/-- Loads read little-endian bytes and extend as their mnemonic says (R40, R110): the bytes at x5 are 88 87 86 85 84 83 82 81. -/
theorem test_loads : xAfter base (.lb 0 5 4) = some 0xFFFFFFFFFFFFFF88 ∧ xAfter base (.lhu 2 5 4) = some 0x8586 ∧
    xAfter base (.lw 4 5 4) = some 0xFFFFFFFF81828384 ∧ xAfter base (.ld 0 5 4) = some 0x8182838485868788 := by decide +kernel

/-- VSRA.I8 of 0x90 by 3 gives 0xF2, and VSHR.I8 of the same value gives 0x12 (the example of R122). -/
theorem test_vectorShifts : laneAfter (withV 1 (fun _ => 0x90)) (.vsra 0 2 1 0 0 1 3) 1 0 = some 0xF2 ∧
    laneAfter (withV 1 (fun _ => 0x90)) (.vshr 0 2 1 0 0 1 3) 1 0 = some 0x12 := by decide +kernel

/-- VADDS saturates, signed and unsigned; VABS of the most negative value; the high half of a signed product (R122, by hand). -/
theorem test_vectorIntegers :
    laneAfter (withV 1 (fun _ => 0x7F) (withV 2 (fun _ => 1))) (.vadds 0 3 1 2 0 0 0) 1 0 = some 0x7F ∧
    laneAfter (withV 1 (fun _ => 0xFF) (withV 2 (fun _ => 1))) (.vadds 0 3 1 2 0 0 1) 1 0 = some 0xFF ∧
    laneAfter (withV 1 (fun _ => 0x80000000)) (.vabs 2 3 1 0) 4 5 = some 0x7FFFFFFF ∧
    laneAfter (withV 1 (fun _ => 0x8000)) (.vmulh 1 3 1 1 0 0) 2 0 = some 0x4000 := by decide +kernel

/-- Floating results round once to nearest even, and an E4M3 overflow gives the NaN 0x7F with OF (R47, R123, Table 2.4). -/
theorem test_vectorFloats :
    laneAfter (withV 1 (fun _ => 0x4B800000) (withV 2 (fun _ => 0x3F800000))) (.vfadd 5 3 1 2 0) 4 9 = some 0x4B800000 ∧
    laneAfter (withV 1 (fun _ => 0x7E) (withV 2 (fun _ => 0x7E))) (.vfmul 6 3 1 2 0) 1 0 = some 0x7F ∧
    flagsAfter (withV 1 (fun _ => 0x7E) (withV 2 (fun _ => 0x7E))) (.vfmul 6 3 1 2 0) = some flagOF := by decide +kernel

/-- VRSUM over no enabled element is −0.0 for a floating type and 0 for an integer type; VRMAX of E4M3 is then −448 (R61). -/
theorem test_emptyReductions : laneAfter base (.vrsum 5 3 1 1) 4 0 = some 0x80000000 ∧ laneAfter base (.vrsum 2 3 1 1) 4 0 = some 0 ∧
    laneAfter base (.vrmax 6 3 1 1) 1 0 = some 0xFE := by decide +kernel

/-- Special functions at exact points: 2^0, the square root of 2, log2 8, 1/0 with DZ (R57, Table 2.6). -/
theorem test_specialFunctions : specialElem .exp2 fp32 0 = (0x3F800000, 0) ∧ specialElem .sqrt fp32 0x40000000 = (0x3FB504F3, 0) ∧
    specialElem .log2 fp32 0x41000000 = (0x40400000, 0) ∧ specialElem .rcp fp32 0 = (0x7F800000, flagDZ) := by decide +kernel

/-- The worked B4F block of R49: scale 0x7E, elements 0.5, 3.0, −0.25 and −1.0. -/
theorem test_workedBlock : (upTo 5).map (fun i => (encodeFloat fp32 0 false 0 (blockElem 0x20 0xC9727E i)).1) =
    [0x3F000000, 0x40400000, 0xBE800000, 0xBF800000, 0] := by decide +kernel

/-- Table 2.3: the worked O4 bytes. -/
theorem test_workedO4 : [0x3F, 0x8A, 0x58, 0x88].map (fun b => decodeO4Pair (b % 16) (b / 16)) = [(-1, 3), (0, -8), (64, 0), (0, 0)] := by
  decide

/-- The worked Philox block of R59: its four words, and the first four RANDs. -/
theorem test_workedPhilox : philox 0 0 0 0 0 0 = ⟨0x6627E8D5, 0xE169C58D, 0xBC57AC4C, 0x9B00DBD8⟩ ∧
    (upTo 4).map (scalarRandom 0 0) = [0x6627E8D5, 0xE169C58D, 0xBC57AC4C, 0x9B00DBD8] := by decide +kernel

/-- The worked group with truncation of R62: the sum is 2^−29 and not the exact 1.625 × 2^−29. -/
theorem test_workedGroup :
    groupSum ((([(0x3F80, 0x3F80), (0xBF80, 0x3F80), (0x3840, 0x3800), (0x3860, 0x3800)] : List (Nat × Nat)) ++ List.replicate 28 (0, 0)).map
      (fun (p : Nat × Nat) => (decodeFloat bf16 p.1, decodeFloat bf16 p.2))) 0 false = (0x31000000, 0) := by decide +kernel

/-- The worked tree of R371, level by level: 1.0, then 1 + 2^−23, then 0x3F800002. -/
theorem test_workedTree :
    collectOp 1 0x08 0x3F800000 0x33800000 = 0x3F800000 ∧ collectOp 1 0x08 0x33800000 0x33800000 = 0x34000000 ∧
      collectOp 1 0x08 0x3F800000 0x34000000 = 0x3F800001 ∧ collectOp 1 0x08 0x3F800001 0x34000000 = 0x3F800002 := by decide +kernel

/-- The worked walk of R348: level-2 entry 2 is a leaf for 0x3008000000. -/
theorem test_workedWalk :
    walkTable (laid State.reset [(0x10000, 8, 0x20001), (0x20010, 8, 0x300800001D)]) 0x10000 0x10000300 =
      .leaf 27 0 0 0x3008000000 true true := by decide +kernel

/-- The worked decision of R321, newcomer with T = 8: cores 0 and 3 drain, core 1 is checkpointed. -/
theorem test_workedDecision :
    let at0 := fun (d : Nat) (ck : Bool) (ph : TaskPhase) =>
      (getCore (decideCore (with0 (fun c => { c with dev := { c.dev with est := BitVec.ofNat 64 d }, task := some { aTask with ckpt := ck, phase := ph } })) 0 0 8 false) 0).outcome;
    at0 25000 true .running = .drain ∧ at0 300000 true .running = .checkpoint ∧ at0 900000 false (.ending false) = .drain := by decide +kernel

/-- R384 names SHA-256: the example of FIPS 180-4, the three bytes "abc". -/
theorem test_sha256_of_abc : (sha256 [0x61, 0x62, 0x63]).take 8 = [0xBA, 0x78, 0x16, 0xBF, 0x8F, 0x01, 0xCF, 0xEA] := by decide +kernel

/-! ## States of the witnesses -/

def dueX : Pending := { id := 1, dest := some (.x 5), what := .x 5 17, due := some 100, waits := 0, age := 0, flags := 0, replay := false }
def preparedAt (p : Nat) : State := { base with link := { base.link with peers := [{ dest := 0, node := 9, job := 1, rank := 1, launch := 4, bytes := [⟨1, 0, p, 5, 0, false⟩], prepared := true, askAt := 0 }] } }
def farPage (wr : Bool := true) : State := with0 (fun c => { c with tlb := [⟨3, 16, 1, 9, 0x500000, true, wr, none⟩, ⟨1, 16, 0, 0, 0x200000, true, true, none⟩] })
def aJob : Job := { id := 2, tag := some 3, kind := .cpy, bundle := 4, reads := [⟨0, 0x10000, 0x10020⟩], writes := [⟨0, 0x10000, 0x10020⟩] }
def tagged : State := { base with tags := [(2 ^ 42 + 0x40) / 4] }
def so (a : Nat) : SyncOp := { id := a, kind := .barw 0, place := 0, rd := none, armed := a }
def wv (ne : Bool) (v : Nat) (d : Nat) : SyncOp := { id := 2, kind := .waitv ne v (some d), place := 2 ^ 42 + 0x40, rd := some 4, armed := 0 }
def pw : Pending := { id := 2, dest := some (.x 4), what := .x 4 0, due := none, waits := 1, age := 0, flags := 0, replay := false }
def resTask : Task := { aTask with mode := 2, kind := .resident, slot := none }
def resLaunch : Launch := { aLaunch with desc := { aRecord with mode := 2, flags := 8 }, a := { started := true, blocks := [0x10100] } }
def ent : Entry := { launch := 1, run := false, work := .block 0x10100, cls := 0, key := 0, seq := 0, lo := 0, hi := 15, overflow := false }
def resident : State := withCtx (fun c => { c with launches := [resLaunch], board := [ent] }) (with0 (fun c => { c with task := some resTask }))
def gotRes : Found := (findWork resident ⟨0, 0, some (1, false)⟩ true).getD ⟨ent, base⟩
def residentFull : State := { resident with hw := { resident.hw with slots := upTo 1024 } }
def gotFull : Found := (findWork residentFull ⟨0, 0, some (1, false)⟩ true).getD ⟨ent, base⟩
def tgetOf (wait : Bool) : SyncOp := { id := 2, kind := .tget true wait none, place := 0, rd := some 4, armed := 0 }
def workless (l : Launch) : State := withCtx (fun c => { c with launches := [l], board := [] }) resident
def residentFar : State := withCtx (fun c => { c with launches := [resLaunch], board := [{ ent with work := .block 0x30100 }] }) (with0 (fun c => { c with task := some resTask }))
def gotFar : Found := (findWork residentFar ⟨0, 0, some (1, false)⟩ true).getD ⟨ent, base⟩
def aRec (base extent fmt space : Nat) (more : Nat := 0) : BitVec 256 := BitVec.ofNat 256 (base + extent * 2 ^ 64 + fmt * 2 ^ 184 + space * 2 ^ 200 + more)
def withRec (r : BitVec 256) (s : State := base) : State := with0 (fun c => { c with regs := { c.regs with recs := [(7, r)], recAddr := [(7, 0x777)] } }) s
def rr : Record := recordOf (aRec 0x40 100 4 3 (2 ^ 32 * 2 ^ 104 - 8 * 2 ^ 104 + 3 * 2 ^ 136 + 10 * 2 ^ 168))
def withRing (r : Ring) (s : State := base) : State := with0 (fun c => { c with regs := { c.regs with rings := [(2, r)] } }) s
def vring : Ring := { base := 0x100, slot := 256, cap := 4, fmt := 4, filled := 2, free := 1, head := 2, tail := 3 }
def mring : Ring := { base := 0x1000, slot := 256, cap := 80, fmt := 0, filled := 70, free := 10, head := 75, tail := 65 }
def fmxOp : MxOp := { id := 1, kind := .mma, ring := 2, count := 1 }
def gang (j : Bool) : State := { base with cores := (List.range 16).map (fun n => (n, { aCore with logical := n, mx := { aCore.mx with joined := j || n == 0 }, regs := { aCore.regs with rings := [(2, mring)] } })) }
def withOp (o : MxOp) (r : Ring := mring) : State := with0 (fun c => { c with mx := { c.mx with queue := [o] }, regs := { c.regs with rings := [(2, r)] } })
def rop : MxOp := { id := 1, kind := .mma, ring := 2, count := 2, slots := [2 ^ 42 + 0x40, 2 ^ 42 + 0x140] }
def pop : MxOp := { id := 1, kind := .mout, acc := 1, ring := 2, count := 2, fmt := 8, outs := [2 ^ 42 + 0x1000] }
def tlop : MxOp := { id := 1, kind := .mtl, ring := 2, count := 1, rows := [7], stepping := true, steps := 2, fmt := 0 }
def hs (k v : Nat) (s : State := base) : State := with0 (fun c => { c with regs := { c.regs with shape := c.regs.shape ++ [(k, BitVec.ofNat 32 v)] } }) s
def recs (l : Sparse (BitVec 256)) (s : State := base) : State := with0 (fun c => { c with regs := { c.regs with recs := l } }) s
def commed (s : State := base) : State := withCtx (fun c => { c with comms := [(3, { en := true, size := 2, pos := 0 })] }) s
def job1 : Job := { id := 1, tag := some 3, kind := .kpost, bundle := 0, coll := some (3, 7) }
def coll1 : Coll := { k := 3, seq := 7, prm := 0, send := 0, recv := 0, f1 := 0, f2 := 0, f3 := 0, launch := 1, run := false, flagged := [3] }
def ix : Pending := { dueX with id := 2, due := none }
def accP : Pending := { ix with dest := some (.acc 3) }
def ovlJob : Job := { id := 2, tag := some 3, kind := .ovl, phase := .running, bundle := 0, first := 2, image := 1, rows := 2, regions := [2, 3] }
def cpyJob : Job := { id := 2, tag := some 3, kind := .cpy, bundle := 4, src := aRec 0x40 256 4 3, dst := aRec 0x400 256 4 3, f0 := 0x10004, rows := 1, reads := [⟨3, 0x40, 0x140⟩], writes := [⟨3, 0x400, 0x500⟩], launch := 1, slot := 0 }
def withJobs (l : List Job) (s : State := base) : State := with0 (fun c => { c with jobs := l }) s
def jring : Ring := { base := 0x1000, slot := 64, cap := 4, fmt := 4, filled := 2, free := 1, head := 1, tail := 3 }
def ringJob (k : JobKind) : Job := { cpyJob with kind := k, phase := .running, rows := 2, cols := 4, ring := 2 }
def onRing (s : State := base) : State := with0 (fun c => { c with regs := { c.regs with rings := [(2, jring)] } }) s
def fullLaunch : Launch := { aLaunch with desc := { aRecord with budget := 1, foot := [⟨0, 1, 2, 0x8000, 0x10000⟩] }, shadow := [⟨1, false, 0, 0x200F00, 0x10F00, 5, false⟩] }
def tight (j : Job) : State := onRing (withJobs [j] (withCtx (fun c => { c with launches := [fullLaunch], spillCap := 0 })))
def tightO : Job := { ringJob .cpyo with dst := aRec 0x10000 256 4 0 }
def tightC : Job := { id := 2, tag := some 3, kind := .cpy, phase := .running, bundle := 4, src := aRec 0x40 256 4 3, dst := aRec 0x10000 256 4 0, f0 := 0x10004, rows := 1, launch := 1, slot := 0 }
def okJob : Job := { cpyJob with phase := .running }
def badJob : Job := { cpyJob with phase := .running, dst := aRec 0x400 4 4 3 }
def idleCore (f : Ctx → Ctx) : State := withCtx f (with0 (fun c => { c with task := none, status := .idle }))
def resDesc : LaunchRec := { aRecord with mode := 2, flags := 8 }
def freshRes : Launch := { aLaunch with desc := resDesc, a := { started := true } }
def pentry : Entry := { launch := 1, run := false, work := .point 0, cls := 0, key := 0, seq := 0, lo := 0, hi := 16, overflow := false }
def exactLaunch : Launch := { aLaunch with desc := { aRecord with flags := 8 }, a := { started := true, points := [⟨0, 0, .ready, 0, 0⟩] } }
def heldT (k : TaskKind) (m item : Nat) : Task := heldTask m 1 false k item
def holding (t : Task) (l : Launch) : State := withCtx (fun c => { c with launches := [l] }) (with0 (fun c => { c with task := some t, status := .idle }))
def slotsFull : State := { holding (heldT .point 0 0) exactLaunch with hw := { base.hw with slots := upTo 1024 } }
def seekIdle : State := idleCore (fun c => { c with launches := [exactLaunch], board := [pentry] })
def gotIdle : Found := (findWork seekIdle ⟨0, 0, none⟩ false).getD ⟨pentry, base⟩
def tgetOp : SyncOp := { id := 2, kind := .tget true true none, place := 0, rd := some 4, armed := 0 }
def doneSlot : Slot := { num := 0, deps := [], core := 0, item := 0, kind := .point, completed := true, stamp := 1 }
def doneLaunch : Launch := { aLaunch with a := { aLaunch.a with slots := [doneSlot] } }
def queued (b : Nat) : Ctx := { aCtx with queues := [(2, { en := true, tail := 1, base := b, logSize := 3 })], rung := [2] }
def peer1 : PeerShadow := { dest := 0, node := 9, job := 1, rank := 1, launch := 4, bytes := [⟨1, 0, 0x200010, 5, 0, false⟩], prepared := false, askAt := 0 }
def held1 : State := { base with link := { base.link with peers := [{ peer1 with prepared := true }] } }
def wait1 : Launch := { aLaunch with phase := .waiting, a := {} }
def runDoneL (flags : Nat) (sh : List ShadowByte) : Launch := { aLaunch with desc := { aRecord with flags := flags, mode := 2 }, a := { started := true, halted := List.range 16 }, b := { started := true, halted := List.range 16 }, shadow := sh }
def sole (l : Launch) : Ctx := { aCtx with launches := [l] }
def soleS (l : Launch) : State := with0 (fun c => { c with task := none, status := .idle }) (setCtx base 0 (sole l))
def comp (o : Origin) (ps : List Nat) : Launch := { aLaunch with phase := .complete, origin := o, peers := ps, a := { started := true } }
def family : Ctx := { aCtx with launches := [aLaunch, { comp (.child 1 false 0) [] with handle := 2 }] }
def prepL (hs : List Nat) : Launch := { aLaunch with phase := .preparing, holders := hs, peers := [9, 11], prepareBy := 0, a := { started := true } }
def ver : Version := ⟨.launch 0 7 false, false, false⟩
def step1 : ChunkStep := { ctx := 0, k := 3, seq := 7, chunk := 0, kind := .leaf, cls := 1, waited := 2 }
def step2 : ChunkStep := { ctx := 0, k := 3, seq := 7, chunk := 1, kind := .leaf, cls := 2, waited := 0 }
def req1 : SlotRequest := { node := 9, rank := 1, ctx := 0, k := 3, seq := 7, chunk := 0, level := 1, index := 0, since := 5 }
def collG : Coll := { k := 3, seq := 7, prm := 3 + 12 * 2 ^ 32 + 7 * 2 ^ 48, send := 0, recv := 0, f1 := 0, f2 := 0, f3 := 0, launch := 1, run := false, flagged := [], go := true, started := true }
def cctx (q : Coll) : Ctx := { aCtx with colls := [q], comms := [(3, { en := true, size := 2, pos := 0, nextSeq := 7 })] }
def chor : State := { setCtx base 0 (cctx collG) with chorus := { steps := [step1, step2], requests := [(0, [req1]), (4, [req1])], used := [(0, 31), (1, 32)] } }
def collR : Coll := { collG with send := BitVec.ofNat 256 (0x10000 + 64 * 2 ^ 64), recv := BitVec.ofNat 256 (0x10000 + 64 * 2 ^ 64), got := [(0, 64)] }
def done0 : Coll := { collG with prm := 0 + 12 * 2 ^ 32 + 7 * 2 ^ 48, sent := ownSteps base { en := true, size := 2, pos := 0, nextSeq := 7 } { collG with prm := 0 + 12 * 2 ^ 32 + 7 * 2 ^ 48 }, got := [(0, 0)] }
def f0 : Coll := { collG with fault := some (.protect, 5) }
def allSent (q : Coll) : Coll := { q with flagged := [0], sent := ownSteps (setCtx base 0 (cctx q)) { en := true, size := 2, pos := 0, nextSeq := 7 } q }
def doneR : Coll := allSent { collR with prm := 5 + 12 * 2 ^ 32 + 7 * 2 ^ 48 }
def pk (kind : Nat) (pl : List Byte) : Packet := { kind := kind, vc := 4, src := 9, dst := 3, job := 1, rank := 0, srank := 1, addr := 7 * 2 ^ 48 + 3 * 2 ^ 44, tag := 0, launch := 0, stamp := 0, payload := pl }
def askS : ChunkStep := { ctx := 0, k := 3, seq := 7, chunk := 0, kind := .up 0 0, cls := 0, waited := 0 }
def mp (kind : Nat) (pl : List Byte) : Packet := { kind := kind, vc := 4, src := 9, dst := 3, job := 1, rank := 0, srank := 1, addr := 0x200010, tag := 5, launch := 0, stamp := 0, payload := pl }
def fly1 : Fly := { ctx := 0, node := 9, phase := .forward, id := 1, ready := true, frames := [(0x20, 0x77)] }
def rq (kind core id : Nat) (j : Option Nat) : Request := { tag := 5, kind := kind, ctx := 0, core := core, id := id, off := 0, size := 8, signed := false, launch := 1, job := j, va := 0x30000, slot := 0, bundle := 0, stamp := 0 }
def withRq (r : Request) (s : State := base) : State := { s with link := { s.link with requests := [r] } }
def jw : Job := { id := 2, tag := some 3, kind := .cpy, phase := .running, bundle := 4, waits := 1, launch := 1, slot := 0 }
def cc (code : Nat) : Packet := { mp 0x20 (bytesOf 8 3) with tag := code, launch := 4, vc := 1 }
def peered : State := { base with link := { base.link with peers := [peer1] } }
def newL : Launch := { aLaunch with newcomer := true }
def newX : Ctx := { aCtx with job := 2, state := .parked, clusters := 16, part := [], launches := [newL] }
def parkedX : Ctx := { aCtx with state := .parked, part := [], images := [(0, { aCore with task := none })] }
def prm : ContextParams := { job := 2, rank := 0, nranks := 1, key0 := 0, key1 := 0, clusters := 2, root := 0x40000, chipBase := 0x20000, chipSize := 0x1000, wlog := 26, spill := 0, overflow := 0, allowance := 0, keep := 0, area := 0 }
def fly0 (ph : FlyPhase) (r : Bool) : Fly := { ctx := 0, node := 9, phase := ph, id := 1, ready := r, frames := [(0x20, 0x77)] }
def flew (f : Fly) (s : State := base) : State := { s with link := { s.link with flies := [f] } }
def fp (kind : Nat) (pl : List Byte) : Packet := { kind := kind, vc := 0, src := 9, dst := 3, job := 1, rank := 0, srank := 0, addr := 5 * 2 ^ 56, tag := 1, launch := 0, stamp := 0, payload := pl }
def copy1 : Copy := { node := 9, id := 1, ctxm := [], slot := 1, ctx := { aCtx with state := .parked, part := [], launches := [], code := [] }, complete := true }
def arr : State := { base with link := { base.link with copies := [copy1], flies := [fly0 .send false] } }
def copyN : Copy := { copy1 with ctxm := ctxmOf [], area := 0x100000 }
def bindAt : State := { arr with link := { arr.link with copies := [] } }
def bindP : Packet := fp 0x30 (1 :: ctxmOf [] ++ wordsOf [0x20000, 0x10, 1, 2, 1, 0, 1])
def prm1 : ContextParams := { job := 1, rank := 0, nranks := 2, key0 := 7, key1 := 9, clusters := 1, root := 0x40000, chipBase := 0, chipSize := 0x10000, wlog := 26, spill := 0, overflow := 0, allowance := 0, keep := 0, area := 0 }
def qctx : Ctx := { aCtx with queues := [(2, { en := true, tail := 1, base := 0x10000, logSize := 3 })], rung := [2] }
def expo : State := { base with host := { base.host with exported := [0x20] } }
def idleP (l : Nat) : State := { base with ctxs := [], plat := { base.plat with ltol := l, idle := 1800000 } }
def landed : State := { base with ctxs := [(1, { aCtx with state := .parked, part := [] })], link := { base.link with arrived := [⟨1, 9, 1⟩] } }
def ringCtx (n : Nat) : Ctx := { aCtx with ring := { aCtx.ring with base := 0x200000, size := n } }
def vecP : Pending := { id := 1, dest := some (.v true 3), what := .vec true 3 7 5, due := some 100, waits := 0, age := 0, flags := 1, replay := false }
def predP : Pending := { id := 1, dest := some (.p true 3), what := .pred true 3 7, due := some 100, waits := 0, age := 0, flags := 0, replay := false }

theorem noFreeSlot : freeTaskSlot slotsFull = none :=
  List.find?_eq_none.2 (fun k hk => by simp [show slotsFull.hw.slots = upTo 1024 from rfl, hk])


/-- A search of the board leaves the task slots as they are. -/
theorem board_keeps_hw {s : State} {q : Seeker} {f : Found} (h : findWork s q true = some f) :
    f.after.hw = s.hw := by
  simp only [findWork] at h
  split at h
  · simp at h
  · obtain ⟨r, -, e⟩ := Option.map_eq_some_iff.1 (by simpa only [if_true] using h)
    rw [← e]; rfl

/-- A search that finds something finds what it gives. -/
theorem found_of_isSome {o : Option Found} (d : Found) (h : o.isSome = true) : o = some (o.getD d) := by
  cases o <;> simp_all

/-- The search of a resident program while every task slot is taken. -/
theorem searchedFull : findWork residentFull ⟨0, 0, some (1, false)⟩ true = some gotFull :=
  found_of_isSome _ (by decide +kernel)

/-- The same, in the terms of the statement. -/
theorem searchedFullNamed :
    findWork residentFull ⟨0, (getCore residentFull 0).logical, some (resTask.launch, resTask.run)⟩ true = some gotFull := by
  rw [show (getCore residentFull 0).logical = 0 by decide +kernel, show (resTask.launch, resTask.run) = (1, false) by decide +kernel]
  exact searchedFull

theorem noSlotAfter : freeTaskSlot gotFull.after = none := by
  have h : gotFull.after.hw.slots = upTo 1024 := (congrArg MemHw.slots (board_keeps_hw searchedFull)).trans (show residentFull.hw.slots = upTo 1024 from rfl)
  exact List.find?_eq_none.2 (fun k hk => by simp [h, hk])

/-- A pair is the pair of its first part and what its second part is. -/
theorem pair_of_snd {α β : Type} {p : α × β} {b : β} (h : p.2 = b) : p = (p.1, b) := by
  cases p; cases h; rfl

/-! ## Witnesses of the hypotheses -/

/-- What CommittedSlotRunsItsInstruction assumes is met together: ADDI x5, x0, 7 in SA. -/
theorem witness_CommittedSlotRunsItsInstruction :
    ∃ t, (curCore base).status = .running ∧ exec (.addi 7 0 5) { base with issue := { base.issue with slot := 1 } } = .next t :=
  ⟨_, by decide +kernel, rfl⟩

/-- What NoOldTranslationOutlivesItsMapping assumes is met together: core 0 holds a translation, and a node of the table changes. -/
theorem witness_NoOldTranslationOutlivesItsMapping :
    ∃ t, getCtx base 0 ≠ none ∧ 0x30000 % 8 = 0 ∧ physExists 0x30000 = true ∧
      exec (.mappingChange 0 0x30000 0x20001D) base = .next t ∧ (getCore t 0).ctx = some 0 ∧ (getCore base 0).tlb ≠ [] :=
  ⟨_, by decide +kernel, by decide +kernel, by decide +kernel, rfl, by decide +kernel, by decide +kernel⟩

/-- What RegisterFormsChangeOnlyWhatIsInFlight assumes is met together, for VA and VB forms and for a scalar one. -/
theorem witness_RegisterFormsChangeOnlyWhatIsInFlight :
    (homeSlot (.vadd 2 1 2 3 0) = 3 ∧ ∃ t, exec (.vadd 2 1 2 3 0) base = .next t) ∧
      (homeSlot (.vexp2 5 1 2 0) = 5 ∨ homeSlot (.vexp2 5 1 2 0) = 3) ∧ (∃ t, exec (.vexp2 5 1 2 0) base = .next t) ∧
      (scalarRegisterForm (.addi 7 0 5) = true ∧ ∃ t, exec (.addi 7 0 5) base = .next t) :=
  ⟨⟨by decide, _, rfl⟩, by decide, ⟨_, rfl⟩, by decide, _, rfl⟩

/-- What StepKeepsMemoryCanonical assumes is met together, in a cycle of a core and in an event of the agenda. -/
theorem witness_StepKeepsMemoryCanonical :
    (State.reset.memOk = true ∧ ∃ t, step State.reset = .next t) ∧
      (base.memOk = true ∧ ∃ t, step { base with agenda := [some (.codeChange 0)] } = .next t) :=
  ⟨⟨by decide +kernel, _, rfl⟩, by decide +kernel, _, rfl⟩

/-- What EncodedInstructionDecodesBack assumes is met, in every slot. -/
theorem witness_EncodedInstructionDecodesBack :
    homeSlot (.next 0 0) = 0 ∧ homeSlot (.addi 7 0 5) ≠ 8 ∧ homeSlot (.vadd 2 1 2 3 0) ≠ 8 ∧ homeSlot (.vld 0 7 8 0 0) = 4 ∧
      homeSlot (.mma 0 2 0 0 1) = 6 ∧ homeSlot (.kwait 3 4) = 7 := by decide

/-- Clause of MailboxCommandsAct for a commit that is turned away: a context is resident, and the image is longer than the staging area. -/
theorem witness_MailboxCommandsAct_refused :
    mailboxFree base ∧ firmwareState base.plat = true ∧
      (imageAccepted base.plat (stagedImage base (2 ^ 25 + 1)) = false ∨ 2 ^ 25 < 2 ^ 25 + 1 ∨
        (base.plat.recovery = false ∧ noResident base = false)) :=
  ⟨by decide +kernel, by decide +kernel, Or.inr (Or.inl (by decide))⟩

/-- Clause of MailboxCommandsAct for an accepted image, on the one open value that decides it. -/
theorem witness_MailboxCommandsAct_accepted (h : Config.imageVerifies [] = true) :
    let s : State := { base with ctxs := [] };
    mailboxFree s ∧ firmwareState s.plat = true ∧ noResident s = true ∧ 0 ≤ 2 ^ 25 ∧ imageAccepted s.plat (stagedImage s 0) = true :=
  ⟨by decide +kernel, by decide +kernel, by decide +kernel, by decide, by
    have hs : base.plat.minSvn = 0 := by decide +kernel
    have hi : stagedImage { base with ctxs := [] } 0 = [] := by decide +kernel
    simp [imageAccepted, hi, h, hs]⟩

/-- Clause of BootEndsReadyOrInRecovery for an accepted flash image, on the one open value that decides it. -/
theorem witness_BootEndsReadyOrInRecovery_accepted (h : Config.imageVerifies [] = true) :
    State.reset.plat.power = .booting ∧ State.reset.plat.torn = false ∧ imageAccepted State.reset.plat State.reset.plat.flash = true :=
  ⟨by decide, by decide, by
    have hf : State.reset.plat.flash = [] := by decide
    have hs : State.reset.plat.minSvn = 0 := by decide
    simp [imageAccepted, hf, h, hs]⟩

/-- The task of core 0 may write and reduce at page 3, which another package holds, and has a remote access of its own outstanding there. -/
def farBusy (cls : Nat) : State :=
  withRq { rq 0x02 0 2 none with home := some (homeName 9 0x500020) } (withCtx (fun c => { c with
    launches := [{ aLaunch with desc := { aRecord with foot := [⟨0, cls, 2, 0x8000, 0x30000⟩] } }] }) farPage)

/-- A version at another package has prepared a byte of frame 0x200000. -/
def preparedThere : State :=
  { base with link := { base.link with peers := [{ dest := 0, node := 9, job := 1, rank := 1, launch := 4, bytes := [⟨1, 0, 0x200020, 5, 0, false⟩], prepared := true, askAt := 0 }] } }

/-- What ScalarAccessesAreHeld assumes is met together by every form: without a translation, at a prepared line, and behind a remote
access of its own core. -/
theorem witness_ScalarAccessesAreHeld :
    (∀ q ∈ scalarForms (setX 5 0x20020) 0 0 0 6 5 4 7, meetsJobs (setX 5 0x20020) 0 (rangeOf q.va q.size) q.store = false ∧
      checkAccess (setX 5 0x20020) 0 q.va q.size (!q.store) q.store 0 = .untranslated) ∧
    (let s := setX 5 0x10020 preparedThere
     ∀ q ∈ scalarForms s 0 0 0 6 5 4 7, meetsJobs s 0 (rangeOf q.va q.size) q.store = false ∧
      checkAccess s 0 q.va q.size (!q.store) q.store 0 = .prepared 0x200020) ∧
    (let s := setX 5 0x30020 (farBusy 0)
     ∀ q ∈ scalarForms s 0 0 0 6 5 4 7, meetsJobs s 0 (rangeOf q.va q.size) q.store = false ∧
      checkAccess s 0 q.va q.size (!q.store) q.store 0 = .ordered) := by decide +kernel

/-- What SynchronisingAccessesAreHeld assumes is met together, clause by clause, for each kind of access. -/
theorem witness_SynchronisingAccessesAreHeld :
    let kinds : List (Bool × Bool × Nat) := [(true, false, 0), (true, true, 0), (false, true, 3)]
    (let s := setX 5 0x20020; onHost s 0 0x20020 = false ∧ ∀ q ∈ kinds, meetsJobs s 0 (rangeOf 0x20020 8) q.2.1 = false ∧
      checkAccess s 0 0x20020 8 q.1 q.2.1 q.2.2 = .untranslated) ∧
    (let s := setX 5 0x10020 preparedThere; onHost s 0 0x10020 = false ∧ ∀ q ∈ kinds.take 2, meetsJobs s 0 (rangeOf 0x10020 8) q.2.1 = false ∧
      checkAccess s 0 0x10020 8 q.1 q.2.1 q.2.2 = .prepared 0x200020) ∧
    (let s := setX 5 0x30020 (farBusy 3); onHost s 0 0x30020 = false ∧ ∀ q ∈ kinds.drop 2, meetsJobs s 0 (rangeOf 0x30020 8) q.2.1 = false ∧
      checkAccess s 0 0x30020 8 q.1 q.2.1 q.2.2 = .ordered) ∧
    (let s := setX 5 0x10021; onHost s 0 0x10021 = false ∧ ∀ q ∈ kinds, meetsJobs s 0 (rangeOf 0x10021 8) q.2.1 = false ∧
      checkAccess s 0 0x10021 8 q.1 q.2.1 q.2.2 = .fails .align) ∧
    (let s := setX 5 0x10020 (with0 (fun c => { c with jobs := [{ id := 1, tag := none, kind := .cpy, bundle := 0, writes := [rangeOf 0x10020 8] }] }))
     onHost s 0 0x10020 = false ∧ ∀ q ∈ kinds, meetsJobs s 0 (rangeOf 0x10020 8) q.2.1 = true) := by decide +kernel

/-- What the clause of SynchronisingAccessesAtRemotePages for REDOFADD assumes is met together. -/
theorem witness_SynchronisingAccessesAtRemotePages_ordered :
    let s := setX 4 0x300000002 (setX 5 0x30020 (withCtx (fun c => { c with
      launches := [{ aLaunch with desc := { aRecord with foot := [⟨0, 3, 2, 0x8000, 0x30000⟩] } }] }) farPage))
    onHost s 0 0x30020 = false ∧ meetsJobs s 0 (rangeOf 0x30020 4) true = false ∧
      checkAccess s 0 0x30020 4 false true 3 = .away 1 9 0x500020 ∧ 0 < (x s 4).toNat / 2 ^ 32 ∧
      (x s 4).toNat % 2 ^ 32 < (x s 4).toNat / 2 ^ 32 := by decide +kernel

/-- What StepIssuesTheFetchedBundle assumes is met together. -/
theorem witness_StepIssuesTheFetchedBundle :
    let s : State := with0 (fun c => { c with imem := { c.imem with bundles := [(10, 0x00500093 * 2 ^ 32)] } });
    let n : Nat := 0;
    let s1 := baseLoaded s n;
    let c := getCore s1 n;
    let words := bundleWords (fetched c);
    s.agenda = [] ∧ poweredOn s = true ∧ nextCore s = some n ∧ issuing c = true ∧ c.heldOn = none ∧ c.ctl.eligible ≤ c.now ∧ fetchOk c = true ∧ badWords c = 0 ∧ illegalMask c words = 0 ∧ breakAt s1 n = none := by decide +kernel

/-- What BundleCommitsBySlots assumes is met together. -/
theorem witness_BundleCommitsBySlots :
    let s : State := base;
    let n : Nat := 0;
    let is : List (Nat × Instr) := decoded (bundleWords (BitVec.ofNat 256 (0x00500093 * 2 ^ 32)));
    let c := getCore s n;
    let s0 := exchanged (startIssue s n) is;
    let probed := is.foldl (probeSlot s0) s0;
    let done := commitAll s0 is;
    waitsForResult c is = false ∧ (c.sync = [] ∨ is.any (fun e => heldBySync e.2) = false) ∧ probed.issue.held = false ∧ mergeFaults (probed.issue.raised ++ scoreFaults c is ++ errorFaults (getCore s0 n) is) = none ∧ done.issue.held = false ∧ mergeFaults done.issue.raised = none := by decide +kernel

/-- What AgendaEventIsTheStep assumes is met together. -/
theorem witness_AgendaEventIsTheStep :
    let s : State := { base with agenda := [some (.resultLand 0)] };
    let i : Instr := .resultLand 0;
    let rest : List (Option Instr) := [];
    s.agenda = some i :: rest ∧ homeSlot i = 8 := by decide +kernel

/-- What OnlyAPackageWithoutPowerStops assumes is met together, clause by clause. -/
theorem witness_OnlyAPackageWithoutPowerStops :
   (let s : State := base;
    (s.agenda ≠ [] ∨ poweredOn s = true)) ∧
   (let s : State := { State.reset with plat := { State.reset.plat with power := .off } };
    s.agenda = [] ∧ poweredOn s = false) := by decide +kernel

/-- What FailedBundleTakesOnlyItsTrap assumes is met together. -/
theorem witness_FailedBundleTakesOnlyItsTrap :
    let s : State := setX 5 0x10011;
    let n : Nat := 0;
    let is : List (Nat × Instr) := [(1, .lw 0 5 6)];
    let cause : Cause := .align;
    let mask : Nat := 2;
    let addr : Nat := 0x10011;
    let c := getCore s n;
    let s0 := exchanged (startIssue s n) is;
    let probed := is.foldl (probeSlot s0) s0;
    waitsForResult c is = false ∧ (c.sync = [] ∨ is.any (fun e => heldBySync e.2) = false) ∧ probed.issue.held = false ∧ mergeFaults (probed.issue.raised ++ scoreFaults c is ++ errorFaults (getCore s0 n) is) = some (cause, mask, addr) := by decide +kernel

/-- What SmallestCausePrevails assumes is met together. -/
theorem witness_SmallestCausePrevails :
    let fs : List SlotFault := [⟨2, .bounds, 7⟩, ⟨1, .align, 5⟩, ⟨4, .align, 6⟩];
    let cause : Cause := .align;
    let mask : Nat := 18;
    let addr : Nat := 5;
    mergeFaults fs = some (cause, mask, addr) := by decide +kernel

/-- What DivisionForEveryOperand assumes is met together. -/
theorem witness_DivisionForEveryOperand :
    let s : State := base;
    let rt : BitVec 5 := 7;
    let rs : BitVec 5 := 9;
    let a := x s rs;
    let b := x s rt;
    a = BitVec.intMin 64 ∧ b = -1 := by decide +kernel

/-- What ScalarResultLands assumes is met together, clause by clause. -/
theorem witness_ScalarResultLands :
   (let c : Core := { aCore with pend := [dueX] };
    let e : Pending := dueX;
    let r : Nat := 5;
    let v : Word := 17;
    let d : Nat := 100;
    e ∈ c.pend ∧ e.what = .x r v ∧ e.due = some d ∧ e.flags = 0 ∧ d ≤ c.now ∧ (∀ q ∈ c.pend, q.isDue c.now = true → q = e)) ∧
   (let c : Core := { aCore with pend := [dueX], now := 99 };
    let e : Pending := dueX;
    let r : Nat := 5;
    let v : Word := 17;
    let d : Nat := 100;
    e ∈ c.pend ∧ e.what = .x r v ∧ e.due = some d ∧ e.flags = 0 ∧ (∀ q ∈ c.pend, q.isDue c.now = false)) := by decide +kernel

/-- What YoungerResultPrevails assumes is met together. -/
theorem witness_YoungerResultPrevails :
    let c : Core := { aCore with pend := [dueX, { dueX with what := .x 5 18, age := 1 }] };
    let e : Pending := dueX;
    let f : Pending := { dueX with what := .x 5 18, age := 1 };
    let r : Nat := 5;
    let v : Word := 17;
    let w : Word := 18;
    r ≠ 0 ∧ c.pend = [e, f] ∧ e.what = .x r v ∧ f.what = .x r w ∧ e.isDue c.now = true ∧ f.isDue c.now = true := by decide +kernel

/-- What ScalarLoadsReadTheirBytes assumes is met together. -/
theorem witness_ScalarLoadsReadTheirBytes :
    let s : State := base;
    let i : BitVec 12 := 0;
    let rs : BitVec 5 := 5;
    let place : Nat := 0x200010;
    let va := (x s rs + i.signExtend 64).toNat;
    let n := s.issue.core;
    let ready : Nat → Prop := fun size => checkAccess s n va size true false 0 = .here place ∧ meetsJobs s n (rangeOf va size) false = false;
    ready 1 ∧ ready 2 ∧ ready 4 ∧ ready 8 := by decide +kernel

/-- What ScalarStoresStoreTheirBytes assumes is met together. -/
theorem witness_ScalarStoresStoreTheirBytes :
    let s : State := setX 5 0xFF0000000040;
    let i : BitVec 7 := 0;
    let j : BitVec 5 := 0;
    let rs : BitVec 5 := 5;
    let place : Nat := 2 ^ 42 + 0x40;
    let va := (x s rs + (i ++ j).signExtend 64).toNat;
    let vb := (x s rs).toNat;
    let n := s.issue.core;
    let ready : Nat → Nat → Prop := fun a size =>
      checkAccess s n a size false true 0 = .here place ∧ meetsJobs s n (rangeOf a size) true = false;
    ready va 1 ∧ ready va 2 ∧ ready va 4 ∧ ready va 8 ∧ ready vb 32 := by decide +kernel

/-- What LocalStoreWritesOnlyItsBytes assumes is met together. -/
theorem witness_LocalStoreWritesOnlyItsBytes :
    let s : State := base;
    let place : Nat := 2 ^ 42 + 0x40;
    2 ^ 40 ≤ place ∧ noTagWaits s := by decide +kernel

/-- What LaunchStoreGoesToItsShadow assumes is met together. -/
theorem witness_LaunchStoreGoesToItsShadow :
    let s : State := base;
    let va : Nat := 0x10010;
    let place : Nat := 0x200010;
    let bytes : List Byte := [1, 2, 3, 4];
    let l : Launch := aLaunch;
    let n := s.issue.core;
    let w := whoIs s n;
    place + bytes.length ≤ 2 ^ 40 ∧ noTagWaits s ∧ noPartials s ∧ getLaunch s w.ctx w.launch = some l ∧ (∀ k, k < bytes.length → byteKind s w (va + k) = 2) ∧ (storeAt s (.core n) w va place bytes).2 = false := by decide +kernel

/-- What ScalarChecksInOrder assumes is met together, clause by clause. -/
theorem witness_ScalarChecksInOrder :
   (let va : Nat := 0x10011;
    let size : Nat := 4;
    va % size ≠ 0) ∧
   (let va : Nat := 0x800000000000;
    let size : Nat := 4;
    va % size = 0 ∧ classify va = none) ∧
   (let s : State := base;
    let n : Nat := 0;
    let va : Nat := 0x10010;
    let size : Nat := 4;
    let p : Nat := 0x200010;
    let read : Bool := true;
    let write : Bool := true;
    let rd : Bool := true;
    let wr : Bool := true;
    let w := whoIs s n;
    let foot := if write then footCause s w va 0 0 size else .none;
    let denied := (write = true ∧ wr = false) ∨ rd = false;
    let global := va % size = 0 ∧ va < 2 ^ 47;
    let here := global ∧ xlatCore s n va = .pkg p rd wr;
    let damaged := read = true ∧ (isDamaged s p size = true ∨ spillDamaged s w p size = true);
    here ∧ ¬denied ∧ foot = .none ∧ heldByPrepared s w p size = false ∧ ¬damaged) ∧
   (let s : State := base;
    let n : Nat := 0;
    let va : Nat := 0x1FFF8;
    let size : Nat := 4;
    let p : Nat := 0x20FFF8;
    let write : Bool := true;
    let rd : Bool := true;
    let wr : Bool := true;
    let w := whoIs s n;
    let foot := if write then footCause s w va 0 0 size else .none;
    let denied := (write = true ∧ wr = false) ∨ rd = false;
    let global := va % size = 0 ∧ va < 2 ^ 47;
    let here := global ∧ xlatCore s n va = .pkg p rd wr;
    here ∧ ¬denied ∧ foot ≠ .none) ∧
   (let s : State := with0 (fun c => { c with tlb := [⟨1, 16, 0, 0, 0x200000, true, false, none⟩] });
    let n : Nat := 0;
    let va : Nat := 0x10010;
    let size : Nat := 4;
    let p : Nat := 0x200010;
    let write : Bool := true;
    let rd : Bool := true;
    let wr : Bool := false;
    let denied := (write = true ∧ wr = false) ∨ rd = false;
    let global := va % size = 0 ∧ va < 2 ^ 47;
    let here := global ∧ xlatCore s n va = .pkg p rd wr;
    here ∧ denied) ∧
   (let s : State := with0 (fun c => { c with tlb := [⟨1, 16, 0, 0, 0x200000, true, false, some .translate⟩] });
    let n : Nat := 0;
    let va : Nat := 0x10010;
    let size : Nat := 4;
    let c : Cause := .translate;
    let global := va % size = 0 ∧ va < 2 ^ 47;
    global ∧ xlatCore s n va = .bad c) ∧
   (let s : State := preparedAt 0x200012;
    let n : Nat := 0;
    let va : Nat := 0x10010;
    let size : Nat := 4;
    let p : Nat := 0x200010;
    let write : Bool := false;
    let rd : Bool := true;
    let wr : Bool := true;
    let w := whoIs s n;
    let foot := if write then footCause s w va 0 0 size else .none;
    let denied := (write = true ∧ wr = false) ∨ rd = false;
    let global := va % size = 0 ∧ va < 2 ^ 47;
    let here := global ∧ xlatCore s n va = .pkg p rd wr;
    here ∧ ¬denied ∧ foot = .none ∧ heldByPrepared s w p size = true) ∧
   (let s : State := { base with hw := { base.hw with damaged := [0x200012] } };
    let n : Nat := 0;
    let va : Nat := 0x10010;
    let size : Nat := 4;
    let p : Nat := 0x200010;
    let read : Bool := true;
    let write : Bool := false;
    let rd : Bool := true;
    let wr : Bool := true;
    let w := whoIs s n;
    let foot := if write then footCause s w va 0 0 size else .none;
    let denied := (write = true ∧ wr = false) ∨ rd = false;
    let global := va % size = 0 ∧ va < 2 ^ 47;
    let here := global ∧ xlatCore s n va = .pkg p rd wr;
    let damaged := read = true ∧ (isDamaged s p size = true ∨ spillDamaged s w p size = true);
    here ∧ ¬denied ∧ foot = .none ∧ heldByPrepared s w p size = false ∧ damaged) ∧
   (let s : State := farPage;
    let n : Nat := 0;
    let va : Nat := 0x30010;
    let size : Nat := 4;
    let tgt : Nat := 1;
    let node : Nat := 9;
    let addr : Nat := 0x500010;
    let read : Bool := true;
    let write : Bool := false;
    let rd : Bool := true;
    let wr : Bool := true;
    let w := whoIs s n;
    let foot := if write then footCause s w va 0 0 size else .none;
    let denied := (write = true ∧ wr = false) ∨ rd = false;
    let global := va % size = 0 ∧ va < 2 ^ 47;
    let there := global ∧ xlatCore s n va = .remote tgt node addr rd wr;
    let rehearsed := write = true ∧ read = false ∧ rehearsing s w = true;
    there ∧ ¬denied ∧ ¬rehearsed ∧ foot = .none) ∧
   (let s : State := farPage false;
    let n : Nat := 0;
    let va : Nat := 0x30010;
    let size : Nat := 4;
    let tgt : Nat := 1;
    let node : Nat := 9;
    let addr : Nat := 0x500010;
    let read : Bool := false;
    let write : Bool := true;
    let rd : Bool := true;
    let wr : Bool := false;
    let w := whoIs s n;
    let denied := (write = true ∧ wr = false) ∨ rd = false;
    let global := va % size = 0 ∧ va < 2 ^ 47;
    let there := global ∧ xlatCore s n va = .remote tgt node addr rd wr;
    let rehearsed := write = true ∧ read = false ∧ rehearsing s w = true;
    there ∧ (denied ∨ rehearsed)) ∧
   (let s : State := farPage;
    let n : Nat := 0;
    let va : Nat := 0x30010;
    let size : Nat := 4;
    let tgt : Nat := 1;
    let node : Nat := 9;
    let addr : Nat := 0x500010;
    let read : Bool := false;
    let write : Bool := true;
    let rd : Bool := true;
    let wr : Bool := true;
    let w := whoIs s n;
    let foot := if write then footCause s w va 0 0 size else .none;
    let denied := (write = true ∧ wr = false) ∨ rd = false;
    let global := va % size = 0 ∧ va < 2 ^ 47;
    let there := global ∧ xlatCore s n va = .remote tgt node addr rd wr;
    let rehearsed := write = true ∧ read = false ∧ rehearsing s w = true;
    there ∧ ¬denied ∧ ¬rehearsed ∧ foot ≠ .none) ∧
   (let s : State := base;
    let n : Nat := 0;
    let va : Nat := 0xFF0000000040;
    let size : Nat := 8;
    let off : Nat := 0x40;
    let sp : Space := .core;
    let global := va % size = 0 ∧ va < 2 ^ 47;
    let local' := va % size = 0 ∧ classify va = some (sp, off) ∧ sp ≠ .global;
    let outside := spaceSize sp < off + size ∨ (sp = .chip ∧ chipAllowed (ctxOfCore s n) off size = false);
    local' ∧ ¬outside) ∧
   (let s : State := base;
    let n : Nat := 0;
    let va : Nat := 0x30010;
    let size : Nat := 8;
    let global := va % size = 0 ∧ va < 2 ^ 47;
    global ∧ xlatCore s n va = .miss) ∧
   (let s : State := base;
    let n : Nat := 0;
    let va : Nat := 0xFF2000020000;
    let size : Nat := 8;
    let off : Nat := 0x20000;
    let sp : Space := .chip;
    let global := va % size = 0 ∧ va < 2 ^ 47;
    let local' := va % size = 0 ∧ classify va = some (sp, off) ∧ sp ≠ .global;
    let outside := spaceSize sp < off + size ∨ (sp = .chip ∧ chipAllowed (ctxOfCore s n) off size = false);
    local' ∧ outside) := by decide +kernel

/-- What ScalarAccessFailsWithItsCause assumes is met together. -/
theorem witness_ScalarAccessFailsWithItsCause :
    let s : State := setX 5 0x800000000000;
    let i : BitVec 12 := 0;
    let u : BitVec 7 := 0;
    let j : BitVec 5 := 0;
    let rs : BitVec 5 := 5;
    let c : Cause := .protect;
    let n := s.issue.core;
    let va := (x s rs + i.signExtend 64).toNat;
    let vs := (x s rs + (u ++ j).signExtend 64).toNat;
    let vb := (x s rs).toNat;
    let fails : Nat → Nat → Bool → Prop := fun a size write =>
      meetsJobs s n (rangeOf a size) write = false ∧ checkAccess s n a size (!write) write 0 = .fails c;
    fails va 1 false ∧ fails va 2 false ∧ fails va 4 false ∧ fails va 8 false ∧ fails vs 1 true ∧ fails vs 2 true ∧ fails vs 4 true ∧ fails vs 8 true ∧ fails vb 32 false ∧ fails vb 32 true := by decide +kernel

/-- What ScalarAccessesAtRemotePages assumes is met together. -/
theorem witness_ScalarAccessesAtRemotePages :
    let s : State := setX 5 0x30020 (withCtx (fun c => { c with launches := [{ aLaunch with desc := { aRecord with foot := [⟨0, 0, 2, 0x8000, 0x30000⟩] } }] }) farPage);
    let i : BitVec 12 := 0;
    let u : BitVec 7 := 0;
    let j : BitVec 5 := 0;
    let rs : BitVec 5 := 5;
    let tgt : Nat := 1;
    let node : Nat := 9;
    let addr : Nat := 0x500020;
    let n := s.issue.core;
    let va := (x s rs + i.signExtend 64).toNat;
    let vs := (x s rs + (u ++ j).signExtend 64).toNat;
    let vb := (x s rs).toNat;
    let away : Nat → Nat → Bool → Prop := fun a size write =>
      meetsJobs s n (rangeOf a size) write = false ∧ checkAccess s n a size (!write) write 0 = .away tgt node addr;
    away va 1 false ∧ away va 2 false ∧ away va 4 false ∧ away va 8 false ∧ away vs 1 true ∧ away vs 2 true ∧ away vs 4 true ∧ away vs 8 true ∧ away vb 32 false ∧ away vb 32 true := by decide +kernel

/-- What DeviceScalarResults assumes is met together. -/
theorem witness_DeviceScalarResults :
    let s : State := setX 5 0x10020;
    let rs : BitVec 5 := 5;
    let place : Nat := 0x200020;
    let a := x s rs;
    let n := s.issue.core;
    let va := a.toNat;
    checkAccess s n va 32 true false 0 = .here place ∧ meetsJobs s n (rangeOf va 32) false = false := by decide +kernel

/-- What DeviceRegistersReadAndLand assumes is met together. -/
theorem witness_DeviceRegistersReadAndLand :
    let s : State := base;
    let n : Nat := 0;
    let t : Task := aTask;
    let k := getCore s n;
    k.regs.loop.length ≤ 4 ∧ k.task = some t := by decide +kernel

/-- What BranchesChooseTheNextBundle assumes is met together, clause by clause. -/
theorem witness_BranchesChooseTheNextBundle :
   (let s : State := base;
    let cond : BitVec 3 := 1;
    let xs : BitVec 5 := 5;
    let k : BitVec 1 := 0;
    let p : BitVec 3 := 0;
    let m : BitVec 2 := 0;
    let off13 : BitVec 13 := 0x1FFD;
    let off15 : BitVec 15 := 5;
    let off21 : BitVec 21 := 0x1FFFF6;
    let pc : Int := (me s).ctl.pc;
    let a := (x s xs).toInt;
    let t13 := pc + off13.toInt;
    let t15 := pc + off15.toInt;
    let t21 := pc + off21.toInt;
    let pred := (me s).regs.readP (k == 1) p.toNat;
    let inside : Int → Prop := fun t => 0 ≤ t ∧ t ≤ 4095;
    let taken := (cond = 0 ∧ a = 0) ∨ (cond = 1 ∧ a ≠ 0) ∨ (cond = 2 ∧ a < 0) ∨ (cond = 3 ∧ 0 ≤ a) ∨ (cond = 4 ∧ 0 < a) ∨ (cond = 5 ∧ a ≤ 0);
    let takenP := (m = 0 ∧ pred ≠ 0) ∨ (m = 1 ∧ pred = BitVec.allOnes 256) ∨ (m = 2 ∧ pred = 0) ∨ (m = 3 ∧ pred ≠ BitVec.allOnes 256);
    inside t13 ∧ cond.toNat ≤ 5 ∧ taken ∧ inside t15 ∧ takenP ∧ inside t21 ∧ 4096 ≤ (x s xs).toNat) ∧
   (let s : State := setX 8 4095;
    let cond : BitVec 3 := 0;
    let xs : BitVec 5 := 8;
    let k : BitVec 1 := 0;
    let p : BitVec 3 := 0;
    let m : BitVec 2 := 2;
    let off13 : BitVec 13 := 0xFF5;
    let off15 : BitVec 15 := 0xFF5;
    let pc : Int := (me s).ctl.pc;
    let a := (x s xs).toInt;
    let t13 := pc + off13.toInt;
    let t15 := pc + off15.toInt;
    let pred := (me s).regs.readP (k == 1) p.toNat;
    let inside : Int → Prop := fun t => 0 ≤ t ∧ t ≤ 4095;
    let taken := (cond = 0 ∧ a = 0) ∨ (cond = 1 ∧ a ≠ 0) ∨ (cond = 2 ∧ a < 0) ∨ (cond = 3 ∧ 0 ≤ a) ∨ (cond = 4 ∧ 0 < a) ∨ (cond = 5 ∧ a ≤ 0);
    let takenP := (m = 0 ∧ pred ≠ 0) ∨ (m = 1 ∧ pred = BitVec.allOnes 256) ∨ (m = 2 ∧ pred = 0) ∨ (m = 3 ∧ pred ≠ BitVec.allOnes 256);
    inside t13 ∧ cond.toNat ≤ 5 ∧ ¬taken ∧ inside t15 ∧ ¬takenP ∧ (x s xs).toNat < 4096) := by decide +kernel

/-- What LoopEndsAreTested assumes is met together, clause by clause. -/
theorem witness_LoopEndsAreTested :
   (let s : State := base;
    let e : LoopEntry := ⟨8,10,3⟩;
    let es : List LoopEntry := [];
    let c := me s;
    (c.regs.loop = [] ∨ c.dev.inh = true ∨ (c.regs.loop = e :: es ∧ e.last ≠ c.ctl.pc))) ∧
   (let s : State := with0 (fun c => { c with regs := { c.regs with loop := [⟨8,10,3⟩,⟨5,10,1⟩] } });
    let e : LoopEntry := ⟨8,10,3⟩;
    let es : List LoopEntry := [⟨5,10,1⟩];
    let c := me s;
    c.dev.inh = false ∧ c.regs.loop = e :: es ∧ e.last = c.ctl.pc ∧ 1 < e.count) ∧
   (let s : State := with0 (fun c => { c with regs := { c.regs with loop := [⟨8,10,1⟩,⟨5,10,2⟩] } });
    let e : LoopEntry := ⟨8,10,1⟩;
    let es : List LoopEntry := [⟨5,10,2⟩];
    let c := me s;
    c.dev.inh = false ∧ c.regs.loop = e :: es ∧ e.last = c.ctl.pc ∧ e.count ≤ 1) := by decide +kernel

/-- What LoopsWaitsAndEnds assumes is met together, clause by clause. -/
theorem witness_LoopsWaitsAndEnds :
   (let s : State := with0 (fun c => { c with task := some { aTask with mode := 2 } });
    let xs : BitVec 5 := 0;
    let len : BitVec 12 := 4085;
    let l : BitVec 9 := 0x1FF;
    let g : BitVec 12 := 3;
    let t : Task := { aTask with mode := 2 };
    let c := me s;
    let pc := c.ctl.pc;
    let room := c.regs.loop.length < 4 ∧ c.dev.inh = false ∧ c.regs.loop.head?.map (fun e => e.last) ≠ some pc;
    pc + len.toNat ≤ 4095 ∧ room ∧ (x s xs).toNat = 0 ∧ pc + l.toNat ≤ 4095 ∧ c.task = some t ∧ spFind c.imem.tags g.toNat ≠ some t.codeTag ∧ c.dev.inh = false ∧ t.mode = 2) ∧
   (let s : State := base;
    let xs : BitVec 5 := 5;
    let len : BitVec 12 := 3;
    let g : BitVec 12 := 0;
    let t : Task := aTask;
    let c := me s;
    let pc := c.ctl.pc;
    let room := c.regs.loop.length < 4 ∧ c.dev.inh = false ∧ c.regs.loop.head?.map (fun e => e.last) ≠ some pc;
    pc + len.toNat ≤ 4095 ∧ room ∧ (x s xs).toNat ≠ 0 ∧ c.task = some t ∧ spFind c.imem.tags g.toNat = some t.codeTag) := by decide +kernel

/-- What IllegalControlWordsFail assumes is met together, clause by clause. -/
theorem witness_IllegalControlWordsFail :
   (let s : State := base;
    let off13 : BitVec 13 := 0x1FF5;
    let off15 : BitVec 15 := 0xFF6;
    let off21 : BitVec 21 := 0xFF6;
    let len : BitVec 12 := 4086;
    let t : Task := aTask;
    let c := me s;
    let pc := c.ctl.pc;
    let outside : Int → Prop := fun q => q < 0 ∨ 4095 < q;
    let blocked := 4 ≤ c.regs.loop.length ∨ c.dev.inh = true ∨ c.regs.loop.head?.map (fun e => e.last) = some pc;
    outside (pc + off13.toInt) ∧ outside (pc + off15.toInt) ∧ outside (pc + off21.toInt) ∧ (4095 < pc + len.toNat ∨ blocked) ∧ c.dev.inh = false ∧ c.task = some t ∧ t.mode ≠ 2) ∧
   (let s : State := with0 (fun c => { c with ctl := { c.ctl with pc := 4095 }, dev := { c.dev with inh := true } });
    let l : BitVec 9 := 1;
    let c := me s;
    let pc := c.ctl.pc;
    let blocked := 4 ≤ c.regs.loop.length ∨ c.dev.inh = true ∨ c.regs.loop.head?.map (fun e => e.last) = some pc;
    (4095 < pc + l.toNat ∨ blocked) ∧ pc = 4095 ∧ c.dev.inh = true) := by decide +kernel

/-- What SoftwareTrapEntersItsHandler assumes is met together, clause by clause. -/
theorem witness_SoftwareTrapEntersItsHandler :
   (let s : State := with0 (fun c => { c with dev := { c.dev with tvec := 0x1020, inh := true } });
    let c := me s;
    c.ctl.pc ≠ 4095 ∧ (c.dev.tvec.getLsbD 12 = false ∨ c.dev.inh = true) ∧ c.dev.inh = true) ∧
   (let s : State := with0 (fun c => { c with dev := { c.dev with tvec := 0x1020 } });
    let c := me s;
    c.ctl.pc ≠ 4095 ∧ c.dev.tvec.getLsbD 12 = true ∧ c.dev.inh = false) := by decide +kernel

/-- What StageManagerTakesTheTrap assumes is met together. -/
theorem witness_StageManagerTakesTheTrap :
    let s : State := base;
    let n : Nat := 0;
    let k : Nat := 0;
    let cause : Cause := .align;
    let t : Task := aTask;
    let ctx : Ctx := aCtx;
    let c := getCore s n;
    c.ctx = some k ∧ c.task = some t ∧ getCtx s k = some ctx ∧ ((cause ≠ .scoreboard ∧ cause ≠ .brk ∧ cause ≠ .swtrap) ∨ c.dev.inh = true ∨ c.dev.tvec.getLsbD 12 = false) ∧ cause ≠ .translate ∧ cause ≠ .eccUncorr ∧ (ctx.debugger = false ∨ (cause ≠ .scoreboard ∧ cause ≠ .brk ∧ cause ≠ .swtrap)) := by decide +kernel

/-- What SwapBitsExchangeShapeCopies assumes is met together. -/
theorem witness_SwapBitsExchangeShapeCopies :
    let s : State := with0 (fun c => { c with regs := { c.regs with shape := [(14,3),(30,4),(46,5)], shadow := [(14,7),(30,8),(46,9)] } });
    let r : Nat := 3;
    let f : Nat := 2;
    s.issue.swapped = false ∧ r < 4 ∧ f < 4 := by decide +kernel

/-- What TaggedAccessesActAtTheirHome assumes is met together. -/
theorem witness_TaggedAccessesActAtTheirHome :
    let s : State := setX 5 0xFF0000000040;
    let xs : BitVec 5 := 5;
    let p : Nat := 2 ^ 42 + 0x40;
    let va := (x s xs).toNat;
    2 ^ 47 ≤ va ∧ reaches s va 4 true false 0 p ∧ reaches s va 8 true false 0 p ∧ reaches s va 4 true true 0 p ∧ reaches s va 8 true true 0 p ∧ reaches s va 4 false true 0 p ∧ reaches s va 8 false true 0 p := by decide +kernel

/-- What TaggedAccessToGlobalMemoryFails assumes is met together, clause by clause. -/
theorem witness_TaggedAccessToGlobalMemoryFails :
   (let s : State := base;
    let xs : BitVec 5 := 5;
    let va := (x s xs).toNat;
    let free : Nat → Prop := fun size => meetsJobs s s.issue.core (rangeOf va size) true = false;
    va < 2 ^ 47 ∧ va % 4 = 0 ∧ free 4 ∧ va % 8 = 0 ∧ free 8) ∧
   (let s : State := setX 5 0x10013;
    let xs : BitVec 5 := 5;
    let va := (x s xs).toNat;
    let free : Nat → Prop := fun size => meetsJobs s s.issue.core (rangeOf va size) true = false;
    va % 4 ≠ 0 ∧ free 4 ∧ va % 8 ≠ 0 ∧ free 8) := by decide +kernel

/-- What TaggedWaitIsServedWhenItsTagAllows assumes is met together, clause by clause. -/
theorem witness_TaggedWaitIsServedWhenItsTagAllows :
   (let s : State := tagged;
    let p : Nat := 2 ^ 42 + 0x40;
    let v : Nat := 0x89ABCDEF;
    v < 2 ^ 32 ∧ (∀ e ∈ s.cores, e.2.sync = []) ∧ s.link.monitors = [] ∧ (me s).status ≠ .stopped ∧ p % 4 = 0 ∧ tagFull s p = true) ∧
   (let s : State := base;
    let p : Nat := 2 ^ 42 + 0x40;
    let v : Nat := 0x89ABCDEF;
    v < 2 ^ 32 ∧ (∀ e ∈ s.cores, e.2.sync = []) ∧ s.link.monitors = [] ∧ (me s).status ≠ .stopped ∧ p % 4 = 0 ∧ tagFull s p = false) := by decide +kernel

/-- What EarliestArmedWaitIsServedFirst assumes is met together. -/
theorem witness_EarliestArmedWaitIsServedFirst :
    let ws : List Waiter := [.core 0 (so 3), .core 1 (so 2), .core 2 (so 2)];
    let w : Waiter := .core 1 (so 2);
    firstArmed ws = some w := by decide +kernel

/-- What BarrierInstructionsAct assumes is met together, clause by clause. -/
theorem witness_BarrierInstructionsAct :
   (let s : State := setX 5 7;
    let xs : BitVec 5 := 5;
    let xt : BitVec 5 := 6;
    let name := (x s xs).toNat;
    let r := (x s xt).toNat;
    let good := name < 2 ^ 24 ∧ name / 4096 < 16 * (ctxOfCore s s.issue.core).part.length;
    good ∧ 63 < r) ∧
   (let s : State := setX 5 0x10000 (with0 (fun c => { c with regs := { c.regs with recs := [(3, BitVec.ofNat 256 (0x10000 + 64 * 2 ^ 64))] } }));
    let xs : BitVec 5 := 5;
    let xt : BitVec 5 := 8;
    let name := (x s xs).toNat;
    let r := (x s xt).toNat;
    let b := recordOf ((me s).regs.readRec r);
    let good := name < 2 ^ 24 ∧ name / 4096 < 16 * (ctxOfCore s s.issue.core).part.length;
    ¬good ∧ r ≤ 63 ∧ slotInterlocked s (.record r) = false ∧ b.malformed = false) ∧
   (let s : State := setX 5 0xFFFF;
    let xs : BitVec 5 := 5;
    let xt : BitVec 5 := 8;
    let name := (x s xs).toNat;
    let r := (x s xt).toNat;
    let b := recordOf ((me s).regs.readRec r);
    let good := name < 2 ^ 24 ∧ name / 4096 < 16 * (ctxOfCore s s.issue.core).part.length;
    good ∧ r ≤ 63 ∧ slotInterlocked s (.record r) = false ∧ b.malformed = false ∧ b.extent < 2 ^ 32) ∧
   (let s : State := setX 5 7 (with0 (fun c => { c with regs := { c.regs with recs := [(3, BitVec.ofNat 256 (0x10000 + 64 * 2 ^ 64))] }, pend := [{ pw with dest := some (.record 3) }] }));
    let xt : BitVec 5 := 8;
    let r := (x s xt).toNat;
    r ≤ 63 ∧ slotInterlocked s (.record r) = true) ∧
   (let s : State := setX 5 7 (with0 (fun c => { c with regs := { c.regs with recs := [(3, BitVec.allOnes 256)] } }));
    let xt : BitVec 5 := 8;
    let r := (x s xt).toNat;
    let b := recordOf ((me s).regs.readRec r);
    r ≤ 63 ∧ slotInterlocked s (.record r) = false ∧ b.malformed = true) ∧
   (let s : State := setX 5 7 (with0 (fun c => { c with regs := { c.regs with recs := [(3, BitVec.ofNat 256 (0x10000 + 2 ^ 32 * 2 ^ 64))] } }));
    let xs : BitVec 5 := 5;
    let xt : BitVec 5 := 8;
    let name := (x s xs).toNat;
    let r := (x s xt).toNat;
    let b := recordOf ((me s).regs.readRec r);
    let good := name < 2 ^ 24 ∧ name / 4096 < 16 * (ctxOfCore s s.issue.core).part.length;
    r ≤ 63 ∧ slotInterlocked s (.record r) = false ∧ b.malformed = false ∧ good ∧ 2 ^ 32 ≤ b.extent) := by decide +kernel

/-- What SynchronisingAccessesAtRemotePages assumes is met together, clause by clause. -/
theorem witness_SynchronisingAccessesAtRemotePages :
   (let s : State := setX 5 0x30020 (withCtx (fun c => { c with launches := [{ aLaunch with desc := { aRecord with foot := [⟨0, 0, 2, 0x8000, 0x30000⟩] } }] }) farPage);
    let sc : BitVec 2 := 2;
    let xs : BitVec 5 := 5;
    let z : BitVec 1 := 1;
    let node : Nat := 9;
    let addr : Nat := 0x500020;
    let va := (x s xs).toNat;
    let n := s.issue.core;
    let size := bytesOfForm z;
    let away : Nat → Bool → Bool → Nat → Prop := fun size read write cls =>
      meetsJobs s n (rangeOf va size) write = false ∧ checkAccess s n va size read write cls = .away 1 node addr;
    onHost s n va = false ∧ away size true false 0 ∧ away 8 true false 0 ∧ away size false true 0 ∧ (s.issue.commit = true ∨ releaseReady s n sc.toNat = true) ∧ away size true true 0 ∧ away 4 true true 0) ∧
   (let s : State := setX 5 0x30020 (withCtx (fun c => { c with launches := [{ aLaunch with desc := { aRecord with foot := [⟨0, 3, 2, 0x8000, 0x30000⟩] } }] }) (setX 4 0x300000002 farPage));
    let xs : BitVec 5 := 5;
    let z : BitVec 1 := 0;
    let node : Nat := 9;
    let addr : Nat := 0x500020;
    let va := (x s xs).toNat;
    let n := s.issue.core;
    let size := bytesOfForm z;
    let away : Nat → Bool → Bool → Nat → Prop := fun size read write cls =>
      meetsJobs s n (rangeOf va size) write = false ∧ checkAccess s n va size read write cls = .away 1 node addr;
    onHost s n va = false ∧ away size false true 3 ∧ away 4 false true 3) := by decide +kernel

/-- What BarrierCompletesAtItsTarget assumes is met together, clause by clause. -/
theorem witness_BarrierCompletesAtItsTarget :
   (let b : Barrier := { target := 4, count := 3, gen := 5, armed := true };
    b.armed = true ∧ b.count < b.target ∧ b.gen < 2 ^ 32 ∧ 0 < b.target) ∧
   (let b : Barrier := { target := 4, count := 4, gen := 0xFFFFFFFF, armed := true };
    b.armed = true ∧ 0 < b.target ∧ b.target ≤ b.count ∧ b.count < 2 * b.target) ∧
   (let b : Barrier := { target := 0, count := 7, gen := 0xFFFFFFFF, armed := true };
    b.armed = true ∧ b.target = 0) ∧
   (let b : Barrier := { target := 3, count := 300, gen := 0xFFFFFFFF, armed := false };
    b.armed = false) := by decide +kernel

/-- What MonitoredWaitsArmAndTimeOut assumes is met together, clause by clause. -/
theorem witness_MonitoredWaitsArmAndTimeOut :
   (let s : State := with0 (fun c => { c with sync := [wv false 3 100], pend := [pw], dev := { c.dev with wto := 50 } });
    let xs : BitVec 5 := 5;
    let xt : BitVec 5 := 8;
    let p : Nat := 0x200010;
    let o : SyncOp := wv false 3 100;
    let ne : Bool := false;
    let d : Nat := 100;
    let va := (x s xs).toNat;
    let v := (x s xt).toNat;
    let c := me s;
    reaches s va 8 true false 0 p ∧ c.sync = [o] ∧ o.kind = .waitv ne v (some d) ∧ d ≤ c.now ∧ 2 ^ 40 ≤ o.place) ∧
   (let s : State := base;
    (me s).sync = []) := by decide +kernel

/-- What AtomicsReturnTheOldValue assumes is met together, clause by clause. -/
theorem witness_AtomicsReturnTheOldValue :
   (let s : State := base;
    let xs : BitVec 5 := 5;
    let xt : BitVec 5 := 6;
    let z : BitVec 1 := 1;
    let p : Nat := 0x200010;
    let va := (x s xs).toNat;
    let size := bytesOfForm z;
    let n := s.issue.core;
    let w := whoIs s n;
    let v := (x s xt).toNat % 2 ^ (8 * size);
    let r := readAt s w p size;
    let m := ofBytes r.2;
    let fits : Nat → Prop := fun u => (storeAt r.1 (.core n) w va p (bytesOf size u)).2 = false;
    let r4 := readAt s w p 4;
    let sum := (addFp32 (ofBytes r4.2) ((x s xt).toNat % 2 ^ 32)).1;
    let f4 := storeAt r4.1 (.core n) w va p (bytesOf 4 sum);
    reaches s va size true true 0 p ∧ fits (addOf size m v) ∧ fits v ∧ fits (m &&& v) ∧ fits (m ||| v) ∧ fits (m ^^^ v) ∧ fits (minOf size m v) ∧ fits (maxOf size m v) ∧ fits (min m v) ∧ fits (max m v) ∧ m ≠ v ∧ reaches s va 4 true true 0 p ∧ f4.2 = false) ∧
   (let s : State := setX 6 0x8182838485868788;
    let xs : BitVec 5 := 5;
    let xt : BitVec 5 := 6;
    let rd : BitVec 5 := 9;
    let z : BitVec 1 := 1;
    let p : Nat := 0x200010;
    let va := (x s xs).toNat;
    let size := bytesOfForm z;
    let n := s.issue.core;
    let w := whoIs s n;
    let v := (x s xt).toNat % 2 ^ (8 * size);
    let r := readAt s w p size;
    let m := ofBytes r.2;
    let fits : Nat → Prop := fun u => (storeAt r.1 (.core n) w va p (bytesOf size u)).2 = false;
    reaches s va size true true 0 p ∧ m = v ∧ fits ((x s rd).toNat % 2 ^ (8 * size))) := by decide +kernel

/-- What ReductionsUpdateTheirWord assumes is met together, clause by clause. -/
theorem witness_ReductionsUpdateTheirWord :
   (let s : State := setX 5 0xFF0000000040;
    let xs : BitVec 5 := 5;
    let xt : BitVec 5 := 6;
    let rd : BitVec 5 := 4;
    let z : BitVec 1 := 1;
    let p : Nat := 2 ^ 42 + 0x40;
    let va := (x s xs).toNat;
    let size := bytesOfForm z;
    let n := s.issue.core;
    let w := whoIs s n;
    let v := (x s xt).toNat % 2 ^ (8 * size);
    let v4 := (x s xt).toNat % 2 ^ 32;
    let fits : Nat → Prop := fun op => (reduceAt s (.core n) w va p size op v).2 = false;
    let j := (x s rd).toNat % 2 ^ 32;
    let c := (x s rd).toNat / 2 ^ 32;
    reaches s va size false true 3 p ∧ 2 ^ 40 ≤ p ∧ reaches s va 4 false true 3 p ∧ fits 0 ∧ fits 1 ∧ fits 2 ∧ fits 3 ∧ fits 4 ∧ fits 5 ∧ fits 6 ∧ fits 7 ∧ (reduceAt s (.core n) w va p 4 8 v4).2 = false ∧ (c = 0 ∨ c ≤ j)) ∧
   (let s : State := setX 5 0xFF0000000040 (setX 4 0x300000002);
    let xs : BitVec 5 := 5;
    let rd : BitVec 5 := 4;
    let p : Nat := 2 ^ 42 + 0x40;
    let va := (x s xs).toNat;
    let j := (x s rd).toNat % 2 ^ 32;
    let c := (x s rd).toNat / 2 ^ 32;
    reaches s va 4 false true 3 p ∧ 0 < c ∧ j < c) := by decide +kernel

/-- What AcquireReleaseAndFence assumes is met together, clause by clause. -/
theorem witness_AcquireReleaseAndFence :
   (let s : State := base;
    let sc : BitVec 2 := 2;
    let xs : BitVec 5 := 5;
    let z : BitVec 1 := 0;
    let p : Nat := 0x200010;
    let va := (x s xs).toNat;
    let size := bytesOfForm z;
    let me' := s.issue.core;
    reaches s va size true false 0 p ∧ sc = 2 ∧ reaches s va size false true 0 p ∧ (s.issue.commit = true ∨ releaseReady s me' sc.toNat = true)) ∧
   (let s : State := base;
    let sc : BitVec 2 := 1;
    let xs : BitVec 5 := 5;
    let z : BitVec 1 := 1;
    let p : Nat := 0x200010;
    let va := (x s xs).toNat;
    let size := bytesOfForm z;
    reaches s va size true false 0 p ∧ sc ≠ 2) ∧
   (let s : State := with0 (fun c => { c with pend := [pw], acks := [3] });
    let sc : BitVec 2 := 2;
    let me' := s.issue.core;
    s.issue.commit = false ∧ releaseReady s me' sc.toNat = false) := by decide +kernel

/-- What BlockInstructionsAct assumes is met together, clause by clause. -/
theorem witness_BlockInstructionsAct :
   (let s : State := base;
    let xs : BitVec 5 := 5;
    let k : Nat := 0;
    let t : Task := aTask;
    let c := me s;
    c.ctx = some k ∧ c.task = some t ∧ (t.mode ≠ 2 ∨ c.dev.task ≠ 0) ∧ (t.mode ≠ 2 ∨ x s xs ≠ c.dev.task) ∧ t.mode = 0) ∧
   (let s : State := setX 5 0x10100 (withCtx (fun c => { c with launches := [{ resLaunch with a := { resLaunch.a with slots := [{ num := 3, deps := [], core := 0, item := 0x10100, kind := .block, completed := false, stamp := 1 }] } }] }) (with0 (fun c => { c with task := some { resTask with slot := some 3, item := 0x10100 }, dev := { c.dev with task := 0x10100 } })));
    let xs : BitVec 5 := 5;
    let k : Nat := 0;
    let sl : Nat := 3;
    let t : Task := { resTask with slot := some 3, item := 0x10100 };
    let c := me s;
    let n := s.issue.core;
    let va := (x s xs).toNat;
    c.ctx = some k ∧ c.task = some t ∧ t.mode = 2 ∧ x s xs = c.dev.task ∧ (s.issue.commit = true ∨ drained c = true) ∧ t.slot = some sl ∧ t.mode ≠ 0 ∧ (s.issue.commit = true ∨ releaseReady s n 0 = true) ∧ va % 64 = 0 ∧ va < 2 ^ 47) ∧
   (let s : State := with0 (fun c => { c with acks := [3] }) resident;
    let xs : BitVec 5 := 5;
    let k : Nat := 0;
    let t : Task := resTask;
    let c := me s;
    let n := s.issue.core;
    let va := (x s xs).toNat;
    c.ctx = some k ∧ c.task = some t ∧ t.mode = 2 ∧ c.dev.task = 0 ∧ t.mode ≠ 0 ∧ (s.issue.commit = true ∨ releaseReady s n 0 = true) ∧ va % 64 ≠ 0) ∧
   (let s : State := setX 5 (2 ^ 47) resident;
    let xs : BitVec 5 := 5;
    let k : Nat := 0;
    let t : Task := resTask;
    let c := me s;
    let n := s.issue.core;
    let va := (x s xs).toNat;
    c.ctx = some k ∧ c.task = some t ∧ t.mode ≠ 0 ∧ (s.issue.commit = true ∨ releaseReady s n 0 = true) ∧ va % 64 = 0 ∧ 2 ^ 47 ≤ va) ∧
   (let s : State := with0 (fun c => { c with jobs := [{ id := 1, tag := none, kind := .cpy, bundle := 0, writes := [⟨1, 0, 32⟩] }] }) resident;
    let k : Nat := 0;
    let t : Task := resTask;
    let c := me s;
    let n := s.issue.core;
    c.ctx = some k ∧ c.task = some t ∧ t.mode ≠ 0 ∧ s.issue.commit = false ∧ releaseReady s n 0 = false) := by decide +kernel

/-- What BlocksAreGotInPasses assumes is met together, clause by clause. -/
theorem witness_BlocksAreGotInPasses :
   (let s : State := resident;
    let n : Nat := 0;
    let k : Nat := 0;
    let sl : Nat := 0;
    let addr : Nat := 0x10100;
    let t : Task := resTask;
    let o : SyncOp := tgetOf true;
    let board : Bool := true;
    let wait : Bool := true;
    let f : Found := gotRes;
    let c := getCore s n;
    let search := findWork s { ctx := k, logical := c.logical, only := some (t.launch, t.run) } board;
    c.ctx = some k ∧ c.task = some t ∧ c.dev.task = 0 ∧ o.kind = .tget board wait none ∧ search = some f ∧ f.entry.work = .block addr ∧ freeTaskSlot f.after = some sl ∧ blockAt f.after (hwWho k t.launch t.run) addr = true ∧ wait = true) ∧
   (let s : State := workless resLaunch;
    let n : Nat := 0;
    let k : Nat := 0;
    let t : Task := resTask;
    let o : SyncOp := tgetOf false;
    let board : Bool := true;
    let wait : Bool := false;
    let c := getCore s n;
    let search := findWork s { ctx := k, logical := c.logical, only := some (t.launch, t.run) } board;
    let idle := announcePages s k;
    c.ctx = some k ∧ c.task = some t ∧ c.dev.task = 0 ∧ o.kind = .tget board wait none ∧ search = none ∧ (wait = false ∨ isDrained idle k t.launch t.run = true) ∧ wait = false) ∧
   (let s : State := residentFar;
    let n : Nat := 0;
    let k : Nat := 0;
    let sl : Nat := 0;
    let addr : Nat := 0x30100;
    let t : Task := resTask;
    let o : SyncOp := tgetOf true;
    let board : Bool := true;
    let wait : Bool := true;
    let f : Found := gotFar;
    let c := getCore s n;
    let search := findWork s { ctx := k, logical := c.logical, only := some (t.launch, t.run) } board;
    c.ctx = some k ∧ c.task = some t ∧ c.dev.task = 0 ∧ o.kind = .tget board wait none ∧ search = some f ∧ f.entry.work = .block addr ∧ freeTaskSlot f.after = some sl ∧ blockAt f.after (hwWho k t.launch t.run) addr = false) ∧
   (let s : State := workless { resLaunch with a := { resLaunch.a with slots := aLaunch.a.slots } };
    let n : Nat := 0;
    let k : Nat := 0;
    let t : Task := resTask;
    let o : SyncOp := tgetOf true;
    let board : Bool := true;
    let wait : Bool := true;
    let c := getCore s n;
    let search := findWork s { ctx := k, logical := c.logical, only := some (t.launch, t.run) } board;
    let idle := announcePages s k;
    c.ctx = some k ∧ c.task = some t ∧ c.dev.task = 0 ∧ o.kind = .tget board wait none ∧ search = none ∧ wait = true ∧ isDrained idle k t.launch t.run = false) := by decide +kernel

/-- What another clause of BlocksAreGotInPasses assumes is met together. -/
theorem witness_BlocksAreGotInPasses_2 :
    let s : State := residentFull;
    let n : Nat := 0;
    let k : Nat := 0;
    let addr : Nat := 0x10100;
    let t : Task := resTask;
    let o : SyncOp := tgetOf true;
    let board : Bool := true;
    let wait : Bool := true;
    let f : Found := gotFull;
    let c := getCore s n;
    let search := findWork s { ctx := k, logical := c.logical, only := some (t.launch, t.run) } board;
    c.ctx = some k ∧ c.task = some t ∧ c.dev.task = 0 ∧ o.kind = .tget board wait none ∧ search = some f ∧ f.entry.work = .block addr ∧ freeTaskSlot f.after = none :=
  ⟨by decide +kernel, by decide +kernel, by decide +kernel, by decide +kernel, searchedFullNamed, by decide +kernel, noSlotAfter⟩

/-- What LaunchWaitAndRandom assumes is met together, clause by clause. -/
theorem witness_LaunchWaitAndRandom :
   (let s : State := setX 5 0x10200 (withCtx (fun c => { c with queues := [(3, { en := true, logSize := 4 })] }));
    let xs : BitVec 5 := 5;
    let k : Nat := 0;
    let t : Task := aTask;
    let c := me s;
    let n := s.issue.core;
    let va := (x s xs).toNat;
    let parts := recordParts s va;
    let ctx := ctxOfCore s n;
    c.ctx = some k ∧ c.task = some t ∧ (s.issue.commit = true ∨ releaseReady s n 0 = true) ∧ va % 64 = 0 ∧ va < 2 ^ 47 ∧ (∀ q ∈ parts, isHere q.2 = true) ∧ meetsJobs s n (rangeOf va 512) false = false ∧ (∀ q ∈ s.cores, q.2.sync = []) ∧ getLaunch s k va = none) ∧
   (let s : State := setX 5 1;
    let xs : BitVec 5 := 5;
    let k : Nat := 0;
    let t : Task := aTask;
    let l : Launch := aLaunch;
    let c := me s;
    let n := s.issue.core;
    let va := (x s xs).toNat;
    let ctx := ctxOfCore s n;
    c.ctx = some k ∧ c.task = some t ∧ getLaunch s k va = some l) := by decide +kernel

/-- What VectorIntegerResults assumes is met together. -/
theorem witness_VectorIntegerResults :
    let t : BitVec 3 := 2;
    t.toNat ≤ 2 := by decide +kernel

/-- What VectorFloatResults assumes is met together. -/
theorem witness_VectorFloatResults :
    let t : BitVec 3 := 3;
    3 ≤ t.toNat := by decide +kernel

/-- What VectorReductionsAndConversions assumes is met together, clause by clause. -/
theorem witness_VectorReductionsAndConversions :
   (let t : BitVec 3 := 3;
    let f : BitVec 5 := 0x11;
    3 ≤ t.toNat ∧ packFmtOk f = true) ∧
   (let t : BitVec 3 := 2;
    let f : BitVec 5 := 8;
    t.toNat ≤ 2 ∧ vcvtFmtOk f = true) := by decide +kernel

/-- What RegisterExtremeIsTheExtreme assumes is met together. -/
theorem witness_RegisterExtremeIsTheExtreme :
    let t : Nat := 0;
    let p : Pred := 0;
    let size := typeSize t;
    t ≤ 2 ∧ (∀ i, i < 256 / size → enabled p size i = false) := by decide +kernel

/-- What PredicateSpillAndLaneResults assumes is met together. -/
theorem witness_PredicateSpillAndLaneResults :
    let t : BitVec 3 := 0;
    let i4 : BitVec 4 := 15;
    let j4 : BitVec 4 := 15;
    let size := typeSize t.toNat;
    let n := 256 / size;
    let k := 16 * i4.toNat + j4.toNat;
    k < n := by decide +kernel

/-- What AccumulatorMoves assumes is met together, clause by clause. -/
theorem witness_AccumulatorMoves :
   (let s : State := base;
    let c : BitVec 2 := 0;
    accReady s c.toNat = true) ∧
   (let s : State := with0 (fun c => { c with mx := { c.mx with queue := [{ id := 1, kind := .mma, acc := 2 }] } });
    let c : BitVec 2 := 2;
    accReady s c.toNat = false) := by decide +kernel

/-- What VectorAndPredicateResultsLand assumes is met together. -/
theorem witness_VectorAndPredicateResultsLand :
    let e : Pending := vecP;
    let f : Pending := predP;
    let b : Bool := true;
    let b' : Bool := false;
    let r : Nat := 3;
    let r' : Nat := 3;
    let v : Vec := 7;
    let bytes : Pred := 5;
    let q : Pred := 7;
    e.what = .vec b r v bytes ∧ f.what = .pred b r q ∧ r < 16 ∧ r' < 16 ∧ (b', r') ≠ (b, r) ∧ r < 8 ∧ r' < 8 := by decide +kernel

/-- What VectorLoadsReadTheirUnits assumes is met together. -/
theorem witness_VectorLoadsReadTheirUnits :
    let s : State := withRec (aRec 0x40 256 4 3);
    let b : BitVec 6 := 7;
    let xo : BitVec 5 := 0;
    let xi : BitVec 4 := 2;
    let p : BitVec 3 := 0;
    let i : BitVec 8 := 0;
    let r := record s b;
    let size := fmtSize r.fmt;
    let n := 256 / size;
    let on := fun t => (predA s p).getLsbD (t * size);
    let k := start s xo i;
    let lane := fun t => (BitVec.ofNat 32 (elem (vecA s xi) 4 t)).toInt + (i.toNat : Int);
    let row := units s r n on (fun t => offsetOf r ((k + t : Nat) : Int) 0) true false false;
    let stride := units s r n on (fun t => offsetOf r (k : Int) (t : Int)) true false false;
    let gather := units s r (min n 64) on (fun t => offsetOf r (lane t) 0) true false false;
    r.malformed = false ∧ isElementFmt r.fmt = true ∧ released s r ∧ clear s row false ∧ clear s stride false ∧ clear s gather false := by decide +kernel

/-- What ImageAccessesMoveOneUnit assumes is met together. -/
theorem witness_ImageAccessesMoveOneUnit :
    let s : State := withRec (aRec 0x40 512 0x0F 3);
    let b : BitVec 6 := 7;
    let xo : BitVec 5 := 0;
    let i : BitVec 8 := 4;
    let r := record s b;
    let k := start s xo i;
    let one := fun (read write : Bool) =>
      [(0, checkUnit s s.issue.core (whoIs s s.issue.core) r (offsetOf r k 0) (imageBytes r.fmt) 1 read write false 0)];
    let whole := k % fmtUnit r.fmt = 0 ∧ r.rowlen % fmtUnit r.fmt = 0;
    r.malformed = false ∧ isElementFmt r.fmt = false ∧ released s r ∧ whole ∧ clear s (one true false) false ∧ clear s (one false true) true := by decide +kernel

/-- What VectorStoresWriteTheirUnits assumes is met together, clause by clause. -/
theorem witness_VectorStoresWriteTheirUnits :
   (let s : State := withV 3 (fun i => 77 * i + 5) <| withRec (aRec 0x40 256 4 3);
    let b : BitVec 6 := 7;
    let xo : BitVec 5 := 0;
    let xi : BitVec 4 := 2;
    let p : BitVec 3 := 0;
    let i : BitVec 8 := 0;
    let r := record s b;
    let size := fmtSize r.fmt;
    let n := 256 / size;
    let on := fun t => (predA s p).getLsbD (t * size);
    let k := start s xo i;
    let lane := fun t => (BitVec.ofNat 32 (elem (vecA s xi) 4 t)).toInt + (i.toNat : Int);
    let row := units s r n on (fun t => offsetOf r ((k + t : Nat) : Int) 0) false true false;
    let stride := units s r n on (fun t => offsetOf r (k : Int) (t : Int)) false true false;
    let scatter := units s r (min n 64) on (fun t => offsetOf r (lane t) 0) false true false;
    r.malformed = false ∧ released s r ∧ isElementFmt r.fmt = true ∧ clear s row true ∧ clear s stride true ∧ clear s scatter true) ∧
   (let s : State := withV 3 (fun i => 77 * i + 5) <| withRec (aRec 0x40 512 0x0F 3);
    let b : BitVec 6 := 7;
    let xo : BitVec 5 := 8;
    let p : BitVec 3 := 0;
    let i : BitVec 8 := 5;
    let r := record s b;
    let k := start s xo i;
    let nibbles := nibbleUnits s r k p;
    r.malformed = false ∧ released s r ∧ isPacked4 r.fmt = true ∧ clear s nibbles true) := by decide +kernel

/-- What VectorLoadCollectsItsElements assumes is met together. -/
theorem witness_VectorLoadCollectsItsElements :
    let size : Nat := 4;
    let space : Nat := 3;
    let latency : Nat := 4;
    let es : List (Nat × Nat × Nat) := [(0, 0xFF0000000040, 2 ^ 42 + 0x40), (5, 0xFF0000000041, 2 ^ 42 + 0x41), (63, 0, 2 ^ 41)];
    (size = 1 ∨ size = 2 ∨ size = 4) ∧ ((space = 3 ∧ latency = 4) ∨ (space = 1 ∧ latency = 16)) ∧ (es.Pairwise (fun a b => a.1 < b.1)) ∧ (∀ e ∈ es, e.1 < 256 / size ∧ 2 ^ 41 ≤ e.2.2) := by decide +kernel

/-- What VectorStoreWritesOnlyItsElements assumes is met together. -/
theorem witness_VectorStoreWritesOnlyItsElements :
    let s : State := base;
    let size : Nat := 2;
    let es : List (Nat × Nat × Nat) := [(0, 0xFF0000000040, 2 ^ 42 + 0x40), (3, 0xFF0000000041, 2 ^ 42 + 0x42), (127, 5, 2 ^ 40)];
    (size = 1 ∨ size = 2 ∨ size = 4) ∧ noTagWaits s ∧ (∀ e ∈ es, e.1 < 256 / size ∧ 2 ^ 40 ≤ e.2.2) ∧ (es.Pairwise (fun a b => a.2.2 + size ≤ b.2.2 ∨ b.2.2 + size ≤ a.2.2)) := by decide +kernel

/-- What RecordAccessesFailAsTheirUnits assumes is met together, clause by clause. -/
theorem witness_RecordAccessesFailAsTheirUnits :
   (let s : State := withRec (aRec 0x40 512 0x3F 3);
    let b : BitVec 6 := 7;
    let o : BitVec 5 := 0;
    let us : List (Nat × UnitCheck) := [(0, .fails .bounds 5 4), (4, .fails .align 9 4), (8, .fails .align 10 4)];
    let store : Bool := false;
    let c : Cause := .align;
    let a : Nat := 9;
    let r := record s b;
    r.malformed = true ∧ isElementFmt r.fmt = false ∧ isPacked4 r.fmt = false ∧ r.fmt ≠ 0x04 ∧ r.fmt ≠ 0x05 ∧ r.fmt ≠ 0x08 ∧ o.toNat < 8 ∧ unitWalks us = [] ∧ unitPrepared us = none ∧ unitOrdered us = false ∧ unitMeets s s.issue.core us store = false ∧ unitFault us = some (c, a)) ∧
   (let s : State := withRec (aRec 0x40 512 0x0F 3);
    let b : BitVec 6 := 7;
    let p : BitVec 3 := 1;
    let r := record s b;
    isElementFmt r.fmt = false ∧ p ≠ 0) ∧
   (let s : State := withRec (aRec 0x40 512 0x3F 3);
    let b : BitVec 6 := 7;
    let o : BitVec 5 := 8;
    let us : List (Nat × UnitCheck) := [(0, .go [⟨0, 4, 0x30010, .untranslated⟩])];
    let walk : Nat := 0x30010;
    let walks : List Nat := [];
    let r := record s b;
    8 ≤ o.toNat ∧ r.fmt ≠ 0x08 ∧ unitWalks us = walk :: walks) ∧
   (let s : State := with0 (fun c => { c with jobs := [{ id := 1, tag := some 3, kind := .cpy, bundle := 0, writes := [⟨3, 0x40, 0x80⟩] }] });
    let us : List (Nat × UnitCheck) := [(0, .go [⟨0, 4, 0xFF0000000040, .here (2 ^ 42 + 0x40)⟩])];
    let store : Bool := false;
    unitWalks us = [] ∧ unitPrepared us = none ∧ (unitOrdered us = true ∨ unitMeets s s.issue.core us store = true)) ∧
   (let us : List (Nat × UnitCheck) := [(0, .go [⟨0, 4, 0x10010, .prepared 0x200010⟩])];
    let a : Nat := 0x200010;
    unitWalks us = [] ∧ unitPrepared us = some a) := by decide +kernel

/-- What RecordOffsetsResolve assumes is met together, clause by clause. -/
theorem witness_RecordOffsetsResolve :
   (let r : Record := rr;
    isElementFmt r.fmt = true ∧ 0 < r.rowlen ∧ r.bmode = 0) ∧
   (let r : Record := { rr with bmode := 2, rowlen := 0 };
    isElementFmt r.fmt = true ∧ r.rowlen = 0 ∧ r.bmode = 2) ∧
   (let r : Record := { rr with bmode := 1 };
    isElementFmt r.fmt = true ∧ r.bmode = 1) ∧
   (let r : Record := { rr with bmode := 3 };
    isElementFmt r.fmt = true ∧ r.bmode = 3) := by decide +kernel

/-- What LaneSlicesAndRings assumes is met together, clause by clause. -/
theorem witness_LaneSlicesAndRings :
   (let s : State := withRing vring <| withV 3 (fun i => 77 * i + 5) <| withV 2 (fun i => 4 * i);
    let xi : BitVec 4 := 2;
    let q : BitVec 4 := 2;
    let p : BitVec 3 := 0;
    let i : BitVec 8 := 3;
    let c := me s;
    let n := s.issue.core;
    let on := fun m => (predA s p).getLsbD (4 * m);
    let off := fun m => elem (vecA s xi) 4 m + 4 * i.toNat;
    let good := ∀ m, m < 64 → on m = true → off m % 4 = 0 ∧ off m < 4096;
    let ring := c.regs.ring q.toNat;
    let usable := ring.cap ≠ 0 ∧ ring.slot = 256;
    let at' := fun slot => ring.base + 256 * slot;
    good ∧ (∀ m, m < 64 → on m = true → CoreWord.slice (1024 * m + off m / 4) ∉ c.bad) ∧ usable ∧ 0 < ring.free ∧ meetsJobs s n ⟨3, at' ring.tail, at' ring.tail + 256⟩ true = false ∧ 0 < ring.filled ∧ meetsJobs s n ⟨3, at' ring.head, at' ring.head + 256⟩ false = false) ∧
   (let s : State := withRing { vring with free := 0, filled := 0 } <| withV 3 (fun i => 77 * i + 5) <| withV 2 (fun i => 4088 + i) (with0 (fun c => { c with regs := { c.regs with p := [(1, 0x111)] } }));
    let xi : BitVec 4 := 2;
    let q : BitVec 4 := 2;
    let p : BitVec 3 := 1;
    let i : BitVec 8 := 1;
    let l : Nat := 1;
    let c := me s;
    let on := fun m => (predA s p).getLsbD (4 * m);
    let off := fun m => elem (vecA s xi) 4 m + 4 * i.toNat;
    let ring := c.regs.ring q.toNat;
    let usable := ring.cap ≠ 0 ∧ ring.slot = 256;
    l < 64 ∧ on l = true ∧ off l % 4 ≠ 0 ∧ (∀ m, m < l → on m = true → off m % 4 = 0) ∧ usable ∧ ring.free = 0 ∧ ring.filled = 0) ∧
   (let s : State := withRing { vring with slot := 128 } <| withV 3 (fun i => 77 * i + 5) <| withV 2 (fun i => 4092 + 4 * i) (with0 (fun c => { c with regs := { c.regs with p := [(1, 0x11)] } }));
    let xi : BitVec 4 := 2;
    let q : BitVec 4 := 2;
    let p : BitVec 3 := 1;
    let i : BitVec 8 := 0;
    let l : Nat := 1;
    let c := me s;
    let on := fun m => (predA s p).getLsbD (4 * m);
    let off := fun m => elem (vecA s xi) 4 m + 4 * i.toNat;
    let ring := c.regs.ring q.toNat;
    let usable := ring.cap ≠ 0 ∧ ring.slot = 256;
    l < 64 ∧ on l = true ∧ 4096 ≤ off l ∧ (∀ m, m < 64 → on m = true → off m % 4 = 0) ∧ (∀ m, m < l → on m = true → off m < 4096) ∧ ¬usable) ∧
   (let s : State := with0 (fun c => { c with bad := [.slice 3, .file (.x 5)] }) <| withRing vring <| withV 3 (fun i => 77 * i + 5) <| withV 2 (fun i => 4 * i);
    let xi : BitVec 4 := 2;
    let p : BitVec 3 := 0;
    let i : BitVec 8 := 3;
    let c := me s;
    let on := fun m => (predA s p).getLsbD (4 * m);
    let off := fun m => elem (vecA s xi) 4 m + 4 * i.toNat;
    let good := ∀ m, m < 64 → on m = true → off m % 4 = 0 ∧ off m < 4096;
    good ∧ (∃ m, m < 64 ∧ on m = true ∧ CoreWord.slice (1024 * m + off m / 4) ∈ c.bad)) := by decide +kernel

/-- What TaggedReducedAndPrefetchedVectors assumes is met together, clause by clause. -/
theorem witness_TaggedReducedAndPrefetchedVectors :
   (let s : State := withV 3 (fun i => 77 * i + 5) <| withRec (aRec 0x40 256 4 3);
    let b : BitVec 6 := 7;
    let xo : BitVec 5 := 0;
    let p : BitVec 3 := 0;
    let i : BitVec 8 := 0;
    let o : BitVec 5 := 3;
    let r := record s b;
    let k := start s xo i;
    let words := fun (read write : Bool) => units s r 64 (fun l => (predA s p).getLsbD (l * fmtSize r.fmt)) (fun l => offsetOf r ((k + l : Nat) : Int) 0) read write true;
    let sends := reduceUnits s r (x s xo).toNat p;
    r.malformed = false ∧ released s r ∧ wordRecordOk r = true ∧ clear s (words true false) false ∧ clear s (words false true) true ∧ o.toNat < 9 ∧ reduceFmtOk o.toNat r = true ∧ clear s sends true) ∧
   (let s : State := setX 4 0 <| setX 5 0x500000003 <| withV 3 (fun i => 77 * i + 5) <| withRec (aRec 0x40 256 8 3);
    let b : BitVec 6 := 7;
    let xo : BitVec 5 := 4;
    let p : BitVec 3 := 0;
    let o : BitVec 5 := 0x18;
    let r := record s b;
    let sends := reduceUnits s r (x s xo).toNat p;
    let jc := (rx s (xo.toNat + 1)).toNat;
    r.malformed = false ∧ released s r ∧ o = 0x18 ∧ r.fmt = 0x08 ∧ clear s sends true ∧ 0 < jc / 2 ^ 32 % 2 ^ 32 ∧ jc % 2 ^ 32 < jc / 2 ^ 32 % 2 ^ 32) ∧
   (let s : State := setX 4 0 <| setX 5 0x500000005 <| withV 3 (fun i => 77 * i + 5) <| withRec (aRec 0x40 256 8 3);
    let b : BitVec 6 := 7;
    let xo : BitVec 5 := 4;
    let p : BitVec 3 := 0;
    let o : BitVec 5 := 0x18;
    let r := record s b;
    let sends := reduceUnits s r (x s xo).toNat p;
    let jc := (rx s (xo.toNat + 1)).toNat;
    r.malformed = false ∧ released s r ∧ o = 0x18 ∧ r.fmt = 0x08 ∧ r.order ≠ 1 ∧ clear s sends true ∧ jc / 2 ^ 32 % 2 ^ 32 ≤ jc % 2 ^ 32) := by decide +kernel

/-- What MatrixInstructionsEnterTheQueue assumes is met together, clause by clause. -/
theorem witness_MatrixInstructionsEnterTheQueue :
   (let s : State := withRing { mring with fmt := 9, slot := 192 } (with0 (fun c => { c with mx := { c.mx with planes := [(1, { fmt := 10 })] }, regs := { c.regs with shape := [(22, 3)] } }));
    let c : BitVec 2 := 1;
    let o : BitVec 2 := 2;
    let m : BitVec 2 := 1;
    let q : BitVec 4 := 2;
    let k : BitVec 6 := 9;
    let l : BitVec 1 := 1;
    let u := me s;
    let r := ringOf s q;
    let count := k.toNat + 1;
    let shape := fun f => u.regs.readShape 1 m.toNat f;
    let f1 := (shape 1).toNat;
    let f2 := (shape 2).toNat;
    let wr := u.regs.ring (field f2 12 4);
    let plane := mxClass r.fmt = mxClass (planeFmtAfter u.mx l.toNat);
    u.mx.loadBusy ≤ u.now ∧ planeRead u.mx l.toNat = false ∧ (∀ e ∈ u.mx.queue, e.kind ≠ .mtl) ∧ readable r 64 ∧ 64 ≤ r.filled ∧ arrayAccepts s c ∧ readable r count ∧ plane ∧ count ≤ r.filled ∧ mtlFieldOk f2 q.toNat = true ∧ (bitAt f2 16 = true → u.mx.loadBusy ≤ u.now ∧ readable wr 64 ∧ mxClass wr.fmt = mxClass r.fmt) ∧ slotInterlocked s (.acc o.toNat) = false ∧ writable r count 128 (r.fmt = 0x09) ∧ count ≤ r.free ∧ moutFieldOk f1 = true ∧ writable r count (moutBytes r.fmt) (moutFmt r.fmt = true) ∧ u.mx.queue = []) ∧
   (let s : State := withRing mring (with0 (fun c => { c with mx := { c.mx with queue := [fmxOp], gangDone := true }, logical := 3 }));
    let u := me s;
    u.logical % 16 ≠ 0 ∧ u.mx.gangDone = true) ∧
   (let s : State := gang true;
    let c : BitVec 2 := 1;
    let q : BitVec 4 := 2;
    let k : BitVec 6 := 3;
    let l : BitVec 1 := 1;
    let u := me s;
    let n := s.issue.core;
    let count := k.toNat + 1;
    u.logical % 16 = 0 ∧ arrayAccepts s c ∧ gangJoined s n c.toNat = true ∧ gangRingsOk s n q.toNat count l.toNat = true ∧ gangRowsReady s n q.toNat count = true) := by decide +kernel

/-- What MatrixIssueChecks assumes is met together, clause by clause. -/
theorem witness_MatrixIssueChecks :
   (let s : State := with0 (fun c => { c with mx := { c.mx with busy := 101 } });
    let c : BitVec 2 := 1;
    let u := me s;
    let n := s.issue.core;
    ¬arrayAccepts s c ∧ u.logical % 16 = 0 ∧ gangJoined s n c.toNat = false) ∧
   (let s : State := withRing { mring with fmt := 9, slot := 256, filled := 3 } (with0 (fun c => { c with logical := 3, mx := { c.mx with queue := [fmxOp], planes := [(1, { fmt := 10 })] }, regs := { c.regs with shape := [(22, BitVec.ofNat 32 (2 ^ 16 + 3 * 2 ^ 12))] } }));
    let c : BitVec 2 := 1;
    let m : BitVec 2 := 1;
    let q : BitVec 4 := 2;
    let k : BitVec 6 := 3;
    let l : BitVec 1 := 1;
    let u := me s;
    let r := ringOf s q;
    let count := k.toNat + 1;
    let plane := mxClass r.fmt = mxClass (planeFmtAfter u.mx l.toNat);
    let f2 := (u.regs.readShape 1 m.toNat 2).toNat;
    let wr := u.regs.ring (field f2 12 4);
    let loads := bitAt f2 16 = true → readable wr 64 ∧ mxClass wr.fmt = mxClass r.fmt;
    let pathFree := bitAt f2 16 = true → u.mx.loadBusy ≤ u.now;
    arrayAccepts s c ∧ readable r count ∧ plane ∧ r.filled < count ∧ pathFree ∧ ¬(readable r count ∧ plane ∧ loads) ∧ u.logical % 16 ≠ 0 ∧ u.mx.queue ≠ [] ∧ u.mx.gangDone = false) ∧
   (let s : State := withRing { mring with cap := 0 };
    let c : BitVec 2 := 1;
    let o : BitVec 2 := 2;
    let q : BitVec 4 := 2;
    let k : BitVec 6 := 3;
    let l : BitVec 1 := 1;
    let u := me s;
    let r := ringOf s q;
    let count := k.toNat + 1;
    let plane := mxClass r.fmt = mxClass (planeFmtAfter u.mx l.toNat);
    let writes := writable r count (moutBytes r.fmt) (moutFmt r.fmt = true);
    arrayAccepts s c ∧ ¬(readable r count ∧ plane) ∧ slotInterlocked s (.acc o.toNat) = false ∧ ¬writable r count 128 (r.fmt = 0x09) ∧ ¬writes) ∧
   (let s : State := withRing mring (with0 (fun c => { c with logical := 3, regs := { c.regs with shape := [(21, 8), (22, BitVec.ofNat 32 (2 ^ 18))] } }));
    let c : BitVec 2 := 1;
    let m : BitVec 2 := 1;
    let q : BitVec 4 := 2;
    let k : BitVec 6 := 3;
    let l : BitVec 1 := 1;
    let u := me s;
    let r := ringOf s q;
    let count := k.toNat + 1;
    let plane := mxClass r.fmt = mxClass (planeFmtAfter u.mx l.toNat);
    let f1 := (u.regs.readShape 1 m.toNat 1).toNat;
    let f2 := (u.regs.readShape 1 m.toNat 2).toNat;
    let wr := u.regs.ring (field f2 12 4);
    let writes := writable r count (moutBytes r.fmt) (moutFmt r.fmt = true);
    let loads := bitAt f2 16 = true → readable wr 64 ∧ mxClass wr.fmt = mxClass r.fmt;
    let pathFree := bitAt f2 16 = true → u.mx.loadBusy ≤ u.now;
    arrayAccepts s c ∧ writes ∧ count ≤ r.free ∧ moutFieldOk f1 = false ∧ pathFree ∧ readable r count ∧ plane ∧ loads ∧ count ≤ r.filled ∧ mtlFieldOk f2 q.toNat = false) ∧
   (let s : State := withRing { mring with filled := 3 };
    let c : BitVec 2 := 1;
    let m : BitVec 2 := 1;
    let q : BitVec 4 := 2;
    let k : BitVec 6 := 3;
    let l : BitVec 1 := 1;
    let u := me s;
    let r := ringOf s q;
    let count := k.toNat + 1;
    let plane := mxClass r.fmt = mxClass (planeFmtAfter u.mx l.toNat);
    let f2 := (u.regs.readShape 1 m.toNat 2).toNat;
    let wr := u.regs.ring (field f2 12 4);
    let loads := bitAt f2 16 = true → readable wr 64 ∧ mxClass wr.fmt = mxClass r.fmt;
    let pathFree := bitAt f2 16 = true → u.mx.loadBusy ≤ u.now;
    arrayAccepts s c ∧ pathFree ∧ readable r count ∧ plane ∧ loads ∧ r.filled < count) ∧
   (let s : State := withRing { mring with fmt := 9, slot := 256, free := 3 };
    let c : BitVec 2 := 1;
    let q : BitVec 4 := 2;
    let k : BitVec 6 := 3;
    let r := ringOf s q;
    let count := k.toNat + 1;
    let writes := writable r count (moutBytes r.fmt) (moutFmt r.fmt = true);
    arrayAccepts s c ∧ writes ∧ r.free < count) := by decide +kernel

/-- What MatrixEventsAdvanceTheUnit assumes is met together, clause by clause. -/
theorem witness_MatrixEventsAdvanceTheUnit :
   (let s : State := withOp { id := 1, kind := .mclr, acc := 1, zero := true };
    let n : Nat := 0;
    let o : MxOp := { id := 1, kind := .mclr, acc := 1, zero := true };
    let rest : List MxOp := [];
    let i : Nat := 0;
    let c := getCore s n;
    readerOf c = none ∧ c.mx.queue = o :: rest ∧ mxReady o = true ∧ o.kind = .mclr ∧ i < 64 ∧ o.zero = true) ∧
   (let o : MxOp := { id := 1, kind := .mside, acc := 1, out := 0, shape := 77 };
    o.kind = .mside ∧ o.out = 0) ∧
   (let o : MxOp := { id := 1, kind := .mclr, acc := 1, zero := false };
    let i : Nat := 0;
    o.kind = .mclr ∧ i < 64 ∧ o.zero = false) ∧
   (let s : State := withOp rop;
    let n : Nat := 0;
    let p : Nat := 2 ^ 42 + 0x40;
    let ps : List Nat := [2 ^ 42 + 0x140];
    let o : MxOp := rop;
    let c := getCore s n;
    readerOf c = some o ∧ o.slots = p :: ps ∧ o.gang = []) ∧
   (let s : State := withOp pop;
    let n : Nat := 0;
    let p : Nat := 2 ^ 42 + 0x1000;
    let ps : List Nat := [];
    let o : MxOp := pop;
    let rest : List MxOp := [];
    let c := getCore s n;
    c.mx.queue = o :: rest ∧ o.outs = p :: ps) ∧
   (let s : State := withOp tlop;
    let n : Nat := 0;
    let o : MxOp := tlop;
    let rest : List MxOp := [];
    let c := getCore s n;
    c.mx.queue = o :: rest ∧ o.kind = .mtl ∧ o.stepping = true ∧ o.reload = false ∧ o.rows.length = o.count) ∧
   (let s : State := withOp { tlop with stepping := false, rows := [], step := 1 };
    let n : Nat := 0;
    let o : MxOp := { tlop with stepping := false, rows := [], step := 1 };
    let rest : List MxOp := [];
    let c := getCore s n;
    let r := c.regs.ring o.ring;
    c.mx.queue = o :: rest ∧ o.kind = .mtl ∧ o.stepping = false ∧ o.step < o.steps ∧ o.count ≤ r.filled ∧ c.status = .running) ∧
   (let o : MxOp := { id := 1, kind := .mside, acc := 1, out := 1, shape := 77 };
    let i : Nat := 63;
    o.kind = .mside ∧ o.out = 1 ∧ i < 64) ∧
   (let o : MxOp := { id := 1, kind := .mside, acc := 1, out := 2, shape := 77 };
    let i : Nat := 63;
    o.kind = .mside ∧ o.out = 2 ∧ i < 64) := by decide +kernel

/-- What StreamInstructionsPostTheirJob assumes is met together, clause by clause. -/
theorem witness_StreamInstructionsPostTheirJob :
   (let s : State := withRing { mring with fmt := 4 } <| hs 36 (2 * 65536 + 16) <| setX 8 0 <| recs [(7, aRec 0x10000 1024 4 0), (8, aRec 0x40 1024 4 3)];
    let m : BitVec 2 := 1;
    let bs : BitVec 6 := 7;
    let bd : BitVec 6 := 8;
    let q : BitVec 4 := 2;
    let xo : BitVec 5 := 8;
    let tg : BitVec 5 := 31;
    let t : Task := aTask;
    let o : CodeObj := nopCode;
    let c := me s;
    let f0 := hsField s m.toNat 0;
    let f1 := hsField s m.toNat 1;
    let src := record s bs;
    let dst := record s bd;
    let r := ringOf s q;
    let origin := (x s xo).toNat;
    let lo := origin % 2 ^ 32;
    let hi := origin / 2 ^ 32;
    let elems := if f1Trans f1 then f0Rows f0 else f0Cols f0;
    let entry := t.firstOvl + origin;
    let noWindow := ∀ j ∈ c.jobs, (j.kind = .wset ∨ j.kind = .wadv) → j.ring ≠ q.toNat;
    c.task = some t ∧ tagFree s tg ∧ shapeGood s m ∧ src.malformed = false ∧ dst.malformed = false ∧ fmtPairOk src.fmt dst.fmt = true ∧ (isElementFmt src.fmt = false → f1Trans f1 = false) ∧ wholeUnits src [f0Cols f0, lo, hi] ∧ src.range.meets dst.range = false ∧ transGood r src.fmt f1 ∧ wholeUnits src [f0Cols f0, lo] ∧ ringTakes r src.fmt elems ∧ transGood r dst.fmt f1 ∧ wholeUnits dst [f0Cols f0, lo] ∧ ringTakes r dst.fmt elems ∧ noWindow ∧ wholeUnits src [f0Cols f0] ∧ ringTakes r src.fmt (f0Cols f0) ∧ src.fmt = r.fmt ∧ f0Rows f0 ≤ r.cap ∧ curObject s = some o ∧ origin < t.ovls ∧ (∀ j ∈ c.jobs, j.kind = .ovl → j.first + j.rows ≤ o.overlayFirst entry ∨ o.overlayFirst entry + o.overlayCount entry ≤ j.first)) ∧
   (let s : State := with0 (fun c => { c with jobs := [{ id := 1, tag := some 3, kind := .cpy, bundle := 0 }] });
    let tg : BitVec 5 := 3;
    let t : Task := aTask;
    let c := me s;
    c.task = some t ∧ ¬tagFree s tg) ∧
   (let s : State := withRing { mring with fmt := 4, win := some ⟨aRec 0x10000 1024 4 0, 16, 5⟩ } <| recs [];
    let q : BitVec 4 := 2;
    let xo : BitVec 5 := 8;
    let tg : BitVec 5 := 31;
    let t : Task := aTask;
    let w : Window := ⟨aRec 0x10000 1024 4 0, 16, 5⟩;
    let c := me s;
    let r := ringOf s q;
    let origin := (x s xo).toNat;
    c.task = some t ∧ tagFree s tg ∧ r.win = some w ∧ 0 < origin ∧ origin < 2 ^ 16) ∧
   (let s : State := setX 8 0 (with0 (fun c => { c with jobs := [{ id := 1, tag := some 3, kind := .ovl, bundle := 0, first := 3, rows := 1 }] }));
    let xo : BitVec 5 := 8;
    let t : Task := aTask;
    let o : CodeObj := nopCode;
    let c := me s;
    let origin := (x s xo).toNat;
    let entry := t.firstOvl + origin;
    c.task = some t ∧ curObject s = some o ∧ origin < t.ovls ∧ (∃ j ∈ c.jobs, j.kind = .ovl ∧ j.first < o.overlayFirst entry + o.overlayCount entry ∧ o.overlayFirst entry < j.first + j.rows)) := by decide +kernel

/-- What CollectivesArePosted assumes is met together, clause by clause. -/
theorem witness_CollectivesArePosted :
   (let s : State := setX 5 (4096 * 0 + 12 * 2 ^ 32 + 1) <| commed <| recs [(7, aRec 0x10000 1024 4 0), (8, aRec 0x10000 1024 4 0)];
    let k : BitVec 4 := 3;
    let bs : BitVec 6 := 7;
    let br : BitVec 6 := 8;
    let xo : BitVec 5 := 5;
    let tg : BitVec 5 := 3;
    let t : Task := aTask;
    let n := s.issue.core;
    let ctx := ctxOfCore s n;
    let cm : Comm := spGet {} ctx.comms k.toNat;
    let word := (x s xo).toNat;
    let p := paramsOf word;
    let send := record s bs;
    let recv := record s br;
    let f1 := hsField s p.fh 1;
    let us := usesSend p cm.pos;
    let ur := usesRecv p cm.pos;
    let judged := fun (b : Record) => if p.reduces then b else { b with fmt := 0 };
    (me s).task = some t ∧ tagFree s tg ∧ cm.en = true ∧ paramsOk p cm.size = true ∧ rehearsing s (whoIs s n) = false ∧ (p.reduces = true → p.op = 1 → p.ord = false → t.exact = false) ∧ (p.kind = 0 → bs = 0 ∧ br = 0) ∧ (us = true → (judged send).malformed = false) ∧ (ur = true → (judged recv).malformed = false) ∧ (p.reduces = true → opFmtOk p.op send.fmt = true ∧ (ur = true → recv.fmt = send.fmt)) ∧ f1Ok f1 (f1Act f1 == 1 || p.flags) = true ∧ sizeOk p cm.size cm.pos send recv = true ∧ (actionFault s f1 (hsField s p.fh 2)).1 = .none ∧ (p.flags = true → (flagArrayFault s f1 (hsField s p.fh 3) (chunkCount p cm.pos recv)).1 = .none)) ∧
   (let s : State := setX 5 (11 * 2 ^ 32) <| commed <| recs [(7, aRec 0x10000 1024 4 0), (8, aRec 0x10000 1024 4 0)];
    let k : BitVec 4 := 3;
    let xo : BitVec 5 := 5;
    let tg : BitVec 5 := 3;
    let t : Task := aTask;
    let n := s.issue.core;
    let ctx := ctxOfCore s n;
    let cm : Comm := spGet {} ctx.comms k.toNat;
    let word := (x s xo).toNat;
    let p := paramsOf word;
    (me s).task = some t ∧ tagFree s tg ∧ (cm.en = false ∨ paramsOk p cm.size = false ∨ rehearsing s (whoIs s n) = true)) := by decide +kernel

/-- What RingsWaitsAndHints assumes is met together, clause by clause. -/
theorem witness_RingsWaitsAndHints :
   (let s : State := setX 5 (0x1000 + 2 * 2 ^ 24 + 16 * 2 ^ 32 + 4 * 2 ^ 48);
    let q : BitVec 4 := 2;
    let xo : BitVec 5 := 5;
    let tg : BitVec 5 := 4;
    let a : BitVec 1 := 1;
    let bs : BitVec 6 := 7;
    let c := me s;
    let w := (x s xo).toNat;
    let base := w % 2 ^ 19;
    let unit := field w 24 8;
    let cap := field w 32 16;
    let b := record s bs;
    ringClaimed c q.toNat = false ∧ ringOperandOk w = true ∧ base + cap * 64 * unit ≤ 524288 ∧ a = 1 ∧ c.jobs = [] ∧ tagFree s tg ∧ b.malformed = false) ∧
   (let s : State := recs [(7, aRec 0x10000 1024 0x3F 0)] <| with0 (fun c => { c with jobs := [job1] }) <| withCtx (fun c => { c with colls := [coll1] });
    let q : BitVec 4 := 2;
    let xo : BitVec 5 := 5;
    let tg : BitVec 5 := 3;
    let a : BitVec 1 := 0;
    let bs : BitVec 6 := 7;
    let j : Job := job1;
    let key : Nat × Nat := (3, 7);
    let ctx : Ctx := { aCtx with colls := [coll1] };
    let c := me s;
    let n := s.issue.core;
    let w := (x s xo).toNat;
    let b := record s bs;
    ringClaimed c q.toNat = false ∧ ringOperandOk w = false ∧ a = 0 ∧ ¬tagFree s tg ∧ c.jobs = [j] ∧ j.tag = some tg.toNat ∧ j.coll = some key ∧ getCtx s (slotOfCore s n) = some ctx ∧ b.malformed = true) ∧
   (let s : State := with0 (fun c => { c with mx := { c.mx with queue := [{ id := 1, kind := .mma, ring := 2 }] }, jobs := [job1] }) <| withCtx (fun c => { c with colls := [coll1] });
    let q : BitVec 4 := 2;
    let a : BitVec 1 := 1;
    let c := me s;
    ringClaimed c q.toNat = true ∧ a = 1 ∧ c.jobs ≠ []) ∧
   (let s : State := withRing mring <| setX 5 (0x1000 + 65 * 2 ^ 24) <| hs 36 (2 * 65536 + 16) <| recs [(7, aRec 0x10000 1024 4 0)];
    let tg : BitVec 5 := 4;
    let a : BitVec 1 := 0;
    a = 0 ∧ tagFree s tg) := by decide +kernel

/-- What ResultsLandOnTheirCore assumes is met together, clause by clause. -/
theorem witness_ResultsLandOnTheirCore :
   (let s : State := with0 (fun c => { c with pend := [dueX, ix], ctl := { c.ctl with wait := some 100 } });
    let n : Nat := 0;
    let id : Nat := 2;
    let d : Nat := 100;
    let e : Pending := ix;
    let c := getCore s n;
    landsLater c id = false ∧ (c.pend.find? (fun q => q.id == id && q.due.isNone && q.waits == 0) = some e) ∧ c.ctl.wait = some d ∧ d ≤ c.now) ∧
   (let s : State := with0 (fun c => { c with pend := [accP], mx := { c.mx with queue := [{ id := 1, kind := .mma, acc := 3, ring := 2, count := 1 }] } });
    let n : Nat := 0;
    let id : Nat := 2;
    let c := getCore s n;
    landsLater c id = true) ∧
   (let s : State := with0 (fun c => { c with pend := [dueX, ix], ctl := { c.ctl with wait := some 101 } });
    let n : Nat := 0;
    let d : Nat := 101;
    let c := getCore s n;
    c.ctl.wait = some d ∧ c.now < d) := by decide +kernel

/-- What RegionsOfCodeAreWritten assumes is met together, clause by clause. -/
theorem witness_RegionsOfCodeAreWritten :
   (let s : State := with0 (fun c => { c with imem := {}, task := some { aTask with phase := .loading }, jobs := [ovlJob] });
    let n : Nat := 0;
    let k : Nat := 0;
    let region : Nat := 0;
    let tag : Nat := 3;
    let t : Task := { aTask with phase := .loading };
    let o : CodeObj := nopCode;
    let c := getCore s n;
    c.task = some t ∧ codeOf (ctxOfCore s n) t.code = some o ∧ c.ctx = some k ∧ t.phase = .loading ∧ o.overlayFirst 0 ≤ region ∧ region < o.overlayFirst 0 + o.overlayCount 0 ∧ spFind c.imem.tags region ≠ some o.tag) ∧
   (let s : State := with0 (fun c => { c with jobs := [ovlJob] });
    let n : Nat := 0;
    let k : Nat := 0;
    let region : Nat := 3;
    let tag : Nat := 3;
    let t : Task := aTask;
    let o : CodeObj := nopCode;
    let j : Job := ovlJob;
    let c := getCore s n;
    c.task = some t ∧ codeOf (ctxOfCore s n) t.code = some o ∧ c.ctx = some k ∧ (c.jobs.find? (fun q => q.tag == some tag && q.kind == .ovl) = some j) ∧ j.phase = .running ∧ j.regions.contains region = true) := by decide +kernel

/-- What JobsStartAndClaimSlots assumes is met together, clause by clause. -/
theorem witness_JobsStartAndClaimSlots :
   (let s : State := onRing (withJobs [ringJob .cpyq]);
    let n : Nat := 0;
    let id : Nat := 2;
    let j : Job := ringJob .cpyq;
    let c := getCore s n;
    hasJob s n id j ∧ (j.phase ≠ .posted ∨ (∃ e ∈ jobsBefore j.id c.jobs, e.conflicts j = true) ∨ (∃ o ∈ c.sync, o.id < j.id) ∨ behindAccess s n j = true) ∧ isRingJob j = true ∧ slotReady c j = true ∧ jobReady s n j = true ∧ j.kind ≠ .cpyo) ∧
   (let s : State := withJobs [cpyJob];
    let n : Nat := 0;
    let id : Nat := 2;
    let j : Job := cpyJob;
    let c := getCore s n;
    hasJob s n id j ∧ j.phase = .posted ∧ (∀ e ∈ jobsBefore j.id c.jobs, e.conflicts j = false) ∧ (∀ o ∈ c.sync, j.id ≤ o.id) ∧ behindAccess s n j = false ∧ j.coll = none) ∧
   (let s : State := withJobs [{ cpyJob with coll := some (3, 7), kind := .kpost }];
    let n : Nat := 0;
    let id : Nat := 2;
    let j : Job := { cpyJob with coll := some (3, 7), kind := .kpost };
    let key : Nat × Nat := (3, 7);
    let c := getCore s n;
    hasJob s n id j ∧ j.phase = .posted ∧ (∀ e ∈ jobsBefore j.id c.jobs, e.conflicts j = false) ∧ (∀ o ∈ c.sync, j.id ≤ o.id) ∧ behindAccess s n j = false ∧ j.coll = some key) ∧
   (let s : State := onRing (withJobs [ringJob .cpyo]);
    let t : State := (consumeRow (onRing (withJobs [ringJob .cpyo])) 0 (ringJob .cpyo)).1;
    let n : Nat := 0;
    let id : Nat := 2;
    let j : Job := ringJob .cpyo;
    let c := getCore s n;
    hasJob s n id j ∧ isRingJob j = true ∧ slotReady c j = true ∧ jobReady s n j = true ∧ j.kind = .cpyo ∧ consumeRow s n j = (t, none)) := by decide +kernel

/-- What another clause of JobsStartAndClaimSlots assumes is met together. -/
theorem witness_JobsStartAndClaimSlots_2 :
    let s : State := tight tightO;
    let t : State := (consumeRow (tight tightO) 0 tightO).1;
    let n : Nat := 0;
    let id : Nat := 2;
    let va : Nat := 0x10000;
    let j : Job := tightO;
    let c := getCore s n;
    hasJob s n id j ∧ isRingJob j = true ∧ slotReady c j = true ∧ jobReady s n j = true ∧ j.kind = .cpyo ∧ consumeRow s n j = (t, some va) :=
  ⟨by decide +kernel, by decide +kernel, by decide +kernel, by decide +kernel, by decide +kernel, pair_of_snd (by decide +kernel)⟩

/-- What JobsCompleteOrFault assumes is met together, clause by clause. -/
theorem witness_JobsCompleteOrFault :
   (let s : State := withJobs [{ okJob with doneRows := 1 }];
    let n : Nat := 0;
    let id : Nat := 2;
    let j : Job := { okJob with doneRows := 1 };
    hasJob s n id j ∧ copyReady s n j = false ∧ jobDone s n j = true ∧ jobFaultOf s n j = none) ∧
   (let s : State := withJobs [badJob];
    let n : Nat := 0;
    let id : Nat := 2;
    let addr : Nat := 0xFF0000000404;
    let j : Job := badJob;
    let cause : Cause := .bounds;
    hasJob s n id j ∧ copyReady s n j = false ∧ jobDone s n j = false ∧ jobFaultOf s n j = some (cause, addr) ∧ j.kind = .cpy) ∧
   (let s : State := withJobs [okJob];
    let t : State := (moveUnits 0 okJob (copyRow okJob 0) (withJobs [okJob])).1;
    let n : Nat := 0;
    let id : Nat := 2;
    let j : Job := okJob;
    let j2 : Job := { okJob with doneRows := 1 };
    let row := copyRow j j.doneRows;
    let copied := awaitedPulse (modJob t n id (fun q => { q with doneRows := q.doneRows + 1 })) (slotOfCore s n);
    hasJob s n id j ∧ copyReady s n j = true ∧ moveUnits n j row s = (t, none) ∧ hasJob copied n id j2) ∧
   (let s : State := withJobs [{ okJob with kind := .kpost, coll := none }];
    let n : Nat := 0;
    let id : Nat := 2;
    let addr : Nat := 0x400;
    let j : Job := { okJob with kind := .kpost, coll := none };
    let cause : Cause := .bounds;
    hasJob s n id j ∧ jobFaultOf s n j = some (cause, addr) ∧ j.kind ≠ .cpy) := by decide +kernel

/-- What another clause of JobsCompleteOrFault assumes is met together. -/
theorem witness_JobsCompleteOrFault_2 :
    let s : State := tight tightC;
    let t : State := (moveUnits 0 tightC (copyRow tightC 0) (tight tightC)).1;
    let n : Nat := 0;
    let id : Nat := 2;
    let addr : Nat := 0x10000;
    let j : Job := tightC;
    let row := copyRow j j.doneRows;
    hasJob s n id j ∧ copyReady s n j = true ∧ moveUnits n j row s = (t, some addr) :=
  ⟨by decide +kernel, by decide +kernel, pair_of_snd (by decide +kernel)⟩

/-- What IdleCoresFindAndStartWork assumes is met together, clause by clause. -/
theorem witness_IdleCoresFindAndStartWork :
   (let s : State := with0 (fun c => { c with mx := { c.mx with queue := [{ id := 1, kind := .mma, ring := 2, count := 1 }] } }) (holding (heldT .point 0 0) exactLaunch);
    let n : Nat := 0;
    let k : Nat := 0;
    let x : Ctx := { aCtx with launches := [exactLaunch] };
    let l : Launch := exactLaunch;
    let t : Task := heldT .point 0 0;
    let obj : CodeObj := nopCode;
    let c := getCore s n;
    c.ctx = some k ∧ getCtx s k = some x ∧ ctxTakes x = true ∧ c.task = some t ∧ t.phase = .held ∧ getLaunch s k t.launch = some l ∧ codeOf x l.desc.code = some obj ∧ c.mx.queue ≠ []) ∧
   (let s : State := idleCore (fun c => { c with launches := [freshRes] });
    let n : Nat := 0;
    let k : Nat := 0;
    let x : Ctx := { aCtx with launches := [freshRes] };
    let l : Launch := freshRes;
    let run : Bool := false;
    let c := getCore s n;
    seeks s n k x ∧ residentFor x c.logical = some (l, run)) ∧
   (let s : State := seekIdle;
    let n : Nat := 0;
    let k : Nat := 0;
    let x : Ctx := { aCtx with launches := [exactLaunch], board := [pentry] };
    let f : Found := gotIdle;
    let c := getCore s n;
    seeks s n k x ∧ residentFor x c.logical = none ∧ findWork s ⟨k, c.logical, none⟩ false = some f) ∧
   (let s : State := idleCore (fun c => { c with launches := [exactLaunch] });
    let n : Nat := 0;
    let k : Nat := 0;
    let x : Ctx := { aCtx with launches := [exactLaunch] };
    let c := getCore s n;
    seeks s n k x ∧ residentFor x c.logical = none ∧ findWork s ⟨k, c.logical, none⟩ false = none) ∧
   (let s : State := with0 (fun c => { c with task := some { aTask with mode := 2, kind := .resident, slot := none }, sync := [tgetOp] }) (withCtx (fun c => { c with launches := [freshRes] }));
    let n : Nat := 0;
    let k : Nat := 0;
    let x : Ctx := { aCtx with launches := [freshRes] };
    let t : Task := { aTask with mode := 2, kind := .resident, slot := none };
    let o : SyncOp := tgetOp;
    let c := getCore s n;
    c.ctx = some k ∧ getCtx s k = some x ∧ c.task = some t ∧ c.status = .running ∧ waitingTget c = some o) ∧
   (let s : State := holding (heldT .resident 2 0) freshRes;
    let n : Nat := 0;
    let k : Nat := 0;
    let x : Ctx := { aCtx with launches := [freshRes] };
    let l : Launch := freshRes;
    let t : Task := heldT .resident 2 0;
    let obj : CodeObj := nopCode;
    let c := getCore s n;
    c.ctx = some k ∧ getCtx s k = some x ∧ ctxTakes x = true ∧ c.task = some t ∧ t.phase = .held ∧ getLaunch s k t.launch = some l ∧ codeOf x l.desc.code = some obj ∧ c.mx.queue = [] ∧ t.kind = .resident) ∧
   (let s : State := holding (heldT .point 0 0) exactLaunch;
    let n : Nat := 0;
    let k : Nat := 0;
    let sl : Nat := 0;
    let x : Ctx := { aCtx with launches := [exactLaunch] };
    let l : Launch := exactLaunch;
    let t : Task := heldT .point 0 0;
    let obj : CodeObj := nopCode;
    let c := getCore s n;
    c.ctx = some k ∧ getCtx s k = some x ∧ ctxTakes x = true ∧ c.task = some t ∧ t.phase = .held ∧ getLaunch s k t.launch = some l ∧ codeOf x l.desc.code = some obj ∧ c.mx.queue = [] ∧ freeTaskSlot s = some sl ∧ t.kind = .point) ∧
   (let s : State := holding (heldT .block 1 0x10100) exactLaunch;
    let n : Nat := 0;
    let k : Nat := 0;
    let sl : Nat := 0;
    let x : Ctx := { aCtx with launches := [exactLaunch] };
    let l : Launch := exactLaunch;
    let run : Bool := false;
    let t : Task := heldT .block 1 0x10100;
    let obj : CodeObj := nopCode;
    let c := getCore s n;
    c.ctx = some k ∧ getCtx s k = some x ∧ ctxTakes x = true ∧ c.task = some t ∧ t.phase = .held ∧ getLaunch s k t.launch = some l ∧ codeOf x l.desc.code = some obj ∧ c.mx.queue = [] ∧ freeTaskSlot s = some sl ∧ t.kind = .block ∧ blockAt s (hwWho k t.launch t.run) t.item = true) ∧
   (let s : State := holding (heldT .block 1 0x30100) exactLaunch;
    let n : Nat := 0;
    let k : Nat := 0;
    let sl : Nat := 0;
    let x : Ctx := { aCtx with launches := [exactLaunch] };
    let l : Launch := exactLaunch;
    let run : Bool := false;
    let t : Task := heldT .block 1 0x30100;
    let obj : CodeObj := nopCode;
    let c := getCore s n;
    c.ctx = some k ∧ getCtx s k = some x ∧ ctxTakes x = true ∧ c.task = some t ∧ t.phase = .held ∧ getLaunch s k t.launch = some l ∧ codeOf x l.desc.code = some obj ∧ c.mx.queue = [] ∧ freeTaskSlot s = some sl ∧ t.kind = .block ∧ blockAt s (hwWho k t.launch t.run) t.item = false) ∧
   (let s : State := with0 (fun c => { c with outcome := .drain }) (idleCore id);
    let n : Nat := 0;
    let k : Nat := 0;
    let x : Ctx := aCtx;
    let c := getCore s n;
    c.ctx = some k ∧ getCtx s k = some x ∧ c.task = none ∧ (ctxTakes x = false ∨ c.outcome ≠ .nothing)) := by decide +kernel

/-- What another clause of IdleCoresFindAndStartWork assumes is met together. -/
theorem witness_IdleCoresFindAndStartWork_2 :
    let s : State := slotsFull;
    let n : Nat := 0;
    let k : Nat := 0;
    let x : Ctx := { aCtx with launches := [exactLaunch] };
    let l : Launch := exactLaunch;
    let t : Task := heldT .point 0 0;
    let obj : CodeObj := nopCode;
    let c := getCore s n;
    c.ctx = some k ∧ getCtx s k = some x ∧ ctxTakes x = true ∧ c.task = some t ∧ t.phase = .held ∧ getLaunch s k t.launch = some l ∧ codeOf x l.desc.code = some obj ∧ freeTaskSlot s = none ∧ t.kind ≠ .resident :=
  ⟨by decide +kernel, by decide +kernel, by decide +kernel, by decide +kernel, by decide +kernel, by decide +kernel, by decide +kernel, noFreeSlot, by decide +kernel⟩

/-- What TasksCompleteAndMerge assumes is met together, clause by clause. -/
theorem witness_TasksCompleteAndMerge :
   (let s : State := with0 (fun c => { c with task := some { aTask with phase := .ending false } });
    let n : Nat := 0;
    let k : Nat := 0;
    let h : Nat := 1;
    let sl : Nat := 0;
    let t : Task := { aTask with phase := .ending false };
    let b : Bool := false;
    let l : Launch := aLaunch;
    let v : Slot := { num := 0, deps := [], core := 0, item := 0, kind := .point, completed := false, stamp := 1 };
    let c := getCore s n;
    let run := runOfSlot l sl;
    c.ctx = some k ∧ c.task = some t ∧ t.phase = .ending b ∧ drained c = true ∧ t.mode ≠ 2 ∧ t.slot = some sl ∧ getLaunch s k h = some l ∧ findSlot s k h run sl = some v ∧ (v.completed = false ∨ v.deps ≠ [] ∨ answerDue s v = true)) ∧
   (let s : State := with0 (fun c => { c with task := some { aTask with phase := .ending true, mode := 2, slot := none } });
    let n : Nat := 0;
    let k : Nat := 0;
    let t : Task := { aTask with phase := .ending true, mode := 2, slot := none };
    let b : Bool := true;
    let c := getCore s n;
    c.ctx = some k ∧ c.task = some t ∧ t.phase = .ending b ∧ drained c = true ∧ t.mode = 2) ∧
   (let s : State := with0 (fun c => { c with task := some { aTask with phase := .ending false }, jobs := [cpyJob] });
    let n : Nat := 0;
    let k : Nat := 0;
    let t : Task := { aTask with phase := .ending false };
    let b : Bool := false;
    let c := getCore s n;
    c.ctx = some k ∧ c.task = some t ∧ t.phase = .ending b ∧ drained c = false) ∧
   (let s : State := withCtx (fun c => { c with launches := [doneLaunch] });
    let k : Nat := 0;
    let h : Nat := 1;
    let sl : Nat := 0;
    let l : Launch := doneLaunch;
    let v : Slot := doneSlot;
    let run := runOfSlot l sl;
    getLaunch s k h = some l ∧ findSlot s k h run sl = some v ∧ v.completed = true ∧ v.deps = [] ∧ answerDue s v = false) := by decide +kernel

/-- What RecordsOfTheHostReachAdmission assumes is met together, clause by clause. -/
theorem witness_RecordsOfTheHostReachAdmission :
   (let s : State := setCtx base 0 (queued 0x10000);
    let k : Nat := 0;
    let q : Nat := 2;
    let p : Nat := 0x200000;
    let c : Ctx := queued 0x10000;
    let w : Bool := true;
    let queue : Queue := spGet {} c.queues q;
    getCtx s k = some c ∧ c.state ≠ .killed ∧ c.state ≠ .flying ∧ queue.en = true ∧ queue.head ≠ queue.tail ∧ queue.asked = false ∧ nextRung c = some q ∧ xlatCtx s c queue.recordVa = .pkg p true w ∧ heldByPrepared s ⟨k, 0, false, mergedSlot⟩ p 512 = false) ∧
   (let s : State := setCtx base 0 (queued 0x30000);
    let k : Nat := 0;
    let q : Nat := 2;
    let tgt : Nat := 1;
    let node : Nat := 9;
    let addr : Nat := 0x5000000;
    let c : Ctx := queued 0x30000;
    let w : Bool := true;
    let queue : Queue := spGet {} c.queues q;
    getCtx s k = some c ∧ c.state ≠ .killed ∧ c.state ≠ .flying ∧ queue.en = true ∧ queue.head ≠ queue.tail ∧ queue.asked = false ∧ nextRung c = some q ∧ xlatCtx s c queue.recordVa = .remote tgt node addr true w) ∧
   (let s : State := setCtx base 0 (queued 0x20000);
    let k : Nat := 0;
    let q : Nat := 2;
    let c : Ctx := queued 0x20000;
    let cause : Cause := .translate;
    let queue : Queue := spGet {} c.queues q;
    getCtx s k = some c ∧ c.state ≠ .killed ∧ c.state ≠ .flying ∧ queue.en = true ∧ queue.head ≠ queue.tail ∧ queue.asked = false ∧ nextRung c = some q ∧ (xlatCtx s c queue.recordVa = .bad cause ∨ xlatCtx s c queue.recordVa = .miss)) ∧
   (let s : State := setCtx held1 0 (queued 0x10000);
    let k : Nat := 0;
    let q : Nat := 2;
    let p : Nat := 0x200000;
    let c : Ctx := queued 0x10000;
    let w : Bool := true;
    let queue : Queue := spGet {} c.queues q;
    getCtx s k = some c ∧ c.state ≠ .killed ∧ c.state ≠ .flying ∧ queue.en = true ∧ queue.head ≠ queue.tail ∧ queue.asked = false ∧ nextRung c = some q ∧ xlatCtx s c queue.recordVa = .pkg p true w ∧ heldByPrepared s ⟨k, 0, false, mergedSlot⟩ p 512 = true) := by decide +kernel

/-- What AdmissionStartsALaunch assumes is met together, clause by clause. -/
theorem witness_AdmissionStartsALaunch :
   (let s : State := withCtx (fun c => { c with launches := [wait1] });
    let k : Nat := 0;
    let h : Nat := 1;
    let c : Ctx := { aCtx with launches := [wait1] };
    let l : Launch := wait1;
    hasLaunch s k h c l ∧ l.phase = .waiting ∧ c.state ≠ .killed ∧ c.state ≠ .flying ∧ inOrder c l ∧ roomFor s c l = true) ∧
   (let s : State := base;
    let k : Nat := 0;
    let h : Nat := 1;
    let c : Ctx := aCtx;
    let l : Launch := aLaunch;
    hasLaunch s k h c l ∧ (l.phase ≠ .waiting ∨ ¬ inOrder c l ∨ roomFor s c l = false)) := by decide +kernel

/-- What LaunchesCompleteOrDiffer assumes is met together, clause by clause. -/
theorem witness_LaunchesCompleteOrDiffer :
   (let s : State := soleS (runDoneL 0 []);
    let k : Nat := 0;
    let h : Nat := 1;
    let c : Ctx := sole (runDoneL 0 []);
    let l : Launch := runDoneL 0 [];
    hasLaunch s k h c l ∧ otherwiseComplete s k c l = true ∧ l.desc.flag 1 = false) ∧
   (let s : State := soleS (runDoneL 2 []);
    let k : Nat := 0;
    let h : Nat := 1;
    let c : Ctx := sole (runDoneL 2 []);
    let l : Launch := runDoneL 2 [];
    hasLaunch s k h c l ∧ otherwiseComplete s k c l = true ∧ l.desc.flag 1 = true ∧ firstMismatch l = none) ∧
   (let s : State := soleS (runDoneL 2 [⟨1, true, 1024, 0x200010, 0x10010, 5, false⟩]);
    let k : Nat := 0;
    let h : Nat := 1;
    let i : Nat := 0;
    let c : Ctx := sole (runDoneL 2 [⟨1, true, 1024, 0x200010, 0x10010, 5, false⟩]);
    let l : Launch := runDoneL 2 [⟨1, true, 1024, 0x200010, 0x10010, 5, false⟩];
    hasLaunch s k h c l ∧ otherwiseComplete s k c l = true ∧ l.desc.flag 1 = true ∧ firstMismatch l = some i) := by decide +kernel

/-- What TheLowestDifferingEntryIsReported assumes is met together. -/
theorem witness_TheLowestDifferingEntryIsReported :
    let l : Launch := runDoneL 2 [⟨1, true, 1024, 0x200010, 0x10010, 5, false⟩];
    let i : Nat := 0;
    firstMismatch l = some i := by decide +kernel

/-- What LaunchesCommitInTurn assumes is met together, clause by clause. -/
theorem witness_LaunchesCommitInTurn :
   (let s : State := setCtx base 0 family;
    let k : Nat := 0;
    let h : Nat := 2;
    let p : Nat := 1;
    let slot : Nat := 0;
    let run : Bool := false;
    let c : Ctx := family;
    let l : Launch := { comp (.child 1 false 0) [] with handle := 2 };
    hasLaunch s k h c l ∧ mayCommit c l = true ∧ l.origin = .child p run slot) ∧
   (let s : State := soleS (comp (.host 0) []);
    let k : Nat := 0;
    let h : Nat := 1;
    let slot : Nat := 0;
    let c : Ctx := sole (comp (.host 0) []);
    let l : Launch := comp (.host 0) [];
    hasLaunch s k h c l ∧ mayCommit c l = true ∧ l.origin = .host slot ∧ holdersOf l = []) ∧
   (let s : State := soleS (comp (.host 0) [9]);
    let k : Nat := 0;
    let h : Nat := 1;
    let slot : Nat := 0;
    let c : Ctx := sole (comp (.host 0) [9]);
    let l : Launch := comp (.host 0) [9];
    let hs : List Nat := [9];
    hasLaunch s k h c l ∧ mayCommit c l = true ∧ l.origin = .host slot ∧ holdersOf l = hs ∧ hs ≠ []) := by decide +kernel

/-- What PreparedLaunchesAreMarkedOrAborted assumes is met together, clause by clause. -/
theorem witness_PreparedLaunchesAreMarkedOrAborted :
   (let s : State := soleS (prepL [9]);
    let k : Nat := 0;
    let h : Nat := 1;
    let holder : Nat := 9;
    let l : Launch := prepL [9];
    let left := l.holders.filter (fun y => decide (y ≠ holder));
    getLaunch s k h = some l ∧ l.phase = .preparing ∧ holder ∈ l.holders ∧ left = [] ∧ l.prepareBy ≤ s.clock) ∧
   (let s : State := soleS (prepL [9, 11]);
    let k : Nat := 0;
    let h : Nat := 1;
    let holder : Nat := 9;
    let l : Launch := prepL [9, 11];
    let left := l.holders.filter (fun y => decide (y ≠ holder));
    getLaunch s k h = some l ∧ l.phase = .preparing ∧ holder ∈ l.holders ∧ left ≠ []) ∧
   (let s : State := soleS { prepL [] with phase := .ended, marked := true };
    let k : Nat := 0;
    let h : Nat := 1;
    let holder : Nat := 9;
    let l : Launch := { prepL [] with phase := .ended, marked := true };
    getLaunch s k h = some l ∧ l.phase = .ended ∧ holder ≠ 65537) := by decide +kernel

/-- What VersionsAndLinesAreFreed assumes is met together, clause by clause. -/
theorem witness_VersionsAndLinesAreFreed :
   (let s : State := { with0 (fun c => { c with heldOn := some 0x4000 }) with hw := { base.hw with versions0 := [(5, ver)], versions1 := [(6, ver), (9, { ver with owner := .launch 0 1 false })] } };
    let entry : Nat := 5;
    let n : Nat := 0;
    let line : Nat := 0x4000;
    let v : Version := ver;
    versionUnused s v = true ∧ spFind s.hw.versions0 entry = some v ∧ n < 256 ∧ (getCore s n).heldOn = some line ∧ lineHeld s n line = false) ∧
   (let s : State := { base with hw := { base.hw with versions0 := [(5, { ver with owner := .launch 0 1 false })], versions1 := [(6, ver), (9, { ver with owner := .launch 0 1 false })] } };
    let entry : Nat := 6;
    let n : Nat := 256;
    let v : Version := ver;
    versionUnused s v = true ∧ spFind s.hw.versions1 entry = some v ∧ 256 ≤ n) ∧
   (let s : State := { base with hw := { base.hw with versions0 := [(5, { ver with owner := .launch 0 1 false })], versions1 := [(6, ver), (9, { ver with owner := .launch 0 1 false })] } };
    let entry : Nat := 5;
    let v : Version := { ver with owner := .launch 0 1 false };
    versionUnused s v = false ∧ spFind s.hw.versions0 entry = some v) := by decide +kernel

/-- What LanesMakeStepsAndHopsGrant assumes is met together, clause by clause. -/
theorem witness_LanesMakeStepsAndHopsGrant :
   (let s : State := chor;
    let cls : Nat := 0;
    let phase : Nat := 1;
    let pool : Nat := 4;
    let r : SlotRequest := req1;
    let c : Ctx := cctx collG;
    let named := poolOf cls phase;
    nextGrant s named = some r ∧ getCtx s r.ctx = some c ∧ nextGrant s pool = some r) ∧
   (let s : State := chor;
    let lane : Nat := 0;
    let cls : Nat := 0;
    let phase : Nat := 0;
    let e : ChunkStep := ((takeStep (planFuel (4 * (allColls chor).length + 4) chor).chorus.steps).getD step1);
    let s1 := planFuel (4 * (allColls s).length + 4) s;
    let able := s1.chorus.steps.filter (stepCan s1);
    let named := poolOf cls phase;
    lane < 8 ∧ takeStep able = some e ∧ nextGrant s named = none) ∧
   (let s : State := base;
    let lane : Nat := 7;
    let s1 := planFuel (4 * (allColls s).length + 4) s;
    let able := s1.chorus.steps.filter (stepCan s1);
    lane < 8 ∧ takeStep able = none) := by decide +kernel

/-- What NoHigherClassIsPassedOver assumes is met together. -/
theorem witness_NoHigherClassIsPassedOver :
    let steps : List ChunkStep := [step1, step2];
    let e : ChunkStep := step2;
    takeStep steps = some e := by decide +kernel

/-- What CollectivesComplete assumes is met together, clause by clause. -/
theorem witness_CollectivesComplete :
   (let s : State := setCtx base 0 (cctx doneR);
    let k : Nat := 0;
    let comm : Nat := 3;
    let chunk : Nat := 0;
    let c : Ctx := cctx doneR;
    let q : Coll := doneR;
    getCtx s k = some c ∧ runningColl c comm = some q ∧ chunkDue s k c q chunk = false ∧ (c.colls.find? (fun y => y.k == comm && !y.done && (y.fault.isSome || collFinished s c y)) = some q) ∧ q.fault = none) ∧
   (let s : State := setCtx base 0 (cctx collR);
    let k : Nat := 0;
    let comm : Nat := 3;
    let chunk : Nat := 0;
    let c : Ctx := cctx collR;
    let q : Coll := collR;
    getCtx s k = some c ∧ runningColl c comm = some q ∧ chunkDue s k c q chunk = true) ∧
   (let s : State := setCtx base 0 (cctx f0);
    let k : Nat := 0;
    let comm : Nat := 3;
    let c : Ctx := cctx f0;
    let q : Coll := f0;
    let f : Cause × Nat := (.protect, 5);
    getCtx s k = some c ∧ (c.colls.find? (fun y => y.k == comm && !y.done && (y.fault.isSome || collFinished s c y)) = some q) ∧ q.fault = some f) := by decide +kernel

/-- What ChorusDataArrives assumes is met together, clause by clause. -/
theorem witness_ChorusDataArrives :
   (let s : State := setCtx base 0 (cctx collR);
    let p : Packet := pk 0x10 [1, 2, 3];
    let k : Nat := 0;
    let c : Ctx := cctx collR;
    forRank s p k c ∧ arrives s p 0x10) ∧
   (let s : State := setCtx base 0 (cctx collR);
    let p : Packet := pk 0x11 [1, 2, 3];
    let k : Nat := 0;
    let c : Ctx := cctx collR;
    forRank s p k c ∧ arrives s p 0x11) ∧
   (let s : State := setCtx base 0 (cctx collR);
    let p : Packet := pk 0x12 [1, 2, 3];
    let k : Nat := 0;
    let c : Ctx := cctx collR;
    let q : Coll := collR;
    let seq := field p.addr 48 16;
    let comm := field p.addr 44 4;
    let index := field p.addr 24 16;
    let chunk := field p.addr 0 24;
    let first := (q.piece index chunk).1;
    let last := first + (q.piece index chunk).2.1;
    let off := chunk * q.params.size + p.tag;
    forRank s p k c ∧ arrives s p 0x12 ∧ findColl c comm seq = some q ∧ (q.done = false ∨ q.draining = true ∨ q.params.kind = 0 ∨ off + p.payload.length < last)) ∧
   (let s : State := base;
    let p : Packet := pk 0x12 (List.replicate 64 7);
    let k : Nat := 0;
    let c : Ctx := aCtx;
    let seq := field p.addr 48 16;
    let comm := field p.addr 44 4;
    forRank s p k c ∧ arrives s p 0x12 ∧ findColl c comm seq = none) ∧
   (let s : State := setCtx base 0 (cctx { collR with done := true });
    let p : Packet := pk 0x12 (List.replicate 64 7);
    let k : Nat := 0;
    let c : Ctx := cctx { collR with done := true };
    let q : Coll := { collR with done := true };
    let seq := field p.addr 48 16;
    let comm := field p.addr 44 4;
    let index := field p.addr 24 16;
    let chunk := field p.addr 0 24;
    let first := (q.piece index chunk).1;
    let last := first + (q.piece index chunk).2.1;
    let off := chunk * q.params.size + p.tag;
    forRank s p k c ∧ arrives s p 0x12 ∧ findColl c comm seq = some q ∧ q.done = true ∧ q.draining = false ∧ q.params.kind ≠ 0 ∧ last ≤ off + p.payload.length) := by decide +kernel

/-- What ReservationsAndGrantsArrive assumes is met together, clause by clause. -/
theorem witness_ReservationsAndGrantsArrive :
   (let s : State := { setCtx base 0 (cctx collR) with chorus := { asking := [askS] } };
    let p : Packet := pk 0x13 [1];
    let k : Nat := 0;
    let c : Ctx := cctx collR;
    let chunk := field p.addr 0 24;
    forRank s p k c ∧ arrives s p 0x13 ∧ chunk ≠ matchChunk) ∧
   (let s : State := { setCtx base 0 (cctx collR) with chorus := { asking := [askS] } };
    let p : Packet := pk 0x14 [0];
    let k : Nat := 0;
    let c : Ctx := cctx collR;
    let chunk := field p.addr 0 24;
    forRank s p k c ∧ arrives s p 0x14 ∧ chunk ≠ matchChunk) ∧
   (let s : State := setCtx base 0 (cctx collR);
    let p : Packet := { pk 0x13 (bytesOf 64 77) with addr := 7 * 2 ^ 48 + 3 * 2 ^ 44 + matchChunk };
    let k : Nat := 0;
    let c : Ctx := cctx collR;
    let chunk := field p.addr 0 24;
    forRank s p k c ∧ arrives s p 0x13 ∧ chunk = matchChunk) ∧
   (let s : State := setCtx base 0 (cctx collR);
    let p : Packet := { pk 0x14 [0] with addr := 7 * 2 ^ 48 + 3 * 2 ^ 44 + matchChunk };
    let k : Nat := 0;
    let c : Ctx := cctx collR;
    let chunk := field p.addr 0 24;
    forRank s p k c ∧ arrives s p 0x14 ∧ chunk = matchChunk) := by decide +kernel

/-- What MemoryPacketsActAtTheirHome assumes is met together, clause by clause. -/
theorem witness_MemoryPacketsActAtTheirHome :
   (let s : State := base;
    let p : Packet := mp 0x01 [1, 2, 3];
    let k : Nat := 0;
    let c : Ctx := aCtx;
    let n := p.payload.length;
    performs s p 0x01 n (storeMask p) false true k c) ∧
   (let s : State := base;
    let p : Packet := mp 0x02 [8];
    let k : Nat := 0;
    let c : Ctx := aCtx;
    let n := p.payload.length;
    performs s p 0x02 n 0 true false k c ∧ p.wait = 0) ∧
   (let s : State := base;
    let p : Packet := { mp 0x02 (bytesOf 8 77) with wait := 1 };
    let k : Nat := 0;
    let c : Ctx := aCtx;
    let n := p.payload.length;
    performs s p 0x02 n 0 true false k c ∧ p.wait = 1) ∧
   (let s : State := base;
    let p : Packet := { mp 0x02 (bytesOf 8 77) with wait := 2 };
    let k : Nat := 0;
    let c : Ctx := aCtx;
    let n := p.payload.length;
    performs s p 0x02 n 0 true false k c ∧ p.wait = 2) ∧
   (let s : State := base;
    let p : Packet := { mp 0x02 (bytesOf 8 77) with wait := 3 };
    let k : Nat := 0;
    let c : Ctx := aCtx;
    let n := p.payload.length;
    performs s p 0x02 n 0 true false k c ∧ p.wait = 3) ∧
   (let s : State := base;
    let p : Packet := { mp 0x02 (bytesOf 8 77) with wait := 4 };
    let k : Nat := 0;
    let c : Ctx := aCtx;
    let n := p.payload.length;
    performs s p 0x02 n 0 true false k c ∧ p.wait = 4) ∧
   (let s : State := base;
    let p : Packet := { mp 0x02 (bytesOf 8 77) with wait := 5 };
    let k : Nat := 0;
    let c : Ctx := aCtx;
    let n := p.payload.length;
    performs s p 0x02 n 0 true false k c ∧ p.wait = 5) ∧
   (let s : State := base;
    let p : Packet := { mp 0x06 ([32, 64] ++ bytesOf 25 0) with addr := 0x200000 };
    let k : Nat := 0;
    let c : Ctx := aCtx;
    let size := payloadAt p 1 1;
    let op := payloadAt p 0 1;
    let mask := payloadAt p 18 1;
    performs s p 0x06 size mask true true k c ∧ op = spawnOp) ∧
   (let s : State := base;
    let p : Packet := mp 0x06 ([0, 8] ++ bytesOf 8 77 ++ bytesOf 8 78 ++ [255]);
    let k : Nat := 0;
    let c : Ctx := aCtx;
    let size := payloadAt p 1 1;
    let op := payloadAt p 0 1;
    let mask := payloadAt p 18 1;
    performs s p 0x06 size mask true true k c ∧ op ≠ spawnOp) ∧
   (let s : State := base;
    let p : Packet := mp 0x07 ([0, 8] ++ bytesOf 8 77 ++ bytesOf 8 78 ++ bytesOf 9 0);
    let k : Nat := 0;
    let c : Ctx := aCtx;
    let size := payloadAt p 1 1;
    let op := payloadAt p 0 1;
    let bits := payloadAt p 26 1;
    performs s p 0x07 size bits false true k c ∧ op ≠ 0x18) ∧
   (let s : State := base;
    let p : Packet := mp 0x07 ([0x18, 4] ++ bytesOf 4 77 ++ bytesOf 4 78 ++ bytesOf 4 0 ++ bytesOf 4 2 ++ bytesOf 8 99 ++ [0]);
    let k : Nat := 0;
    let c : Ctx := aCtx;
    let w := awake s p k;
    let size := payloadAt p 1 1;
    let op := payloadAt p 0 1;
    let bits := payloadAt p 26 1;
    performs s p 0x07 size bits false true k c ∧ op = 0x18 ∧ isGone w p = false) ∧
   (let s : State := { base with link := { base.link with gone := [⟨0, 9, 1, 1, 0, 0⟩] } };
    let p : Packet := mp 0x07 ([0x18, 4] ++ bytesOf 4 77 ++ bytesOf 4 78 ++ bytesOf 4 0 ++ bytesOf 4 2 ++ bytesOf 8 99 ++ [0]);
    let k : Nat := 0;
    let c : Ctx := aCtx;
    let w := awake s p k;
    let size := payloadAt p 1 1;
    let op := payloadAt p 0 1;
    let bits := payloadAt p 26 1;
    performs s p 0x07 size bits false true k c ∧ op = 0x18 ∧ isGone w p = true) := by decide +kernel

/-- What MemoryPacketsAreRefusedHeldOrForwarded assumes is met together, clause by clause. -/
theorem witness_MemoryPacketsAreRefusedHeldOrForwarded :
   (let s : State := base;
    let p : Packet := { mp 0x01 [1, 2, 3] with rank := 1 };
    arrives s p 0x01 ∧ forwardOf s p.addr = none ∧ residentOf s p.job p.rank = none) ∧
   (let s : State := base;
    let p : Packet := { mp 0x01 [1, 2, 3] with addr := 0x300000 };
    let k : Nat := 0;
    let c : Ctx := aCtx;
    let n := p.payload.length;
    arrives s p 0x01 ∧ forwardOf s p.addr = none ∧ forRank s p k c ∧ c.state ≠ .flying ∧ ownsBytes s c p.addr n false true = false) ∧
   (let s : State := { base with link := { base.link with peers := [{ dest := 0, node := 9, job := 1, rank := 1, launch := 4, bytes := [⟨1, 0, 0x200010, 5, 0, false⟩], prepared := true, askAt := 0 }] } };
    let p : Packet := mp 0x01 [1, 2, 3];
    let k : Nat := 0;
    let c : Ctx := aCtx;
    let n := p.payload.length;
    arrives s p 0x01 ∧ forwardOf s p.addr = none ∧ forRank s p k c ∧ c.state ≠ .flying ∧ ownsBytes s c p.addr n false true = true ∧ (lineBusy s p.addr n = true ∨ peerTableFull s p (storeMask p) = true)) ∧
   (let s : State := { base with link := { base.link with flies := [fly1] } };
    let p : Packet := mp 0x01 [1, 2, 3];
    let frame : Nat := 0x77;
    let f : Fly := fly1;
    arrives s p 0x01 ∧ forwardOf s p.addr = some (f, frame)) ∧
   (let s : State := withCtx (fun c => { c with state := .flying });
    let p : Packet := mp 0x01 [1, 2, 3];
    let k : Nat := 0;
    let c : Ctx := { aCtx with state := .flying };
    arrives s p 0x01 ∧ forwardOf s p.addr = none ∧ forRank s p k c ∧ c.state = .flying) ∧
   (let s : State := base;
    let p : Packet := { mp 0x01 [1, 2, 3] with job := 0 };
    poweredOn s = true ∧ (p.job = 0 ∨ packetFits p = false)) ∧
   (let s : State := { base with link := { base.link with routes := [(5, 2)] } };
    let p : Packet := { mp 0x01 [1, 2, 3] with dst := 5 };
    poweredOn s = true ∧ p.kind = 0x01 ∧ reservedVc p.vc = false ∧ p.job ≠ 0 ∧ packetFits p = true ∧ p.dst ≠ s.link.node ∧ p.src ≠ hostNode ∧ reachable s p.dst = true) ∧
   (let s : State := base;
    let p : Packet := { mp 0x01 [1, 2, 3] with dst := 5 };
    poweredOn s = true ∧ p.kind = 0x01 ∧ reservedVc p.vc = false ∧ p.job ≠ 0 ∧ packetFits p = true ∧ p.dst ≠ s.link.node ∧ p.src ≠ hostNode ∧ reachable s p.dst = false) := by decide +kernel

/-- What AnswersReachTheirRequests assumes is met together, clause by clause. -/
theorem witness_AnswersReachTheirRequests :
   (let s : State := withRq (rq 0x02 258 0 none);
    let p : Packet := mp 0x03 (bytesOf 64 7);
    let r : Request := rq 0x02 258 0 none;
    let woken := arrived s p;
    let w := noteAnswer woken p.tag;
    arrives s p 0x03 ∧ requestOf w p = some r ∧ (r.kind = 0x02 ∨ r.kind = 0x06) ∧ r.core = blockMaker) ∧
   (let s : State := withRq (rq 0x02 257 0 none) (withCtx (fun c => { c with queues := [(0, { en := true, tail := 1, base := 0x30000, logSize := 3, asked := true })], rung := [0] }));
    let p : Packet := mp 0x03 (bytesOf 64 7);
    let r : Request := rq 0x02 257 0 none;
    let woken := arrived s p;
    let w := noteAnswer woken p.tag;
    arrives s p 0x03 ∧ requestOf w p = some r ∧ (r.kind = 0x02 ∨ r.kind = 0x06) ∧ r.core = 257) ∧
   (let s : State := withRq { rq 0x02 256 3 none with slot := 7 } (setCtx base 0 (cctx { collR with waits := 1 }));
    let p : Packet := mp 0x03 (bytesOf 8 7);
    let r : Request := { rq 0x02 256 3 none with slot := 7 };
    let woken := arrived s p;
    let w := noteAnswer woken p.tag;
    arrives s p 0x03 ∧ requestOf w p = some r ∧ (r.kind = 0x02 ∨ r.kind = 0x06) ∧ r.core = 256) ∧
   (let s : State := withRq (rq 0x02 0 0 (some 2)) (with0 (fun c => { c with jobs := [jw] }));
    let p : Packet := mp 0x03 (bytesOf 8 7);
    let r : Request := rq 0x02 0 0 (some 2);
    let j : Nat := 2;
    let woken := arrived s p;
    let w := noteAnswer woken p.tag;
    let closed := meetDeps (awaitedPulse (closeRequest w r) r.ctx) r p.deps;
    arrives s p 0x03 ∧ requestOf w p = some r ∧ (r.kind = 0x02 ∨ r.kind = 0x06) ∧ r.core < 256 ∧ (getCore closed r.core).ctx = some r.ctx ∧ r.job = some j) ∧
   (let s : State := withRq (rq 0x06 0 2 none) (with0 (fun c => { c with pend := [pw] }));
    let p : Packet := mp 0x03 (bytesOf 8 7);
    let r : Request := rq 0x06 0 2 none;
    let woken := arrived s p;
    let w := noteAnswer woken p.tag;
    let closed := meetDeps (awaitedPulse (closeRequest w r) r.ctx) r p.deps;
    arrives s p 0x03 ∧ requestOf w p = some r ∧ (r.kind = 0x02 ∨ r.kind = 0x06) ∧ r.core < 256 ∧ (getCore closed r.core).ctx = some r.ctx ∧ r.job = none) ∧
   (let s : State := withRq (rq 0x02 3 2 none);
    let p : Packet := mp 0x03 (bytesOf 8 7);
    let r : Request := rq 0x02 3 2 none;
    let woken := arrived s p;
    let w := noteAnswer woken p.tag;
    let closed := meetDeps (awaitedPulse (closeRequest w r) r.ctx) r p.deps;
    arrives s p 0x03 ∧ requestOf w p = some r ∧ (r.kind = 0x02 ∨ r.kind = 0x06) ∧ r.core < 256 ∧ (getCore closed r.core).ctx ≠ some r.ctx) ∧
   (let s : State := base;
    let p : Packet := mp 0x03 (bytesOf 8 7);
    let woken := arrived s p;
    let w := noteAnswer woken p.tag;
    arrives s p 0x03 ∧ requestOf w p = none) ∧
   (let s : State := withRq (rq 0x01 0 2 none) (with0 (fun c => { c with acks := [5] }));
    let p : Packet := mp 0x04 [];
    let r : Request := rq 0x01 0 2 none;
    let woken := arrived s p;
    let w := noteAnswer woken p.tag;
    arrives s p 0x04 ∧ p.payload ≠ [1] ∧ requestOf w p = some r ∧ (r.kind = 0x01 ∨ r.kind = 0x07)) ∧
   (let s : State := base;
    let p : Packet := mp 0x04 [];
    let woken := arrived s p;
    let w := noteAnswer woken p.tag;
    arrives s p 0x04 ∧ p.payload ≠ [1] ∧ requestOf w p = none) ∧
   (let s : State := withRq (rq 0x01 0 2 none) (with0 (fun c => { c with acks := [5] }));
    let p : Packet := mp 0x05 [1];
    let r : Request := rq 0x01 0 2 none;
    let woken := arrived s p;
    let w := noteAnswer woken p.tag;
    arrives s p 0x05 ∧ ofBytes p.payload < 0x10 ∧ requestOf w p = some r ∧ r.kind = ofBytes p.payload) ∧
   (let s : State := soleS { aLaunch with phase := .preparing };
    let p : Packet := { mp 0x05 [0x20] with launch := 2 };
    let k : Nat := 0;
    let l : Launch := { aLaunch with phase := .preparing };
    let woken := arrived s p;
    arrives s p 0x05 ∧ ofBytes p.payload = 0x20 ∧ residentOf woken p.job p.rank = some k ∧ getLaunch woken k (p.launch / 2) = some l ∧ l.phase = .preparing) ∧
   (let s : State := withRq (rq 0x01 0 2 none) (with0 (fun c => { c with acks := [5] }));
    let p : Packet := mp 0x05 [2];
    let r : Request := rq 0x01 0 2 none;
    let woken := arrived s p;
    let w := noteAnswer woken p.tag;
    arrives s p 0x05 ∧ ofBytes p.payload < 0x10 ∧ requestOf w p = some r ∧ r.kind ≠ ofBytes p.payload) := by decide +kernel

/-- What CommitControlActsOnItsShadow assumes is met together, clause by clause. -/
theorem witness_CommitControlActsOnItsShadow :
   (let s : State := peered;
    let p : Packet := cc 1;
    let k : Nat := 0;
    let c : Ctx := aCtx;
    arrives s p 0x20 ∧ forRank s p k c ∧ p.tag = 1) ∧
   (let s : State := peered;
    let p : Packet := cc 7;
    let k : Nat := 0;
    let c : Ctx := aCtx;
    let w := awake s p k;
    let owner := p.launch / 2;
    arrives s p 0x20 ∧ forRank s p k c ∧ p.tag = 7 ∧ getLaunch w k owner = none) ∧
   (let s : State := base;
    let p : Packet := { cc 7 with launch := 2 };
    let k : Nat := 0;
    let c : Ctx := aCtx;
    let l : Launch := aLaunch;
    let w := awake s p k;
    let owner := p.launch / 2;
    arrives s p 0x20 ∧ forRank s p k c ∧ p.tag = 7 ∧ getLaunch w k owner = some l) ∧
   (let s : State := peered;
    let p : Packet := cc 8;
    let k : Nat := 0;
    let c : Ctx := aCtx;
    arrives s p 0x20 ∧ forRank s p k c ∧ p.tag = 8) ∧
   (let s : State := base;
    let p : Packet := cc 4;
    let k : Nat := 0;
    let c : Ctx := aCtx;
    let w := awake s p k;
    arrives s p 0x20 ∧ forRank s p k c ∧ p.tag = 4 ∧ peerOf w p = none) ∧
   (let s : State := peered;
    let p : Packet := cc 2;
    let k : Nat := 0;
    let c : Ctx := aCtx;
    arrives s p 0x20 ∧ forRank s p k c ∧ p.tag = 2) ∧
   (let s : State := peered;
    let p : Packet := cc 9;
    let k : Nat := 0;
    let c : Ctx := aCtx;
    arrives s p 0x20 ∧ forRank s p k c ∧ p.tag = 9) ∧
   (let s : State := peered;
    let p : Packet := cc 3;
    let k : Nat := 0;
    let c : Ctx := aCtx;
    arrives s p 0x20 ∧ forRank s p k c ∧ p.tag = 3) ∧
   (let s : State := peered;
    let p : Packet := cc 4;
    let k : Nat := 0;
    let c : Ctx := aCtx;
    let q : PeerShadow := peer1;
    let w := awake s p k;
    arrives s p 0x20 ∧ forRank s p k c ∧ p.tag = 4 ∧ peerOf w p = some q) ∧
   (let s : State := peered;
    let p : Packet := cc 5;
    let k : Nat := 0;
    let c : Ctx := aCtx;
    arrives s p 0x20 ∧ forRank s p k c ∧ p.tag = 5) ∧
   (let s : State := peered;
    let p : Packet := cc 6;
    let k : Nat := 0;
    let c : Ctx := aCtx;
    arrives s p 0x20 ∧ forRank s p k c ∧ p.tag = 6) ∧
   (let s : State := peered;
    let p : Packet := { cc 1 with rank := 1 };
    arrives s p 0x20 ∧ residentOf s p.job p.rank = none) := by decide +kernel

/-- What EachCoreGetsItsOutcome assumes is met together, clause by clause. -/
theorem witness_EachCoreGetsItsOutcome :
   (let s : State := with0 (fun c => { c with task := none });
    let n : Nat := 0;
    let back := putBackTget s n;
    let c := getCore back n;
    c.task = none ∧ (getCore s n).sync = []) ∧
   (let s : State := with0 (fun c => { c with task := some { aTask with phase := .held } });
    let n : Nat := 0;
    let t : Task := { aTask with phase := .held };
    let back := putBackTget s n;
    let c := getCore back n;
    c.task = some t ∧ t.phase = .held) ∧
   (let s : State := with0 (fun c => { c with task := some { aTask with phase := .ending true } });
    let n : Nat := 0;
    let b : Bool := true;
    let t : Task := { aTask with phase := .ending true };
    let back := putBackTget s n;
    let c := getCore back n;
    c.task = some t ∧ t.phase = .ending b) ∧
   (let s : State := with0 (fun c => { c with dev := { c.dev with est := 40000 } });
    let n : Nat := 0;
    let spent : Bool := false;
    let t : Task := aTask;
    let back := putBackTget s n;
    let c := getCore back n;
    c.task = some t ∧ atWork t ∧ spent = false ∧ c.dev.est.toNat ≤ back.plat.wd) ∧
   (let s : State := with0 (fun c => { c with dev := { c.dev with est := 40001 } });
    let n : Nat := 0;
    let tokens : Nat := 0;
    let spent : Bool := false;
    let t : Task := aTask;
    let back := putBackTget s n;
    let c := getCore back n;
    c.task = some t ∧ atWork t ∧ (spent = true ∨ back.plat.wd < c.dev.est.toNat) ∧ (back.plat.tk ≤ tokens ∨ t.ckpt = false)) ∧
   (let s : State := with0 (fun c => { c with task := some { aTask with ckpt := true }, dev := { c.dev with est := 40001 } });
    let n : Nat := 0;
    let tokens : Nat := 11;
    let spent : Bool := false;
    let t : Task := { aTask with ckpt := true };
    let back := putBackTget s n;
    let c := getCore back n;
    c.task = some t ∧ atWork t ∧ (spent = true ∨ back.plat.wd < c.dev.est.toNat) ∧ tokens < back.plat.tk ∧ t.ckpt = true) := by decide +kernel

/-- What DecisionsReachEveryCore assumes is met together, clause by clause. -/
theorem witness_DecisionsReachEveryCore :
   (let s : State := with0 (fun c => { c with outcome := .drain, drainBy := some 100 }) (withCtx (fun c => { c with decided := some 3 }));
    let k : Nat := 0;
    let n : Nat := 0;
    let d : Nat := 100;
    let c : Ctx := { aCtx with decided := some 3 };
    let t : Task := aTask;
    let core := getCore s n;
    getCtx s k = some c ∧ ¬ decidable s k c ∧ core.ctx = some k ∧ core.drainBy = some d ∧ core.task = some t ∧ atWork t ∧ core.outcome = .drain ∧ d ≤ core.now) ∧
   (let s : State := setCtx base 1 newX;
    let k : Nat := 0;
    let v : Nat := 1;
    let h : Nat := 1;
    let c : Ctx := aCtx;
    let x : Ctx := newX;
    let l : Launch := newL;
    getCtx s k = some c ∧ decidable s k c ∧ wantsClusters s v h x l) := by decide +kernel

/-- What ContextsAreSavedAndRestored assumes is met together, clause by clause. -/
theorem witness_ContextsAreSavedAndRestored :
   (let s : State := with0 (fun c => { c with task := none, status := .idle });
    let k : Nat := 0;
    let c : Ctx := aCtx;
    getCtx s k = some c ∧ decidable s k c ∧ (∀ e ∈ coresOf c, ∀ t, (getCore s e.2).task = some t → t.phase = .held)) ∧
   (let s : State := with0 (fun c => { c with task := none, status := .idle }) (withCtx (fun c => { c with saving := true }));
    let k : Nat := 0;
    let c : Ctx := { aCtx with saving := true };
    getCtx s k = some c ∧ (c.decided ≠ none ∨ c.saving = true) ∧ (∀ e ∈ coresOf c, coreSavable s e.2 = true) ∧ (∀ l ∈ c.launches, mergeDue l = false)) ∧
   (let s : State := with0 (fun c => { c with pend := [{ id := 2, dest := some (.x 4), what := .x 4 0, due := none, waits := 1, age := 0, flags := 0, replay := false }] }) (withCtx (fun c => { c with saving := true }));
    let k : Nat := 0;
    let c : Ctx := { aCtx with saving := true };
    getCtx s k = some c ∧ ((∃ e ∈ coresOf c, coreSavable s e.2 = false) ∨ (∃ l ∈ c.launches, mergeDue l = true))) ∧
   (let s : State := { setCtx base 0 parkedX with cores := [] };
    let k : Nat := 0;
    let c : Ctx := parkedX;
    let clusters : List Nat := [15];
    let moved := { c with part := clusters };
    let die := boardDie moved;
    let mayRestore : Prop := c.state = .parked ∧ c.restoring = false ∧ awaitsSwitch s k = false ∧ clustersOk s c clusters = true ∧
      frontierUsed s die + frontierNeed c ≤ 65536 ∧ c.board.length ≤ c.overflowCap + boardShare s k die;
    getCtx s k = some c ∧ mayRestore ∧ imageDamaged s c = false) ∧
   (let s : State := with0 (fun c => { c with status := .stopped, lwb := [⟨some (.x 5), .x 5 7, 3, 0, 0⟩] }) (withCtx (fun c => { c with restoring := true, state := .parked }));
    let k : Nat := 0;
    let c : Ctx := { aCtx with restoring := true, state := .parked };
    getCtx s k = some c ∧ c.restoring = true) ∧
   (let s : State := { setCtx base 0 parkedX with cores := [], hw := { base.hw with damaged := [0x10] } };
    let k : Nat := 0;
    let c : Ctx := parkedX;
    let clusters : List Nat := [15];
    let moved := { c with part := clusters };
    let die := boardDie moved;
    let mayRestore : Prop := c.state = .parked ∧ c.restoring = false ∧ awaitsSwitch s k = false ∧ clustersOk s c clusters = true ∧
      frontierUsed s die + frontierNeed c ≤ 65536 ∧ c.board.length ≤ c.overflowCap + boardShare s k die;
    getCtx s k = some c ∧ mayRestore ∧ imageDamaged s c = true) := by decide +kernel

/-- What another clause of ContextsAreSavedAndRestored assumes is met together. -/
theorem witness_ContextsAreSavedAndRestored_2 :
    let s : State := base;
    let k : Nat := 0;
    let c : Ctx := aCtx;
    let clusters : List Nat := [3];
    let moved := { c with part := clusters };
    let die := boardDie moved;
    let mayRestore : Prop := c.state = .parked ∧ c.restoring = false ∧ awaitsSwitch s k = false ∧ clustersOk s c clusters = true ∧
      frontierUsed s die + frontierNeed c ≤ 65536 ∧ c.board.length ≤ c.overflowCap + boardShare s k die;
    getCtx s k = some c ∧ decidable s k c ∧ (∃ e ∈ coresOf c, ∃ t, (getCore s e.2).task = some t ∧ t.phase ≠ .held) ∧ c.decided = none ∧ c.saving = false ∧ ¬ mayRestore :=
  ⟨by decide +kernel, by decide +kernel, ⟨(0, 0), by decide +kernel, aTask, by decide +kernel⟩, by decide +kernel, by decide +kernel, fun h => absurd h.1 (by decide +kernel)⟩

/-- What LateWritesReplayWithTheirCyclesLeft assumes is met together. -/
theorem witness_LateWritesReplayWithTheirCyclesLeft :
    let c : Core := { aCore with pend := [dueX] };
    let e : Pending := dueX;
    let d : Nat := 100;
    let now : Nat := 500;
    c.lwb = [] ∧ e ∈ c.pend ∧ e.due = some d ∧ c.now ≤ d := by decide +kernel

/-- What ContextsAreKilledResumedAndFreed assumes is met together, clause by clause. -/
theorem witness_ContextsAreKilledResumedAndFreed :
   (let s : State := withCtx (fun c => { c with dogCount := 2 ^ 26 });
    let k : Nat := 0;
    let c : Ctx := { aCtx with dogCount := 2 ^ 26 };
    getCtx s k = some c ∧ (c.dog = .armed ∨ c.dog = .saving) ∧ 2 ^ c.wlog ≤ c.dogCount ∧ c.state ≠ .killed ∧ (c.state ≠ .killed ∨ 64 ≤ residentCount s)) ∧
   (let s : State := withCtx (fun c => { c with state := .killed, dog := .off });
    let k : Nat := 0;
    let c : Ctx := { aCtx with state := .killed, dog := .off };
    getCtx s k = some c ∧ (c.dog = .off ∨ c.dogCount < 2 ^ c.wlog) ∧ c.state = .killed ∧ residentCount s < 64 ∧ k < 64) ∧
   (let s : State := { base with ctxs := [(64, { aCtx with state := .killed, dog := .off })] };
    let k : Nat := 64;
    let j : Nat := 0;
    let c : Ctx := { aCtx with state := .killed, dog := .off };
    getCtx s k = some c ∧ c.state = .killed ∧ residentCount s < 64 ∧ 64 ≤ k ∧ ((upTo 64).find? (fun y => (getCtx s y).isNone) = some j)) := by decide +kernel

/-- What ContextsAreCreatedParkedAndWiped assumes is met together, clause by clause. -/
theorem witness_ContextsAreCreatedParkedAndWiped :
   (let s : State := base;
    let k : Nat := 1;
    let p : ContextParams := prm;
    let s0 := vacate s k;
    let s1 := setCtx s0 k { newCtx p with code := spGet [] s0.link.code k };
    slotFree s k = true ∧ paramsFit s p = true ∧ mapsTaken s1 k = false) ∧
   (let s : State := base;
    let k : Nat := 1;
    let p : ContextParams := { prm with job := 0 };
    let s0 := vacate s k;
    let s1 := setCtx s0 k { newCtx p with code := spGet [] s0.link.code k };
    (p.job = 0 ∨ 2 ^ 32 ≤ p.job ∨ slotFree s k = false ∨ paramsFit s p = false ∨ mapsTaken s1 k = true)) := by decide +kernel

/-- What TheDebuggerSetsResumesAndSaves assumes is met together, clause by clause. -/
theorem witness_TheDebuggerSetsResumesAndSaves :
   (let s : State := with0 (fun c => { c with status := .held });
    let k : Nat := 0;
    let n : Nat := 0;
    let i : Nat := 7;
    let c : Ctx := aCtx;
    let core := getCore s n;
    let back := core.fromBuffer;
    let resumed := rearmAway (setCore s n { back with status := .running, ctl := { back.ctl with skipBreak := true } }) n;
    getCtx s k = some c ∧ i < 8 ∧ n < 16 * c.clusters ∧ core.ctx = some k ∧ core.status = .held ∧ c.state = .running ∧ c.restoring = false ∧ c.saving = false ∧ ctxHeld resumed k = false ∧ ctxHeld s k = true) ∧
   (let s : State := base;
    let k : Nat := 0;
    let n : Nat := 0;
    let c : Ctx := aCtx;
    let core := getCore s n;
    getCtx s k = some c ∧ core.status ≠ .held ∧ ctxHeld s k = false) ∧
   (let s : State := { with0 (fun c => { c with status := .held }) with cores := [(0, { aCore with status := .held }), (1, { aCore with status := .held, logical := 1 })] };
    let k : Nat := 0;
    let n : Nat := 0;
    let c : Ctx := aCtx;
    let core := getCore s n;
    let back := core.fromBuffer;
    let resumed := rearmAway (setCore s n { back with status := .running, ctl := { back.ctl with skipBreak := true } }) n;
    getCtx s k = some c ∧ core.ctx = some k ∧ core.status = .held ∧ c.state = .running ∧ c.restoring = false ∧ c.saving = false ∧ ctxHeld resumed k = true) := by decide +kernel

/-- What WalksEndAndPagesArrive assumes is met together, clause by clause. -/
theorem witness_WalksEndAndPagesArrive :
   (let s : State := { base with hw := { base.hw with walks := [⟨0, 1, 0⟩] } };
    let i : Nat := 0;
    let k : Nat := 0;
    let page : Nat := 1;
    let w : Walk := ⟨0, 1, 0⟩;
    let c : Ctx := aCtx;
    let rest := { s with hw := { s.hw with walks := s.hw.walks.eraseIdx i } };
    let va := 65536 * w.page;
    s.hw.walks[i]? = some w ∧ i ∈ runningWalks s ∧ getCtx s w.ctx = some c ∧ walkTable rest c.root va ≠ .malformed ∧ getCtx s k = some c) ∧
   (let s : State := { laid base [(0x30010, 8, 0x23)] with hw := { base.hw with walks := [⟨0, 2, 0⟩] } };
    let i : Nat := 0;
    let page : Nat := 1;
    let w : Walk := ⟨0, 2, 0⟩;
    let c : Ctx := aCtx;
    let rest := { s with hw := { s.hw with walks := s.hw.walks.eraseIdx i } };
    let va := 65536 * w.page;
    s.hw.walks[i]? = some w ∧ i ∈ runningWalks s ∧ getCtx s w.ctx = some c ∧ walkTable rest c.root va = .malformed) ∧
   (let s : State := base;
    let i : Nat := 0;
    i ∉ runningWalks s) := by decide +kernel

/-- What MappingsChangeAndPagesMigrate assumes is met together, clause by clause. -/
theorem witness_MappingsChangeAndPagesMigrate :
   (let s : State := base;
    let k : Nat := 0;
    let page : Nat := 1;
    let frame : Nat := 0x30;
    let place : Nat := 0x30010;
    let entry : Nat := 0x23001D;
    let p : Nat := 0x30008;
    let bits : Nat := 16;
    let node : Nat := 0;
    let old : Nat := 0x200000;
    let c : Ctx := aCtx;
    let level : Nat := 16;
    let rd : Bool := true;
    let wr : Bool := true;
    let new := 65536 * frame;
    let size := 2 ^ bits;
    let written := writeDirect s place (bytesOf 8 entry);
    getCtx s k = some c ∧ place % 8 = 0 ∧ physExists place = true ∧ mapsTaken written k = false ∧ leafPlace s (65536 * page) 3 1 c.root = some (p, bits) ∧ walkTable s c.root (65536 * page) = .leaf level 0 node old rd wr ∧ new % size = 0 ∧ pageUsable s new size = true ∧ taken s new size = false ∧ hostHolds s old size = false ∧ new ≠ old) ∧
   (let s : State := base;
    let k : Nat := 0;
    let page : Nat := 1;
    let frame : Nat := 0x6000000;
    let place : Nat := 0x30011;
    let p : Nat := 0x30008;
    let bits : Nat := 16;
    let node : Nat := 0;
    let old : Nat := 0x200000;
    let c : Ctx := aCtx;
    let level : Nat := 16;
    let rd : Bool := true;
    let wr : Bool := true;
    let new := 65536 * frame;
    let size := 2 ^ bits;
    getCtx s k = some c ∧ (place % 8 ≠ 0 ∨ physExists place = false) ∧ leafPlace s (65536 * page) 3 1 c.root = some (p, bits) ∧ walkTable s c.root (65536 * page) = .leaf level 0 node old rd wr ∧ (new % size ≠ 0 ∨ pageUsable s new size = false ∨ taken s new size = true ∨ hostHolds s old size = true)) ∧
   (let s : State := base;
    let k : Nat := 0;
    let place : Nat := 0x30010;
    let entry : Nat := 0x5FF000001D;
    let c : Ctx := aCtx;
    let written := writeDirect s place (bytesOf 8 entry);
    getCtx s k = some c ∧ place % 8 = 0 ∧ physExists place = true ∧ mapsTaken written k = true) := by decide +kernel

/-- What CodeIsLoadedAndUnloaded assumes is met together, clause by clause. -/
theorem witness_CodeIsLoadedAndUnloaded :
   (let s : State := { base with plat := { base.plat with ready := false } };
    let id : Nat := 1;
    let o : CodeObj := nopCode;
    takesContexts s = false ∧ findCode s id = some o ∧ o.id = id ∧ codeReferenced s o = true) ∧
   (let s : State := with0 (fun c => { c with task := none, imem := {} }) (withCtx (fun c => { c with launches := [] }));
    let id : Nat := 1;
    let image : CodeImage := ⟨0x1000, 0, 0x10000⟩;
    let o : CodeObj := nopCode;
    let n := s.host.nextCode;
    let obj : CodeObj := { id := n, tag := n, len := image.len, bytes := image.bytes, data := image.data };
    takesContexts s = true ∧ obj.accepted = false ∧ findCode s id = some o ∧ o.id = id ∧ codeReferenced s o = false) ∧
   (let s : State := base;
    let k : Nat := 0;
    let id : Nat := 1;
    let image : CodeImage := ⟨0x1000, nopCode.bytes, 0x10000⟩;
    let c : Ctx := (match getCtx (post { base with host := { base.host with nextCode := 2 } } (.codeLoaded 0 1)) 0 with | some q => q | none => aCtx);
    let n := s.host.nextCode;
    let obj : CodeObj := { id := n, tag := n, len := image.len, bytes := image.bytes, data := image.data };
    let known := post { s with host := { s.host with nextCode := n + 1 } } (.codeLoaded k n);
    takesContexts s = true ∧ obj.accepted = true ∧ getCtx known k = some c) ∧
   (let s : State := base;
    let k : Nat := 7;
    let id : Nat := 1;
    let image : CodeImage := ⟨0x1000, nopCode.bytes, 0x10000⟩;
    let n := s.host.nextCode;
    let obj : CodeObj := { id := n, tag := n, len := image.len, bytes := image.bytes, data := image.data };
    let known := post { s with host := { s.host with nextCode := n + 1 } } (.codeLoaded k n);
    takesContexts s = true ∧ obj.accepted = true ∧ getCtx known k = none) := by decide +kernel

/-- What ContextsAreDemotedPromotedAndClassed assumes is met together, clause by clause. -/
theorem witness_ContextsAreDemotedPromotedAndClassed :
   (let s : State := withCtx (fun c => { c with state := .green });
    let k : Nat := 0;
    let area : Nat := 0x100000;
    let c : Ctx := { aCtx with state := .green };
    getCtx s k = some c ∧ inHbm area = true ∧ taken s area (areaBytes c) = false ∧ c.state = .green ∧ c.restoring = false) ∧
   (let s : State := withCtx (fun c => { c with state := .parked });
    let k : Nat := 0;
    let area : Nat := 0x8000000000;
    let c : Ctx := { aCtx with state := .parked };
    getCtx s k = some c ∧ inHbm area = false ∧ physExists area = true ∧ taken s area (areaBytes c) = false ∧ c.state = .parked ∧ c.restoring = false) ∧
   (let s : State := base;
    let k : Nat := 0;
    let c : Ctx := aCtx;
    getCtx s k = some c ∧ c.state = .running) := by decide +kernel

/-- What FliesLeaveTheirSource assumes is met together, clause by clause. -/
theorem witness_FliesLeaveTheirSource :
   (let s : State := flew (fly0 .wait false) (with0 (fun c => { c with task := none, status := .idle }) (withCtx (fun c => { c with launches := [] })));
    let k : Nat := 0;
    let c : Ctx := { aCtx with launches := [] };
    let f : Fly := fly0 .wait false;
    findFly s k = some f ∧ getCtx s k = some c ∧ (f.phase = .bind ∨ f.phase = .wait) ∧ f.phase = .wait ∧ flySavable s k c = true ∧ imageDamaged s c = false ∧ (f.phase ≠ .send ∨ f.ready = true ∨ flyLost s f c = false)) ∧
   (let s : State := flew (fly0 .send false);
    let k : Nat := 0;
    let c : Ctx := aCtx;
    let f : Fly := fly0 .send false;
    findFly s k = some f ∧ getCtx s k = some c ∧ (f.phase ≠ .wait ∨ flySavable s k c = false) ∧ f.phase = .send ∧ f.ready = false ∧ flyLost s f c = true) ∧
   (let s : State := flew (fly0 .forward true);
    let k : Nat := 0;
    let c : Ctx := aCtx;
    let f : Fly := fly0 .forward true;
    getCtx s k = some c ∧ c.state ≠ .killed ∧ c.state ≠ .flying ∧ findFly s k = none ∧ awaitsSwitch s k = false ∧ (s.link.flies.find? (fun y => y.ctx == k && y.phase == .forward) = some f)) ∧
   (let s : State := flew (fly0 .wait false) (with0 (fun c => { c with task := none, status := .idle, bad := [.file (.x 5)] }) (withCtx (fun c => { c with launches := [] })));
    let k : Nat := 0;
    let c : Ctx := { aCtx with launches := [] };
    let f : Fly := fly0 .wait false;
    findFly s k = some f ∧ getCtx s k = some c ∧ f.phase = .wait ∧ flySavable s k c = true ∧ imageDamaged s c = true) ∧
   (let s : State := flew (fly0 .send true);
    let k : Nat := 0;
    let c : Ctx := aCtx;
    let f : Fly := fly0 .send true;
    findFly s k = some f ∧ getCtx s k = some c ∧ f.phase = .send ∧ f.ready = true) := by decide +kernel

/-- What AbandonedFliesLeaveNothingBehind assumes is met together, clause by clause. -/
theorem witness_AbandonedFliesLeaveNothingBehind :
   (let s : State := base;
    let p : Packet := fp 0x30 [5];
    arrives s p 0x30 ∧ ofBytes (p.payload.take 1) = 5 ∧ (∀ y ∈ s.link.arrived, y.node ≠ p.src ∨ y.id ≠ p.tag)) ∧
   (let s : State := landed;
    let p : Packet := fp 0x30 [5];
    let c : Ctx := { aCtx with state := .parked, part := [] };
    let v : Arrival := ⟨1, 9, 1⟩;
    arrives s p 0x30 ∧ ofBytes (p.payload.take 1) = 5 ∧ s.link.arrived = [v] ∧ v.node = p.src ∧ v.id = p.tag ∧ getCtx s v.ctx = some c) ∧
   (let s : State := { landed with ctxs := [] };
    let p : Packet := fp 0x30 [5];
    let v : Arrival := ⟨1, 9, 1⟩;
    arrives s p 0x30 ∧ ofBytes (p.payload.take 1) = 5 ∧ s.link.arrived = [v] ∧ v.node = p.src ∧ v.id = p.tag ∧ getCtx s v.ctx = none) ∧
   (let s : State := landed;
    let p : Packet := fp 0x30 [8];
    let v : Arrival := ⟨1, 9, 1⟩;
    arrives s p 0x30 ∧ ofBytes (p.payload.take 1) = 8 ∧ (s.link.arrived.find? (fun y => y.node == p.src && y.id == p.tag) = some v)) ∧
   (let s : State := base;
    let p : Packet := fp 0x30 [8];
    arrives s p 0x30 ∧ ofBytes (p.payload.take 1) = 8 ∧ (s.link.arrived.find? (fun y => y.node == p.src && y.id == p.tag) = none)) := by decide +kernel

/-- What FliesArriveParked assumes is met together, clause by clause. -/
theorem witness_FliesArriveParked :
   (let s : State := arr;
    let p : Packet := fp 0x30 (3 :: bytesOf 8 0x10000 ++ bytesOf 8 0x50);
    let k : Nat := 1;
    let i : Nat := 0;
    let y : Copy := copy1;
    let prm : ContextParams := prm1;
    let f : Fly := fly0 .send false;
    let c : Ctx := aCtx;
    let code := ofBytes (p.payload.take 1);
    let s0 := { s with link := { s.link with copies := s.link.copies.eraseIdx i } };
    let parked := setCtx (vacate s0 k) k (arrivedCtx s0 k y prm);
    arrives s p 0x30 ∧ flyOf s p = some (f, c) ∧ code = 3 ∧ s.link.copies[i]? = some y ∧ (arrivalFits s0 k y prm = false ∨ mapsTaken parked k = true)) ∧
   (let s : State := { arr with ctxs := [], link := { arr.link with copies := [copyN] } };
    let p : Packet := fp 0x30 [9];
    let k : Nat := 1;
    let i : Nat := 0;
    let y : Copy := copyN;
    let prm : ContextParams := { prm1 with area := 0x100000 };
    let code := ofBytes (p.payload.take 1);
    let s0 := { s with link := { s.link with copies := s.link.copies.eraseIdx i } };
    let parked := setCtx (vacate s0 k) k (arrivedCtx s0 k y prm);
    arrives s p 0x30 ∧ flyOf s p = none ∧ code ∉ [1, 2, 5, 8] ∧ s.link.copies[i]? = some y ∧ arrivalFits s0 k y prm = true ∧ mapsTaken parked k = false ∧ y.live = false) ∧
   (let s : State := arr;
    let p : Packet := fp 0x30 [4];
    let f : Fly := fly0 .send false;
    let c : Ctx := aCtx;
    let code := ofBytes (p.payload.take 1);
    arrives s p 0x30 ∧ flyOf s p = some (f, c) ∧ code = 4) ∧
   (let s : State := { arr with ctxs := [], link := { arr.link with copies := [{ copyN with live := true }] } };
    let k : Nat := 1;
    let i : Nat := 0;
    let y : Copy := { copyN with live := true };
    let prm : ContextParams := { prm1 with area := 0x100000 };
    let s0 := { s with link := { s.link with copies := s.link.copies.eraseIdx i } };
    let parked := setCtx (vacate s0 k) k (arrivedCtx s0 k y prm);
    s.link.copies[i]? = some y ∧ arrivalFits s0 k y prm = true ∧ mapsTaken parked k = false ∧ y.live = true) ∧
   (let s : State := { arr with link := { arr.link with copies := [{ copyN with complete := false }] } };
    let p : Packet := { fp 0x30 [2] with srank := 0 };
    let y : Copy := { copyN with complete := false };
    let code := ofBytes (p.payload.take 1);
    let known := s.link.copies.find? (fun z => z.isOf p);
    arrives s p 0x30 ∧ code = 2 ∧ known = some y ∧ y.complete = false) ∧
   (let s : State := { arr with link := { arr.link with copies := [] } };
    let p : Packet := fp 0x30 [2];
    let code := ofBytes (p.payload.take 1);
    let known := s.link.copies.find? (fun z => z.isOf p);
    arrives s p 0x30 ∧ code = 2 ∧ known = none) ∧
   (let s : State := { arr with link := { arr.link with copies := [{ copyN with complete := false }] } };
    let p : Packet := fp 0x31 [4];
    let y : Copy := { copyN with complete := false };
    let known := s.link.copies.find? (fun z => z.isOf p);
    arrives s p 0x31 ∧ known = some y ∧ y.complete = false) ∧
   (let s : State := { arr with link := { arr.link with copies := [] } };
    let p : Packet := fp 0x31 [4];
    let known := s.link.copies.find? (fun z => z.isOf p);
    arrives s p 0x31 ∧ known = none) ∧
   (let s : State := bindAt;
    let p : Packet := bindP;
    let y : Copy := ((bound bindAt bindP).getD copyN);
    let w := arrived s p;
    let code := ofBytes (p.payload.take 1);
    arrives s p 0x30 ∧ code = 1 ∧ bound w p = some y) ∧
   (let s : State := { arr with link := { arr.link with flies := [fly0 .bind false] } };
    let p : Packet := fp 0x30 [6];
    let f : Fly := fly0 .bind false;
    let c : Ctx := aCtx;
    let code := ofBytes (p.payload.take 1);
    arrives s p 0x30 ∧ flyOf s p = some (f, c) ∧ code = 6) ∧
   (let s : State := { arr with link := { arr.link with flies := [fly0 .bind false] } };
    let p : Packet := fp 0x30 [7];
    let f : Fly := fly0 .bind false;
    let c : Ctx := aCtx;
    let code := ofBytes (p.payload.take 1);
    arrives s p 0x30 ∧ flyOf s p = some (f, c) ∧ code = 7 ∧ f.phase = .bind) ∧
   (let s : State := arr;
    let p : Packet := fp 0x30 (1 :: List.replicate 32 0 ++ wordsOf [0, 0x10, 1, 0, 0, 0, 0]);
    let w := arrived s p;
    let code := ofBytes (p.payload.take 1);
    arrives s p 0x30 ∧ code = 1 ∧ bound w p = none) := by decide +kernel

/-- What BindReservesWhatTheContextNeeds assumes is met together. -/
theorem witness_BindReservesWhatTheContextNeeds :
    let s : State := bindAt;
    let p : Packet := bindP;
    let y : Copy := ((bound bindAt bindP).getD copyN);
    bound s p = some y := by decide +kernel

/-- What BusCodesAreSampledAndChanged assumes is met together, clause by clause. -/
theorem witness_BusCodesAreSampledAndChanged :
   (let s : State := { base with hw := { base.hw with channels := [(0, { second := true, changing := true })] } };
    let ch : Nat := 0;
    let tdbi : Nat := 0;
    let tltc : Nat := 0;
    let c : Channel := spGet {} s.hw.channels ch;
    tdbi = 0 ∧ tltc = 0 ∧ c.changing = true) ∧
   (let s : State := base;
    let ch : Nat := 287;
    let tdbi : Nat := 8;
    let tltc : Nat := 7;
    let c : Channel := spGet {} s.hw.channels ch;
    let cur := if c.ltc then tltc else tdbi;
    let other := if c.ltc then tdbi else tltc;
    ch < 288 ∧ c.changing = false ∧ codesFrozen s ch = false ∧ ¬ (tdbi = 0 ∧ tltc = 0) ∧ 8 * other ≤ 7 * cur ∧ c.second = false) ∧
   (let s : State := base;
    let ch : Nat := 0;
    let tdbi : Nat := 8;
    let tltc : Nat := 8;
    let c : Channel := spGet {} s.hw.channels ch;
    let cur := if c.ltc then tltc else tdbi;
    let other := if c.ltc then tdbi else tltc;
    ch < 288 ∧ c.changing = false ∧ codesFrozen s ch = false ∧ ¬ (tdbi = 0 ∧ tltc = 0) ∧ 7 * cur < 8 * other) ∧
   (let s : State := { base with hw := { base.hw with channels := [(0, { second := true })] } };
    let ch : Nat := 0;
    let tdbi : Nat := 8;
    let tltc : Nat := 0;
    let c : Channel := spGet {} s.hw.channels ch;
    let cur := if c.ltc then tltc else tdbi;
    let other := if c.ltc then tdbi else tltc;
    ch < 288 ∧ c.changing = false ∧ codesFrozen s ch = false ∧ ¬ (tdbi = 0 ∧ tltc = 0) ∧ 8 * other ≤ 7 * cur ∧ c.second = true) := by decide +kernel

/-- What StacksAreWatchedTakenAndScrubbed assumes is met together, clause by clause. -/
theorem witness_StacksAreWatchedTakenAndScrubbed :
   (let s : State := base;
    let n : Nat := 7;
    let c : Stack := spGet {} s.hw.hbmStacks n;
    n < 8 ∧ c.hb = .normal ∧ c.missed < 3 ∧ c.scrub = false) ∧
   (let s : State := { base with hw := { base.hw with hbmStacks := [(2, { scrub := true })] } };
    let n : Nat := 2;
    let c : Stack := spGet {} s.hw.hbmStacks n;
    n < 8 ∧ c.scrub = true) ∧
   (let s : State := { base with hw := { base.hw with hbmStacks := [(2, { missed := 3 })] } };
    let n : Nat := 2;
    let c : Stack := spGet {} s.hw.hbmStacks n;
    n < 8 ∧ c.hb = .normal ∧ 3 ≤ c.missed) ∧
   (let s : State := { base with hw := { base.hw with hbmStacks := [(2, { hb := .taking })] } };
    let n : Nat := 2;
    let c : Stack := spGet {} s.hw.hbmStacks n;
    n < 8 ∧ c.hb = .taking) ∧
   (let s : State := { base with hw := { base.hw with hbmStacks := [(2, { hb := .surrogate, late := 255 })] } };
    let n : Nat := 2;
    let c : Stack := spGet {} s.hw.hbmStacks n;
    n < 8 ∧ c.hb = .surrogate) := by decide +kernel

/-- What UnusedMemoryIsWiped assumes is met together, clause by clause. -/
theorem witness_UnusedMemoryIsWiped :
   (let s : State := base;
    let n : Nat := 1;
    let base : Nat := 0x20000;
    let size : Nat := 0x40;
    let addr : Nat := 0x230000;
    n < 256 ∧ (getCore s n).ctx = none ∧ n < 16 ∧ (∀ e ∈ s.ctxs, n ∉ e.2.part) ∧ base + size ≤ 2 ^ 27 ∧ (∀ u ∈ chipUses s, ¬ (u.1 < base + size ∧ base < u.1 + u.2)) ∧ frameMapped s (addr / 65536) = false ∧ physExists addr = true) ∧
   (let s : State := base;
    let n : Nat := 0;
    let base : Nat := 0xFFFF;
    let size : Nat := 0x40;
    let addr : Nat := 0x200010;
    (256 ≤ n ∨ (getCore s n).ctx ≠ none) ∧ (16 ≤ n ∨ (∃ e ∈ s.ctxs, n ∈ e.2.part)) ∧ (2 ^ 27 < base + size ∨ (∃ u ∈ chipUses s, u.1 < base + size ∧ base < u.1 + u.2)) ∧ (frameMapped s (addr / 65536) = true ∨ physExists addr = false)) := by decide +kernel

/-- What TheLinkAndTheClocksAreKept assumes is met together, clause by clause. -/
theorem witness_TheLinkAndTheClocksAreKept :
   (let s : State := base;
    let port : Nat := 15;
    let node : Nat := 0xFFFE;
    port < 16 ∧ manages s = true ∧ node < 0xFFFF ∧ port ∉ s.link.ports) ∧
   (let s : State := { base with plat := { base.plat with ready := false } };
    manages s = false) := by decide +kernel

/-- What DoorbellsMoveTail assumes is met together, clause by clause. -/
theorem witness_DoorbellsMoveTail :
   (let s : State := setCtx base 0 qctx;
    let offset : Nat := 4096;
    let k : Nat := 0;
    let q : Nat := 2;
    let v : Nat := 8;
    let c : Ctx := qctx;
    let w := wake s;
    let queue : Queue := spGet {} c.queues q;
    let d := (v % 2 ^ 32 + 2 ^ 32 - queue.head) % 2 ^ 32;
    k < 64 ∧ q < 8 ∧ servesHost s = true ∧ hostWaits w = false ∧ getCtx s k = some c ∧ c.state ≠ .flying ∧ awaitsSwitch s k = false ∧ d < 2 ^ 31 ∧ d ≤ 2 ^ queue.logSize ∧ (4096 ≤ offset ∨ offset % 8 ≠ 0)) ∧
   (let s : State := setCtx base 0 qctx;
    let k : Nat := 0;
    let q : Nat := 2;
    let v : Nat := 9;
    let c : Ctx := qctx;
    let w := wake s;
    let queue : Queue := spGet {} c.queues q;
    let d := (v % 2 ^ 32 + 2 ^ 32 - queue.head) % 2 ^ 32;
    k < 64 ∧ q < 8 ∧ servesHost s = true ∧ hostWaits w = false ∧ getCtx s k = some c ∧ c.state ≠ .flying ∧ awaitsSwitch s k = false ∧ d < 2 ^ 31 ∧ 2 ^ queue.logSize < d) ∧
   (let s : State := setCtx base 0 qctx;
    let k : Nat := 0;
    let q : Nat := 2;
    let v : Nat := 2 ^ 31;
    let c : Ctx := qctx;
    let w := wake s;
    let queue : Queue := spGet {} c.queues q;
    let d := (v % 2 ^ 32 + 2 ^ 32 - queue.head) % 2 ^ 32;
    k < 64 ∧ q < 8 ∧ servesHost s = true ∧ hostWaits w = false ∧ getCtx s k = some c ∧ c.state ≠ .flying ∧ awaitsSwitch s k = false ∧ 2 ^ 31 ≤ d) ∧
   (let s : State := base;
    let k : Nat := 9;
    let q : Nat := 2;
    let w := wake s;
    k < 64 ∧ q < 8 ∧ servesHost s = true ∧ hostWaits w = false ∧ getCtx s k = none) ∧
   (let s : State := setCtx base 0 { qctx with state := .flying };
    let k : Nat := 0;
    let q : Nat := 2;
    let c : Ctx := { qctx with state := .flying };
    let w := wake s;
    k < 64 ∧ q < 8 ∧ servesHost s = true ∧ hostWaits w = false ∧ getCtx s k = some c ∧ (c.state = .flying ∨ awaitsSwitch s k = true)) ∧
   (let s : State := { base with link := { base.link with heldHere := [⟨0x200010, .hostRead 0x200010 8⟩] } };
    let k : Nat := 0;
    let q : Nat := 2;
    let w := wake s;
    k < 64 ∧ q < 8 ∧ servesHost s = true ∧ hostWaits w = true) := by decide +kernel

/-- What TheHostReadsWritesAndFrees assumes is met together, clause by clause. -/
theorem witness_TheHostReadsWritesAndFrees :
   (let s : State := { base with plat := { base.plat with ready := false } };
    servesHost s = false) ∧
   (let s : State := expo;
    let a : Nat := 0x200010;
    let n : Nat := 8;
    let k : Nat := 0;
    let bytes : List Byte := [1, 2];
    let c : Ctx := aCtx;
    let w := wakeUp s;
    servesHost s = true ∧ a + n ≤ 2 ^ 40 ∧ hostHeld w a n = false ∧ a + bytes.length ≤ 2 ^ 40 ∧ hostHeld w a bytes.length = false ∧ getCtx s k = some c) ∧
   (let s : State := { expo with link := { base.link with peers := [{ dest := 0, node := 9, job := 1, rank := 1, launch := 4, bytes := [⟨1, 0, 0x200010, 5, 0, false⟩], prepared := true, askAt := 0 }] } };
    let a : Nat := 0x200010;
    let n : Nat := 8;
    let bytes : List Byte := [1, 2];
    let w := wakeUp s;
    servesHost s = true ∧ a + n ≤ 2 ^ 40 ∧ hostHeld w a n = true ∧ a + bytes.length ≤ 2 ^ 40 ∧ hostHeld w a bytes.length = true) ∧
   (let s : State := base;
    let a : Nat := 2 ^ 40;
    let n : Nat := 8;
    let bytes : List Byte := [1, 2];
    servesHost s = true ∧ 2 ^ 40 < a + n ∧ 2 ^ 40 < a + bytes.length) := by decide +kernel

/-- What CompletionEntriesKeepTheirOrder assumes is met together, clause by clause. -/
theorem witness_CompletionEntriesKeepTheirOrder :
   (let s : State := setCtx base 0 (ringCtx 2);
    let k : Nat := 0;
    let c : Ctx := ringCtx 2;
    getCtx s k = some c ∧ c.ring.used < c.ring.size ∧ c.ring.held = []) ∧
   (let s : State := setCtx base 0 (ringCtx 0);
    let k : Nat := 0;
    let c : Ctx := ringCtx 0;
    getCtx s k = some c ∧ (c.ring.size ≤ c.ring.used ∨ c.ring.held ≠ [])) := by decide +kernel

/-- What SystemRegistersTakeTheirValue assumes is met together, clause by clause. -/
theorem witness_SystemRegistersTakeTheirValue :
   (let s : State := withCtx (fun c => { c with launches := [{ aLaunch with desc := { aRecord with flags := 4 } }] });
    let k : Nat := 0;
    let i : Nat := 7;
    let v : Nat := 1572865;
    let c : Ctx := { aCtx with launches := [{ aLaunch with desc := { aRecord with flags := 4 } }] };
    manages s = true ∧ getCtx s k = some c ∧ i < 16 ∧ i < 8 ∧ 1572864 < v ∧ exclusiveLive c = true ∧ (v < 600 ∨ 2100 < v) ∧ i < 72) ∧
   (let s : State := base;
    let k : Nat := 0;
    let v : Nat := 2100;
    let c : Ctx := aCtx;
    manages s = true ∧ getCtx s k = some c ∧ v ≤ 1572864 ∧ exclusiveLive c = false ∧ 600 ≤ v ∧ v ≤ 2100) ∧
   (let s : State := { base with plat := { base.plat with ready := false } };
    manages s = false) := by decide +kernel

/-- What MailboxCommandsAct assumes is met together, clause by clause. -/
theorem witness_MailboxCommandsAct :
   (let s : State := { base with ctxs := [], plat := { base.plat with life := 1 } };
    let target : Nat := 3;
    let p := s.plat;
    mailboxFree s ∧ firmwareState p = false ∧ inLife [0, 1, 2] p = true ∧ target ≠ p.life + 1 ∧ inLife [1, 2] p = true) ∧
   (let s : State := { base with ctxs := [], plat := { base.plat with life := 1, recovery := true } };
    let off : Nat := 2 ^ 25 - 1;
    let bytes : List Byte := [1, 2];
    let p := s.plat;
    mailboxFree s ∧ firmwareState p = true ∧ (4032 < bytes.length ∨ 2 ^ 25 < off + bytes.length) ∧ inLife [0, 1, 2] p = false ∧ inLife [1, 2] p = false) ∧
   (let s : State := base;
    let off : Nat := 0;
    let target : Nat := 3;
    let bytes : List Byte := [1, 2];
    let p := s.plat;
    mailboxFree s ∧ firmwareState p = true ∧ bytes.length ≤ 4032 ∧ off + bytes.length ≤ 2 ^ 25 ∧ inLife [0, 1, 2] p = true ∧ target = p.life + 1) := by decide +kernel

/-- What BusyMailboxIgnoresCommands assumes is met together. -/
theorem witness_BusyMailboxIgnoresCommands :
    let s : State := { base with host := { base.host with status := 2 } };
    portReady s = true ∧ s.host.status = 2 := by decide +kernel

/-- What ResetsKeepFusesAndFlash assumes is met together, clause by clause. -/
theorem witness_ResetsKeepFusesAndFlash :
   (let s : State := base;
    poweredOn s = true) ∧
   (let s : State := { base with plat := { base.plat with power := .off } };
    poweredOn s = false) := by decide +kernel

/-- What BootEndsReadyOrInRecovery assumes is met together, clause by clause. -/
theorem witness_BootEndsReadyOrInRecovery :
   (let s : State := { base with plat := { base.plat with power := .booting, torn := true } };
    let p := s.plat;
    p.power = .booting ∧ (p.torn = true ∨ imageAccepted p p.flash = false)) ∧
   (let s : State := base;
    let p := s.plat;
    p.power ≠ .booting) := by decide +kernel

/-- What PowerFollowsTheTolerance assumes is met together, clause by clause. -/
theorem witness_PowerFollowsTheTolerance :
   (let s : State := idleP 1999;
    let p := s.plat;
    p.power = .active ∧ packageIdle s = true ∧ 1000 * p.clockMHz ≤ p.idle ∧ deepest p.ltol = 0) ∧
   (let s : State := { base with plat := { base.plat with power := .low 2 } };
    let d : Nat := 2;
    let p := s.plat;
    let low := { s with plat := { p with power := .low (deepest p.ltol) } };
    (p.power ≠ .active ∨ packageIdle s = false ∨ p.idle < 1000 * p.clockMHz) ∧ p.power = .low d) ∧
   (let s : State := idleP 2000;
    let p := s.plat;
    p.power = .active ∧ packageIdle s = true ∧ 1000 * p.clockMHz ≤ p.idle ∧ 0 < deepest p.ltol ∧ deepest p.ltol < 4) ∧
   (let s : State := idleP 0xFFFFFFFF;
    let p := s.plat;
    p.power = .active ∧ packageIdle s = true ∧ 1000 * p.clockMHz ≤ p.idle ∧ deepest p.ltol = 4) := by decide +kernel

end Sys2Proof.Tests
end

section
/-!
PROOFS. Contexts are parked, saved and restored, and their late writes replay (14 R315 to R325, R428).
-/
namespace Sys2Proof.Machine

/-! ## What the tests of the events mean -/

/-- The decision test is the statements' `decidable` (R322, R428). -/
theorem mayDecide_iff_decidable (s : State) (k : Nat) (c : Ctx) : mayDecide s k c = true ↔ Claims.decidable s k c := by
  simp [mayDecide, Claims.decidable, and_assoc]

theorem taskless_iff (c : Core) : taskless c = true ↔ ∀ t, c.task = some t → t.phase = .held := by
  simp [taskless, Option.all_eq_true]

theorem coresOf_taskless_iff (s : State) (c : Ctx) :
    (coresOf c).all (fun e => taskless (getCore s e.2)) = true ↔
      ∀ e ∈ coresOf c, ∀ t, (getCore s e.2).task = some t → t.phase = .held := by
  simp only [List.all_eq_true, taskless_iff]

/-- What a save waits for (R318): it is under way, every core's image can be written, and no task is due to merge. -/
theorem ctxSavable_iff (s : State) (c : Ctx) :
    ctxSavable s c = true ↔ (c.decided ≠ none ∨ c.saving = true) ∧ (∀ e ∈ coresOf c, coreSavable s e.2 = true) ∧
      ∀ l ∈ c.launches, mergeDue l = false := by
  simp [ctxSavable, Option.isSome_iff_ne_none, and_assoc]

/-! ## PARK (R428) -/

theorem exec_park_of_taskless {s : State} {k : Nat} {c : Ctx} (hc : getCtx s k = some c) (hd : Claims.decidable s k c)
    (ht : ∀ e ∈ coresOf c, ∀ t, (getCore s e.2).task = some t → t.phase = .held) :
    exec (.park k) s = .next (modCtx ((coresOf c).foldl (fun st e => putBackHeld st e.2 k) s) k
      (fun y => { y with saving := true, dog := .saving, dogCount := 0 })) := by
  have hall := (coresOf_taskless_iff s c).2 ht
  simp only [exec, execPark, hc, (mayDecide_iff_decidable s k c).2 hd, hall, Bool.and_self, if_true]

theorem exec_park_of_started {s : State} {k : Nat} {c : Ctx} (hc : getCtx s k = some c)
    (ht : ∃ e ∈ coresOf c, ∃ t, (getCore s e.2).task = some t ∧ t.phase ≠ .held) : exec (.park k) s = .next s := by
  obtain ⟨e, he, t, hte, hph⟩ := ht
  have hall : (coresOf c).all (fun e => taskless (getCore s e.2)) = false :=
    Bool.eq_false_iff.2 (fun h => hph ((coresOf_taskless_iff s c).1 h e he t hte))
  simp [exec, execPark, hc, hall]

/-! ## SAVE_COMPLETE (R318, R325) -/

theorem exec_saveComplete_of_savable {s : State} {k : Nat} {c : Ctx} (hc : getCtx s k = some c) (h : ctxSavable s c = true) :
    exec (.saveComplete k) s = .next (if imageDamaged s c then killDamaged s k c else saveNow s k c) := by
  simp [exec, execSaveComplete, hc, h]

theorem exec_saveComplete_of_not_savable {s : State} {k : Nat} {c : Ctx} (hc : getCtx s k = some c) (h : ¬ ctxSavable s c = true) :
    exec (.saveComplete k) s = .next s := by
  simp [exec, execSaveComplete, hc, h]

/-! ## RESTORE (R288, R292, R302, R324) -/

/-- A context may be written onto clusters: it is parked, no fly of it has still to switch, the clusters are free and in their places, and
their die has room for its frontiers and its board. -/
def MayRestore (s : State) (k : Nat) (c : Ctx) (clusters : List Nat) : Prop :=
  let die := boardDie { c with part := clusters }
  c.state = .parked ∧ c.restoring = false ∧ awaitsSwitch s k = false ∧ clustersOk s c clusters = true ∧
    frontierUsed s die + frontierNeed c ≤ 65536 ∧ c.board.length ≤ c.overflowCap + boardShare s k die

/-- The cores and the local memory of a context that is written onto clusters, each wiped where another job used it last (R324, R350). -/
def loadedOnto (s : State) (k : Nat) (c : Ctx) (clusters : List Nat) : State :=
  let claimed := clusters.foldl (fun st y => claimCluster st c.job y) s
  (coresOf { c with part := clusters }).foldl
    (fun st e => setCore st e.2 (restoredCore c k e.1 (relocate (upTo c.clusters) clusters)))
    (loadLocal claimed k { ((getCtx claimed k).getD c) with part := clusters })

/-- RESTORE is refused exactly where one of the conditions of `MayRestore` fails. -/
theorem restore_refused_iff (s : State) (k : Nat) (c : Ctx) (clusters : List Nat) :
    let die := boardDie { c with part := clusters }
    (c.state ≠ .parked ∨ c.restoring = true ∨ awaitsSwitch s k = true ∨ (!clustersOk s c clusters) = true ∨
      65536 < frontierUsed s die + frontierNeed c ∨ c.overflowCap + boardShare s k die < c.board.length) ↔
      ¬ MayRestore s k c clusters := by
  simp only [MayRestore, Classical.not_and_iff_not_or_not, Bool.not_eq_false, Bool.not_eq_true, Bool.not_eq_true', Nat.not_le,
    ne_eq]

theorem exec_restore_of_not_mayRestore {s : State} {k : Nat} {c : Ctx} {clusters : List Nat} (hc : getCtx s k = some c)
    (h : ¬ MayRestore s k c clusters) : exec (.restore k clusters) s = .next s := by
  simp only [exec, execRestore, hc, if_pos ((restore_refused_iff s k c clusters).2 h)]

theorem exec_restore_of_damaged {s : State} {k : Nat} {c : Ctx} {clusters : List Nat} (hc : getCtx s k = some c)
    (h : MayRestore s k c clusters) (hd : imageDamaged s c = true) :
    exec (.restore k clusters) s = .next (killDamaged s k c) := by
  have hno := fun hr => (restore_refused_iff s k c clusters).1 hr h
  simp only [exec, execRestore, hc, if_neg hno, hd, if_true]

theorem exec_restore_of_intact {s : State} {k : Nat} {c : Ctx} {clusters : List Nat} (hc : getCtx s k = some c)
    (h : MayRestore s k c clusters) (hd : imageDamaged s c = false) :
    let die := boardDie { c with part := clusters }
    let loaded := loadedOnto s k c clusters
    exec (.restore k clusters) s = .next (modCtx (setFrontier loaded die (frontierUsed loaded die + frontierNeed c)) k
      (fun y => { y with restoring := true, claim := false, dog := .saving, dogCount := 0
                         board := placeEntries (boardShare s k die) y.board
                         images := y.images.map (fun e => (e.1, keptImage e.2))
                         launches := y.launches.map (fun l => if l.live then { l with frontier := frontierBytes l } else l) })) := by
  have hno := fun hr => (restore_refused_iff s k c clusters).1 hr h
  simp only [exec, execRestore, hc, if_neg hno, hd, loadedOnto, Bool.false_eq_true, if_false]

/-! ## RESTORE_COMPLETE (R292, R325) -/

/-- The state once the cores of a context resume: it runs, its watchdog armed unless a core is held, and its positions are used up. -/
def resumedContext (s : State) (k : Nat) (c : Ctx) : State :=
  let resumed := (coresOf c).foldl (fun st e => resumeCore st e.2) s
  modCtx resumed k (fun y =>
    { y with restoring := false, state := .running, dog := if ctxHeld resumed k then .off else .armed, dogCount := 0, positions := []
             launches := y.launches.map (fun l => { l with newcomer := false }) })

/-- The points of a grid launch, and of its second run where it rehearses, go on (R292). -/
def resumeGrid (k : Nat) (st : State) (l : Launch) : State :=
  let st2 := if l.desc.flag 1 then resumePoints (resumePoints st k l false) k l true else resumePoints st k l false
  if l.desc.flag 1 then advanceGrid (advanceGrid st2 k l.handle false) k l.handle true else advanceGrid st2 k l.handle false

theorem exec_restoreComplete_of_restoring {s : State} {k : Nat} {c : Ctx} (hc : getCtx s k = some c) (h : c.restoring = true) :
    exec (.restoreComplete k) s =
      .next (settle ((c.launches.filter (fun l => l.live && l.desc.mode == 0)).foldl (resumeGrid k) (resumedContext s k c))) := by
  simp only [exec, execRestoreComplete, hc, h, Bool.not_true, Bool.false_eq_true, if_false]
  rfl

/-! ## Late writes (R315, R316) -/

@[simp] theorem length_upTo (n : Nat) : (upTo n).length = n := by
  induction n with
  | zero => rfl
  | succ n ih => simp [upTo, ih]

/-- Every entry of the late-write buffer replays, from the resumed cycle on, with the cycles that it has left (R316). -/
theorem fromBuffer_pend_of_mem_lwb {c : Core} {b : LwbEntry} (h : b ∈ c.lwb) :
    ∃ q ∈ c.fromBuffer.pend,
      q.what = b.what ∧ q.flags = b.flags ∧ q.replay = true ∧ q.due = some (c.now + b.remaining - 1) := by
  have hzip : ((upTo c.lwb.length).zip c.lwb).map Prod.snd = c.lwb := List.map_snd_zip (by simp)
  rw [← hzip] at h
  obtain ⟨⟨i, b⟩, hib, rfl⟩ := List.mem_map.1 h
  exact ⟨_, List.mem_append_left _ (List.mem_map_of_mem hib), rfl, rfl, rfl, rfl⟩

/-- A core that stops buffers each result that has a cycle to land in, with the cycles from now to that one (R315). -/
theorem mem_lwb_stopCore {c : Core} {e : Pending} {d : Nat} (he : e ∈ c.pend) (hd : e.due = some d) :
    { dest := e.dest, what := e.what, remaining := d + 1 - c.now, age := e.age, flags := e.flags } ∈ (stopCore c).lwb :=
  List.mem_append_right _ (List.mem_filterMap.2 ⟨e, he, by simp [hd]⟩)

/-! ## The claims -/

theorem contextsAreSavedAndRestored : Claims.ContextsAreSavedAndRestored := by
  intro s k c clusters moved die f claimed mayRestore loaded resumed running hc
  refine ⟨fun hd ht => exec_park_of_taskless hc hd ht, fun _ ht => exec_park_of_started hc ht, fun hs hcores hmerge => ?_,
    fun hblock => ?_, fun hdec hsav => ?_, fun hr hd => exec_restore_of_damaged hc hr hd,
    fun hr => exec_restore_of_not_mayRestore hc hr, fun hr hd => exec_restore_of_intact hc hr hd,
    fun hr => exec_restoreComplete_of_restoring hc hr⟩
  · exact exec_saveComplete_of_savable hc ((ctxSavable_iff s c).2 ⟨hs, hcores, hmerge⟩)
  · refine exec_saveComplete_of_not_savable hc (fun h => ?_)
    obtain ⟨-, hcores, hmerge⟩ := (ctxSavable_iff s c).1 h
    rcases hblock with ⟨e, he, hno⟩ | ⟨l, hl, hdue⟩
    · simp [hcores e he] at hno
    · simp [hmerge l hl] at hdue
  · refine exec_saveComplete_of_not_savable hc (fun h => ?_)
    obtain ⟨hwhy, -, -⟩ := (ctxSavable_iff s c).1 h
    simp [hdec, hsav] at hwhy

theorem lateWritesReplayWithTheirCyclesLeft : Claims.LateWritesReplayWithTheirCyclesLeft := by
  intro c e d now _ he hd hle
  obtain ⟨q, hq, hwhat, hflags, hreplay, hdue⟩ :=
    fromBuffer_pend_of_mem_lwb (c := { stopCore c with now := now }) (mem_lwb_stopCore he hd)
  have hleft : now + (d + 1 - c.now) - 1 = now + (d - c.now) := by omega
  exact ⟨q, hq, hwhat, hflags, hreplay, hdue.trans (congrArg some hleft)⟩

/-- Settles O53: PARK, SAVE_COMPLETE, RESTORE and RESTORE_COMPLETE by the outcomes of their tests, and the replay of late writes by
following a result into the late-write buffer and out again. -/
theorem contextsAreSavedRestoredAndReplayed : Obligations.ContextsAreSavedRestoredAndReplayed :=
  ⟨contextsAreSavedAndRestored, lateWritesReplayWithTheirCyclesLeft⟩

end Sys2Proof.Machine
end

section
/-!
PROOFS. Registers as elements and bytes (R18, R20, R118): the operands and results of the vector slots in the words of the statements.
-/
namespace Sys2Proof.Machine
open Sys2Proof.Claims

/-! ## Numbers -/

@[simp] theorem upTo_eq_range (n : Nat) : upTo n = List.range n := by
  induction n with
  | zero => rfl
  | succ n ih => rw [upTo, ih, List.range_succ]

theorem bitAt_eq_testBit (w i : Nat) : bitAt w i = w.testBit i := Nat.testBit_eq_decide_div_mod_eq.symm

@[simp] theorem bitAt_toNat {n : Nat} (v : BitVec n) (i : Nat) : bitAt v.toNat i = v.getLsbD i := bitAt_eq_testBit _ _

@[simp] theorem enabled_eq_getLsbD (p : Pred) (size i : Nat) : enabled p size i = p.getLsbD (i * size) := bitAt_toNat p _

theorem ofSigned_eq_ofInt (w : Nat) (z : Int) : ofSigned w z = (BitVec.ofInt w z).toNat := (BitVec.toNat_ofInt ..).symm

theorem toSigned_eq_toInt (w v : Nat) : toSigned w v = (BitVec.ofNat w v).toInt := by
  cases w with
  | zero => simp [toSigned, Nat.mod_one, BitVec.toInt_zero_length]
  | succ w =>
    have h2 : 2 ^ (w + 1) = 2 * 2 ^ w := by rw [Nat.pow_succ, Nat.mul_comm]
    simp only [toSigned, BitVec.toInt_eq_toNat_cond, BitVec.toNat_ofNat, Nat.add_sub_cancel]
    refine ite_congr (propext ?_) (fun _ => rfl) (fun _ => rfl)
    omega

theorem intElem_false (size v : Nat) : intElem size false v = signed size v := toSigned_eq_toInt _ _

theorem sext64_eq_ofInt (size v : Nat) : sext64 (8 * size) v = BitVec.ofInt 64 (signed size v) := by
  rw [sext64, ofSigned_eq_ofInt, toSigned_eq_toInt, BitVec.ofNat_toNat, BitVec.setWidth_eq, signed]

/-! ## Elements of a register -/

theorem elem_lt (v : Vec) (size i : Nat) : elem v size i < 2 ^ (8 * size) := Nat.mod_lt _ (Nat.two_pow_pos _)

/-- A list of w-bit elements holds each at its place. -/
theorem field_packList (w : Nat) : ∀ (xs : List Nat) (i : Nat), field (packList w xs) (w * i) w = xs.getD i 0 % 2 ^ w
  | [], i => by simp [packList, field]
  | y :: xs, 0 => by simp [packList, field]
  | y :: xs, i + 1 => by
    have hdrop : packList w (y :: xs) / 2 ^ w = packList w xs := by
      rw [packList, Nat.add_mul_div_left _ _ (Nat.two_pow_pos w), Nat.div_eq_of_lt (Nat.mod_lt _ (Nat.two_pow_pos w)), Nat.zero_add]
    rw [field, Nat.mul_succ, Nat.add_comm, Nat.pow_add, ← Nat.div_div_eq_div_mul, hdrop]
    exact field_packList w xs i

/-- A number written to a register keeps each element that lies in the register. -/
theorem elem_ofNat {size i : Nat} (w : Nat) (h : size * (i + 1) ≤ 256) :
    elem (BitVec.ofNat 2048 w) size i = field w (8 * size * i) (8 * size) := by
  have hfit : 8 * size * i + 8 * size ≤ 2048 := by rw [Nat.mul_assoc, ← Nat.mul_add]; rw [Nat.mul_succ] at h; omega
  refine Nat.eq_of_testBit_eq fun j => ?_
  simp only [elem, field, BitVec.toNat_ofNat, Nat.testBit_mod_two_pow, Nat.testBit_div_two_pow]
  by_cases hj : j < 8 * size
  · simp [hj, show j + 8 * size * i < 2048 by omega]
  · simp [hj]

/-- The place of element i < n of n elements that fit the register lies in it. -/
theorem mul_succ_le_of_lt {size n i : Nat} (h : size * n ≤ 256) (hi : i < n) : size * (i + 1) ≤ 256 :=
  Nat.le_trans (Nat.mul_le_mul_left size hi) h

theorem elem_vecOf {size : Nat} {xs : List Nat} (h : size * xs.length ≤ 256) {i : Nat} (hi : i < xs.length) :
    elem (vecOf size xs) size i = xs.getD i 0 % 2 ^ (8 * size) := by
  rw [vecOf, elem_ofNat _ (mul_succ_le_of_lt h hi), field_packList]

theorem elem_vecOf_range {size n : Nat} (h : size * n ≤ 256) (f : Nat → Nat) {i : Nat} (hi : i < n) :
    elem (vecOf size ((List.range n).map f)) size i = f i % 2 ^ (8 * size) := by
  rw [elem_vecOf (by simpa using h) (by simpa using hi)]
  simp [List.getD, hi]

theorem elem_vecOf_replicate {size n : Nat} (h : size * n ≤ 256) (r : Nat) {i : Nat} (hi : i < n) :
    elem (vecOf size (List.replicate n r)) size i = r % 2 ^ (8 * size) := by
  rw [elem_vecOf (by simpa using h) (by simpa using hi)]
  simp [List.getD, hi]

/-- One element put at its place in a register. -/
theorem elem_ofNat_single {size i : Nat} (w : Nat) (h : size * (i + 1) ≤ 256) :
    elem (BitVec.ofNat 2048 (w % 2 ^ (8 * size) * 2 ^ (8 * size * i))) size i = w % 2 ^ (8 * size) := by
  rw [elem_ofNat _ h, field, Nat.mul_div_cancel _ (Nat.two_pow_pos _), Nat.mod_mod]

/-! ## Byte enables -/

theorem packElems_lt (w : Nat) (f : Nat → Nat) (n : Nat) : packElems w n f < 2 ^ (w * n) := by
  induction n with
  | zero => simp [packElems]
  | succ n ih =>
    have htop : (f n % 2 ^ w + 1) * 2 ^ (w * n) ≤ 2 ^ w * 2 ^ (w * n) := Nat.mul_le_mul_right _ (Nat.mod_lt _ (Nat.two_pow_pos w))
    rw [packElems, Nat.mul_succ, Nat.pow_add, Nat.mul_comm (2 ^ (w * n))]
    rw [Nat.succ_mul] at htop
    omega

theorem testBit_packElems {w : Nat} (hw : 0 < w) (f : Nat → Nat) (n j : Nat) :
    (packElems w n f).testBit j = (decide (j / w < n) && (f (j / w)).testBit (j % w)) := by
  induction n with
  | zero => simp [packElems]
  | succ n ih =>
    rw [packElems, Nat.mul_comm, Nat.testBit_two_pow_mul_add _ (packElems_lt w f n), ih, Nat.testBit_mod_two_pow]
    have hlow : j < w * n ↔ j / w < n := by rw [Nat.div_lt_iff_lt_mul hw, Nat.mul_comm]
    by_cases hj : j < w * n
    · have := hlow.1 hj
      simp [hj, this, Nat.lt_succ_of_lt this]
    · have hge : n ≤ j / w := Nat.le_of_not_lt (fun h => hj (hlow.2 h))
      rcases Nat.eq_or_lt_of_le hge with heq | hgt
      · have hmod : j - w * n = j % w := by rw [heq, Nat.mod_eq_sub]
        simp [hj, hmod, ← heq, Nat.mod_lt _ hw]
      · have hout : ¬ j - w * n < w := by
          have := (Nat.le_div_iff_mul_le hw).1 hgt
          rw [Nat.succ_mul, Nat.mul_comm] at this
          omega
        simp [hj, hout, show ¬ j / w < n + 1 by omega]

/-- A byte of a byte mask belongs to the element that holds it (R20). -/
theorem getLsbD_byteMask {size n j : Nat} (hs : 0 < size) (f : Nat → Bool) (hj : j < 256) :
    (byteMask size n f).getLsbD j = (decide (j / size < n) && f (j / size)) := by
  rw [byteMask, BitVec.getLsbD_ofNat, testBit_packElems hs]
  cases hf : f (j / size) <;> simp [hj, Nat.testBit_two_pow_sub_one, Nat.mod_lt _ hs]

theorem div_lt_count {size j : Nat} (h : size ∣ 256) (hj : j < 256) : j / size < 256 / size :=
  Nat.div_lt_div_of_lt_of_dvd h hj

/-- A byte mask of all elements of a register enables a byte as its element. -/
theorem getLsbD_byteMask_elemCount {size j : Nat} (h : size ∣ 256) (f : Nat → Bool) (hj : j < 256) :
    (byteMask size (elemCount size) f).getLsbD j = f (j / size) := by
  rw [getLsbD_byteMask (Nat.pos_of_dvd_of_pos h (by decide)) f hj, elemCount]
  simp [div_lt_count h hj]

theorem getLsbD_enableMask {size j : Nat} (h : size ∣ 256) (p : Pred) (hj : j < 256) :
    (enableMask p size).getLsbD j = p.getLsbD (j / size * size) := by
  rw [enableMask, getLsbD_byteMask_elemCount h _ hj, enabled_eq_getLsbD]

theorem allBytes_eq_allOnes : allBytes = BitVec.allOnes 256 := by decide

theorem typeSize_dvd : ∀ t : Nat, typeSize t ∣ 256
  | 0 | 1 | 2 | 3 | 4 | 5 => by decide
  | _ + 6 => Nat.one_dvd 256

/-! ## Operands and results of the slots -/

theorem toNat_eq_zero_iff {n : Nat} (r : BitVec n) : r.toNat = 0 ↔ r = 0 := by
  rw [← BitVec.toNat_inj, BitVec.ofNat_eq_ofNat, BitVec.toNat_ofNat, Nat.zero_mod]

/-- A test of a register's number for 0 is the test of its field. -/
theorem ite_toNat_eq_zero {α : Type} {n : Nat} (r : BitVec n) (a b : α) : (if r.toNat = 0 then a else b) = if r = 0 then a else b :=
  ite_congr (propext (toNat_eq_zero_iff r)) (fun _ => rfl) (fun _ => rfl)

theorem rx_eq_x (s : State) (r : BitVec 5) : rx s r.toNat = x s r := ite_toNat_eq_zero r 0 _

/-- The registers of the B cluster follow those of A at the offset that the statements write out. -/
theorem mul_ofBool_onB (s : State) (k : Nat) : k * ofBool (onB s) = if isB s then k else 0 := by
  change k * (if onB s then 1 else 0) = if onB s then k else 0
  cases onB s
  · exact Nat.mul_zero k
  · exact Nat.mul_one k

theorem rv_eq_vec (s : State) (r : BitVec 4) : rv s r = vec s r := by
  rw [rv, Regs.readV, vecKey, mul_ofBool_onB]; rfl

theorem rp_eq_pred (s : State) (p : BitVec 3) : rp s p = pred s p := by
  rw [rp, Regs.readP, mul_ofBool_onB]
  exact ite_congr (propext (toNat_eq_zero_iff p)) (fun _ => allBytes_eq_allOnes) (fun _ => rfl)

theorem postX_eq_toX (s : State) (r : BitVec 5) (latency : Nat) (v : Word) : postX s r.toNat latency v = toX s r latency v :=
  congrArg (fun dest => inFlight s dest (lands s latency) 0 0 (.x r.toNat v)) (ite_toNat_eq_zero r none _)

theorem postP_eq_toP (s : State) (d : BitVec 3) (latency : Nat) (q : Pred) :
    postP s (onB s) d.toNat latency q = toP s d latency q :=
  congrArg (fun dest => inFlight s dest (lands s latency) 0 0 (.pred (onB s) d.toNat q)) (ite_toNat_eq_zero d none _)

theorem postV_eq_toV (s : State) (d : BitVec 4) (latency : Nat) (flags : FpFlags) (v : Vec) (bytes : Pred) :
    postV s (onB s) d.toNat latency flags v bytes = toV s d latency flags v bytes := rfl

/-! ## Flags -/

/-- The flags of a list of element results are those of its elements together (R48). -/
theorem flagsOf_map_range (n : Nat) (f : Nat → WithFlags Nat) : flagsOf ((List.range n).map f) = flagsOver n (fun i => (f i).2) := by
  rw [flagsOf, List.foldl_map, flagsOver]

@[simp] theorem flagsOver_zero (n : Nat) : flagsOver n (fun _ => 0) = 0 := by
  induction n with
  | zero => rfl
  | succ n ih => rw [flagsOver, List.range_succ, List.foldl_append, ← flagsOver, ih]; rfl

/-! ## What the shared operations of the vector slots answer -/

/-- The elements of a register, taken together, are its bytes. -/
theorem mul_count_le (size : Nat) : size * (256 / size) ≤ 256 := Nat.mul_div_le 256 size

/-- An element-wise operation merges its results under its predicate (R118). -/
theorem merges_elementwise (s : State) {size : Nat} (h : size ∣ 256) (d : BitVec 4) (p : BitVec 3) (latency : Nat)
    (f : Nat → WithFlags Nat) : merges s (elementwise s size d p latency f) size d (pred s p) latency f := by
  refine ⟨vecOf size ((enabledResults (pred s p) size f).map Prod.fst), enableMask (pred s p) size, ?_, fun i hi hon => ?_,
    fun j hj => getLsbD_enableMask h _ hj⟩
  · rw [elementwise, rp_eq_pred, postV_eq_toV, enabledResults, upTo_eq_range, flagsOf_map_range]
    simp only [enabled_eq_getLsbD, apply_ite Prod.snd]
    rfl
  · rw [enabledResults, upTo_eq_range, List.map_map, elemCount, elem_vecOf_range (mul_count_le size) _ hi]
    simp [hon]

/-- A copy of a register under its predicate merges its elements (R118). -/
theorem mergesNat_copy (s : State) {size : Nat} (h : size ∣ 256) (d : BitVec 4) (p : BitVec 3) (latency : Nat) (v : Vec) :
    mergesNat s (.next (postV s (onB s) d.toNat latency 0 v (enableMask (rp s p) size))) size d (pred s p) latency (elem v size) := by
  refine ⟨v, enableMask (pred s p) size, ?_, fun i _ _ => (Nat.mod_eq_of_lt (elem_lt v size i)).symm,
    fun j hj => getLsbD_enableMask h _ hj⟩
  simp only [rp_eq_pred, postV_eq_toV, ite_self, flagsOver_zero]

/-- A result of every element writes every byte (R128 to R130). -/
theorem writesAll_wholeResult (s : State) (size : Nat) (d : BitVec 4) (latency : Nat) (f : Nat → WithFlags Nat) :
    writesAll s (wholeResult s size d latency ((upTo (256 / size)).map f)) size d latency f := by
  refine ⟨vecOf size (((List.range (256 / size)).map f).map Prod.fst), ?_, fun i hi => ?_⟩
  · rw [wholeResult, upTo_eq_range, flagsOf_map_range, postV_eq_toV, allBytes_eq_allOnes]
  · rw [List.map_map, elem_vecOf_range (mul_count_le size) _ hi]
    rfl

/-- One value in every element writes every byte (R128). -/
theorem writesAll_replicate (s : State) (size : Nat) (d : BitVec 4) (latency : Nat) (r : Nat) :
    writesAll s (.next (postV s (onB s) d.toNat latency 0 (vecOf size (List.replicate (elemCount size) r)) allBytes)) size d latency
      (fun _ => (r, 0)) := by
  refine ⟨_, ?_, fun i hi => elem_vecOf_replicate (mul_count_le size) r hi⟩
  rw [flagsOver_zero, postV_eq_toV, allBytes_eq_allOnes]
  rfl

end Sys2Proof.Machine
end

section
/-!
PROOFS. Reductions in a register, conversions and packed images (02 R61; 05 R128 to R130).
-/
namespace Sys2Proof.Machine
open Sys2Proof.Claims

/-! ## The integer sum (R61) -/

theorem foldl_add_ite (on : Nat → Bool) (g : Nat → Int) (xs : List Nat) : ∀ acc : Int,
    xs.foldl (fun acc i => if on i then acc + g i else acc) acc = acc + (xs.map (fun i => if on i then g i else 0)).sum := by
  induction xs with
  | nil => simp
  | cons i xs ih =>
    intro acc
    rw [List.foldl_cons, ih, List.map_cons, List.sum_cons]
    split <;> omega

/-- The integer sum of a register is that of its enabled elements, wrapped to 32 bits, without a flag. -/
theorem registerSum_of_int {t : Nat} (ht : t ≤ 2) (v : Vec) (p : Pred) :
    registerSum t v p = (wrap 4 ((List.range (256 / typeSize t)).map (fun i =>
      if p.getLsbD (i * typeSize t) then signed (typeSize t) (elem v (typeSize t) i) else 0)).sum, 0) := by
  have hf : typeIsFloat t = false := decide_eq_false (by omega)
  simp only [registerSum, hf, Bool.false_eq_true, if_false, upTo_eq_range, foldl_add_ite, Int.zero_add, ofSigned_eq_ofInt,
    enabled_eq_getLsbD, intElem_false]
  rfl

/-! ## The extreme element (R61) -/

/-- a does not come after b in the direction of the reduction: toward the largest when isMax, else toward the smallest. -/
def extremeLe (t : Nat) (isMax : Bool) (a b : Nat) : Prop :=
  if isMax then signed (typeSize t) a ≤ signed (typeSize t) b else signed (typeSize t) b ≤ signed (typeSize t) a

theorem extremeLe_refl (t : Nat) (isMax : Bool) (a : Nat) : extremeLe t isMax a a := by
  unfold extremeLe; split <;> exact Int.le_refl _

theorem extremeLe_trans {t : Nat} {isMax : Bool} {a b c : Nat} (h : extremeLe t isMax a b) (h' : extremeLe t isMax b c) :
    extremeLe t isMax a c := by
  cases isMax
  · exact Int.le_trans h' h
  · exact Int.le_trans h h'

/-- The extreme of two integer elements is one of them, and neither comes after it. -/
theorem extremeOf_of_int {t : Nat} (ht : t ≤ 2) (isMax : Bool) (a b : Nat) :
    (extremeOf t isMax a b = a ∨ extremeOf t isMax a b = b) ∧
      extremeLe t isMax a (extremeOf t isMax a b) ∧ extremeLe t isMax b (extremeOf t isMax a b) := by
  have hf : typeIsFloat t = false := decide_eq_false (by omega)
  have hdef : extremeOf t isMax a b = if isMax = decide (signed (typeSize t) a ≤ signed (typeSize t) b) then b else a := by
    simp only [extremeOf, hf, Bool.false_eq_true, if_false, intElem_false]
  rw [hdef]
  cases isMax <;> by_cases hle : signed (typeSize t) a ≤ signed (typeSize t) b <;> simp [extremeLe, hle] <;> omega

/-- The fold of a reduction ends at an element of its list, and no element comes after it. -/
theorem foldl_extremeOf {t : Nat} (ht : t ≤ 2) (isMax : Bool) (xs : List Nat) : ∀ a : Nat,
    xs.foldl (extremeOf t isMax) a ∈ a :: xs ∧ ∀ b ∈ a :: xs, extremeLe t isMax b (xs.foldl (extremeOf t isMax) a) := by
  induction xs with
  | nil => simp [extremeLe_refl]
  | cons b xs ih =>
    intro a
    obtain ⟨hone, ha, hb⟩ := extremeOf_of_int ht isMax a b
    obtain ⟨hmem, hle⟩ := ih (extremeOf t isMax a b)
    have hfirst := hle _ List.mem_cons_self
    refine ⟨?_, fun c hc => ?_⟩
    · rcases List.mem_cons.1 hmem with h | h
      · rw [List.foldl_cons, h]
        rcases hone with h | h <;> simp [h]
      · exact List.mem_cons_of_mem _ (List.mem_cons_of_mem _ h)
    · rcases List.mem_cons.1 hc with rfl | hc
      · exact extremeLe_trans ha hfirst
      · rcases List.mem_cons.1 hc with rfl | hc
        · exact extremeLe_trans hb hfirst
        · exact hle c (List.mem_cons_of_mem _ hc)

/-- The enabled elements that a reduction takes. -/
def enabledElems (t : Nat) (v : Vec) (p : Pred) : List Nat :=
  ((upTo (elemCount (typeSize t))).filter (fun i => enabled p (typeSize t) i)).map (elem v (typeSize t))

theorem mem_enabledElems {t : Nat} {v : Vec} {p : Pred} {a : Nat} :
    a ∈ enabledElems t v p ↔ ∃ i, i < 256 / typeSize t ∧ enabled p (typeSize t) i = true ∧ a = elem v (typeSize t) i := by
  simp only [enabledElems, upTo_eq_range, List.mem_map, List.mem_filter, List.mem_range, elemCount, and_assoc, @eq_comm _ a]

theorem registerExtreme_of_nil {t : Nat} (isMax : Bool) {v : Vec} {p : Pred} (h : enabledElems t v p = []) :
    registerExtreme t isMax v p = emptyExtreme t isMax := by
  unfold enabledElems at h
  unfold registerExtreme
  simp only [h]

theorem registerExtreme_of_cons {t : Nat} (isMax : Bool) {v : Vec} {p : Pred} {a : Nat} {xs : List Nat}
    (h : enabledElems t v p = a :: xs) :
    registerExtreme t isMax v p = xs.foldl (extremeOf t isMax) (extremeOf t isMax a a) := by
  unfold enabledElems at h
  unfold registerExtreme
  simp only [h]

/-- An integer reduction with an enabled element returns one of those, and none comes after it. -/
theorem registerExtreme_of_int {t : Nat} (ht : t ≤ 2) (isMax : Bool) {v : Vec} {p : Pred} {a : Nat} (ha : a ∈ enabledElems t v p) :
    registerExtreme t isMax v p ∈ enabledElems t v p ∧ extremeLe t isMax a (registerExtreme t isMax v p) := by
  cases hxs : enabledElems t v p with
  | nil => simp [hxs] at ha
  | cons b xs =>
    have hself : extremeOf t isMax b b = b := by simpa using (extremeOf_of_int ht isMax b b).1
    obtain ⟨hmem, hle⟩ := foldl_extremeOf ht isMax xs b
    rw [registerExtreme_of_cons isMax hxs, hself]
    exact ⟨hmem, hle a (hxs ▸ ha)⟩

theorem emptyExtreme_of_int {t : Nat} (ht : t ≤ 2) (isMax : Bool) :
    emptyExtreme t isMax = if isMax then 2 ^ (8 * typeSize t - 1) else 2 ^ (8 * typeSize t - 1) - 1 := by
  have hf : typeIsFloat t = false := decide_eq_false (by omega)
  simp [emptyExtreme, hf]

theorem registerExtremeIsTheExtreme : Claims.RegisterExtremeIsTheExtreme := by
  intro t v p ht size best least
  refine ⟨fun hnone => ?_, fun i hi hon => ?_⟩
  · have hnil : enabledElems t v p = [] := by
      refine List.eq_nil_iff_forall_not_mem.2 fun a ha => ?_
      obtain ⟨i, hi, hon, -⟩ := mem_enabledElems.1 ha
      rw [hnone i hi] at hon
      exact absurd hon (by decide)
    exact ⟨(registerExtreme_of_nil true hnil).trans (emptyExtreme_of_int ht true),
      (registerExtreme_of_nil false hnil).trans (emptyExtreme_of_int ht false)⟩
  · have ha : elem v (typeSize t) i ∈ enabledElems t v p := mem_enabledElems.2 ⟨i, hi, hon, rfl⟩
    obtain ⟨hbest, hle⟩ := registerExtreme_of_int ht true ha
    obtain ⟨hleast, hge⟩ := registerExtreme_of_int ht false ha
    exact ⟨hle, hge, mem_enabledElems.1 hbest, mem_enabledElems.1 hleast⟩

/-! ## The instructions (R128 to R130) -/

theorem exec_vrsum (s : State) (t p : BitVec 3) (d vs : BitVec 4) :
    ∃ v, exec (.vrsum t d vs p) s = .next (toV s d 8 (registerSum t.toNat (vec s vs) (pred s p)).2 v (BitVec.allOnes 256)) ∧
      ∀ l, l < 64 → elem v 4 l = (registerSum t.toNat (vec s vs) (pred s p)).1 % 2 ^ 32 := by
  refine ⟨vecOf 4 (List.replicate 64 (registerSum t.toNat (vec s vs) (pred s p)).1), ?_,
    fun l hl => elem_vecOf_replicate (by decide) _ hl⟩
  rw [← rv_eq_vec, ← rp_eq_pred, ← allBytes_eq_allOnes]
  rfl

theorem exec_vrsum_of_int (s : State) {t : BitVec 3} (ht : t.toNat ≤ 2) (p : BitVec 3) (d vs : BitVec 4) :
    let size := typeSize t.toNat
    ∃ v, exec (.vrsum t d vs p) s = .next (toV s d 8 0 v (BitVec.allOnes 256)) ∧
      ∀ l, l < 64 → elem v 4 l = wrap 4 ((List.range (256 / size)).map (fun i =>
        if (pred s p).getLsbD (i * size) then signed size (elem (vec s vs) size i) else 0)).sum := by
  obtain ⟨v, hv, hel⟩ := exec_vrsum s t p d vs
  rw [registerSum_of_int ht] at hv hel
  exact ⟨v, hv, fun l hl => (hel l hl).trans (Nat.mod_eq_of_lt (BitVec.isLt _))⟩

theorem writesAll_extremeResult (s : State) (t p : BitVec 3) (d vs : BitVec 4) (isMax : Bool) :
    writesAll s (extremeResult s t d vs p isMax) (typeSize t.toNat) d 8
      (fun _ => (registerExtreme t.toNat isMax (vec s vs) (pred s p), 0)) := by
  rw [← rv_eq_vec, ← rp_eq_pred]
  exact writesAll_replicate s _ d 8 _

theorem writesAll_execVcvt (s : State) (t p m : BitVec 3) (d vs vt : BitVec 4) (f : BitVec 5) :
    writesAll s (execVcvt t d vs vt p f m s) (fmtBits f.toNat / 8) d 4 (fun i =>
      if i < 256 / max (typeSize t.toNat) (fmtBits f.toNat / 8) ∧
          (pred s p).getLsbD (i * max (typeSize t.toNat) (fmtBits f.toNat / 8)) = true then
        convertFmt (typeFmt t.toNat) ((fmtOfCode f.toNat).getD (.int 8 true)) m.toNat false
          (randomWord (vec s vt) (i * typeSize t.toNat)) (elem (vec s vs) (typeSize t.toNat) i)
      else (0, 0)) := by
  simp only [← rv_eq_vec, ← rp_eq_pred, ← bitAt_toNat]
  exact writesAll_wholeResult s _ d 4 _

theorem execVpack_eq (s : State) (t p m : BitVec 3) (d vs vt : BitVec 4) (f : BitVec 5) :
    execVpack t d vs vt p f m s =
      let image := encodeImage (packCode f.toNat) m.toNat ((List.range (packCount f.toNat (256 / typeSize t.toNat))).map (fun i =>
        (if (pred s p).getLsbD (i * typeSize t.toNat) then typeVal t.toNat (elem (vec s vs) (typeSize t.toNat) i)
          else Val.fin false 0 0, randomWord (vec s vt) (i * typeSize t.toNat))))
      .next (toV s d 4 image.2 (BitVec.ofNat 2048 image.1) (BitVec.allOnes 256)) := by
  simp only [execVpack, upTo_eq_range, enabled_eq_getLsbD, rp_eq_pred, rv_eq_vec, postV_eq_toV, allBytes_eq_allOnes, elemCount]

theorem writesAll_execVunpk (s : State) (t p m : BitVec 3) (d vs vt : BitVec 4) (f : BitVec 5) :
    writesAll s (execVunpk t d vs vt p f m s) (typeSize t.toNat) d 4 (fun i =>
      if i < packCount f.toNat (256 / typeSize t.toNat) ∧ (pred s p).getLsbD (i * typeSize t.toNat) = true then
        encodeVal (typeFmt t.toNat) m.toNat false (randomWord (vec s vt) (i * typeSize t.toNat))
          (imageElem (packCode f.toNat) (vec s vs).toNat i)
      else (0, 0)) := by
  simp only [← rv_eq_vec, ← rp_eq_pred, ← enabled_eq_getLsbD]
  exact writesAll_wholeResult s _ d 4 _

theorem reductionsAndConversions : Claims.VectorReductionsAndConversions := by
  intro s t p d vs vt f m
  exact ⟨fun ht => exec_vrsum_of_int s ht p d vs, fun _ => exec_vrsum s t p d vs, writesAll_extremeResult s t p d vs true,
    writesAll_extremeResult s t p d vs false, fun _ => writesAll_execVcvt s t p m d vs vt f,
    fun _ => execVpack_eq s t p m d vs vt f, fun _ => writesAll_execVunpk s t p m d vs vt f⟩

/-- Settles O30: every result from the shared result of all elements, and the extreme from an induction on the enabled elements. -/
theorem vectorReductionsAndConversions : Obligations.VectorReductionsAndConversions :=
  ⟨reductionsAndConversions, registerExtremeIsTheExtreme⟩

end Sys2Proof.Machine
end

section
/-!
PROOFS. Predicates, spills, lanes, random vectors and accumulator moves (02 R60; 05 R131 to R141).
-/
namespace Sys2Proof.Machine
open Sys2Proof.Claims

/-! ## Predicates (R131 to R133) -/

/-- PLOG's result takes each bit from its table by the two predicates' bits, the first as the higher. -/
theorem getLsbD_predTable (b : BitVec 4) (q r : Pred) {j : Nat} (hj : j < 256) :
    (predTable b q r).getLsbD j = b.getLsbD ((if q.getLsbD j then 2 else 0) + (if r.getLsbD j then 1 else 0)) := by
  have hpick : ∀ (c : Bool) (w : Pred), (if c = true then w else 0).getLsbD j = (c && w.getLsbD j) := by
    intro c w; cases c <;> simp
  simp only [predTable, bitAt_toNat, BitVec.getLsbD_or, hpick, BitVec.getLsbD_and, BitVec.getLsbD_not, hj, decide_true, Bool.true_and]
  cases q.getLsbD j <;> cases r.getLsbD j <;> simp

theorem exec_plog (s : State) (d ps pt : BitVec 3) (b : BitVec 4) :
    exec (.plog d ps pt b) s = .next (toP s d 1 (predTable b (pred s ps) (pred s pt))) := by
  rw [← postP_eq_toP, ← rp_eq_pred, ← rp_eq_pred]; rfl

theorem exec_pcnt (s : State) (t p : BitVec 3) (r : BitVec 5) :
    exec (.pcnt t p r) s = .next (toX s r 1 (BitVec.ofNat 64
      ((List.range (256 / typeSize t.toNat)).filter (fun i => (pred s p).getLsbD (i * typeSize t.toNat))).length)) := by
  simp only [← postX_eq_toX, ← rp_eq_pred, ← enabled_eq_getLsbD, ← upTo_eq_range]; rfl

theorem exec_pfirst (s : State) (t p : BitVec 3) (r : BitVec 5) :
    exec (.pfirst t p r) s = .next (toX s r 1 (BitVec.ofNat 64
      (((List.range (256 / typeSize t.toNat)).find? (fun i => (pred s p).getLsbD (i * typeSize t.toNat))).getD
        (256 / typeSize t.toNat)))) := by
  simp only [← postX_eq_toX, ← rp_eq_pred, ← enabled_eq_getLsbD, ← upTo_eq_range]; rfl

theorem exec_pset (s : State) (t d : BitVec 3) (r : BitVec 5) :
    exec (.pset t d r) s = .next (toP s d 1
      (byteMask (typeSize t.toNat) (elemCount (typeSize t.toNat)) (fun i => decide (i < (x s r).toNat)))) := by
  rw [← postP_eq_toP, ← rx_eq_x]; rfl

/-! ## Spills and lanes (R134, R135) -/

theorem exec_vspill (s : State) (vs : BitVec 4) (l : BitVec 8) :
    exec (.vspill vs l) s = .next (inFlight s (some (.spillV l.toNat)) (lands s 1) 0 0 (.spillV l.toNat (vec s vs))) := by
  rw [← rv_eq_vec]; rfl

theorem exec_vfill (s : State) (d : BitVec 4) (l : BitVec 8) :
    exec (.vfill d l) s = .next (toV s d 1 0 (spGet 0 (me s).loc.spillV l.toNat) (BitVec.allOnes 256)) := by
  rw [← allBytes_eq_allOnes]; rfl

theorem exec_vext (s : State) (t : BitVec 3) (i vs j : BitVec 4) (r : BitVec 5) :
    exec (.vext t i vs j r) s =
      let e := elem (vec s vs) (typeSize t.toNat) (16 * i.toNat + j.toNat)
      .next (toX s r 2 (if t.toNat ≤ 2 then BitVec.ofInt 64 (signed (typeSize t.toNat) e) else BitVec.ofNat 64 e)) := by
  have hkind : typeIsFloat t.toNat = !decide (t.toNat ≤ 2) := by rw [typeIsFloat, ← decide_not]; exact decide_eq_decide.2 (by omega)
  simp only [← postX_eq_toX, ← rv_eq_vec, ← sext64_eq_ofInt]
  change execVext t i vs j r s = _
  by_cases ht : t.toNat ≤ 2 <;> simp [execVext, hkind, ht]

/-- VINS writes its element, the low bits of x, and enables the bytes of that element alone. -/
theorem exec_vins (s : State) {t : BitVec 3} (d : BitVec 4) {i j : BitVec 4} (r : BitVec 5)
    (hk : 16 * i.toNat + j.toNat < 256 / typeSize t.toNat) :
    ∃ v bytes, exec (.vins t d i j r) s = .next (toV s d 2 0 v bytes) ∧
      elem v (typeSize t.toNat) (16 * i.toNat + j.toNat) = (x s r).toNat % 2 ^ (8 * typeSize t.toNat) ∧
      ∀ n, n < 256 → bytes.getLsbD n = decide (n / typeSize t.toNat = 16 * i.toNat + j.toNat) := by
  refine ⟨_, _, rfl, ?_, fun n hn => getLsbD_byteMask_elemCount (typeSize_dvd _) _ hn⟩
  rw [elem_ofNat_single _ (mul_succ_le_of_lt (mul_count_le _) hk), rx_eq_x]

theorem mergesNat_execVrand (s : State) (d : BitVec 4) (p : BitVec 3) (r : BitVec 5) :
    mergesNat s (execVrand d p r s) 4 d (pred s p) 6 (fun lane =>
      vectorRandom ((ctxOfCore s s.issue.core).key0 % 2 ^ 32)
        (((ctxOfCore s s.issue.core).key1 % 2 ^ 32) ^^^ ((me s).dev.rngh.toNat % 2 ^ 32)) ((me s).dev.rngc + x s r).toNat lane) := by
  rw [← rx_eq_x]
  exact merges_elementwise s (by decide) d p 6 _

theorem predicateSpillAndLaneResults : Claims.PredicateSpillAndLaneResults := by
  intro s t p d3 ps pt d vs i4 j4 b l rs
  exact ⟨⟨_, exec_plog s d3 ps pt b, fun j hj => getLsbD_predTable b _ _ hj⟩, exec_pcnt s t p rs, exec_pfirst s t p rs,
    ⟨_, exec_pset s t d3 rs, fun j hj => getLsbD_byteMask_elemCount (typeSize_dvd _) _ hj⟩, exec_vspill s vs l, exec_vfill s d l,
    fun _ => exec_vext s t i4 vs j4 rs, exec_vins s d rs, mergesNat_execVrand s d p rs⟩

/-! ## Accumulator moves (R138 to R141) -/

section
variable {s : State} {c : BitVec 2}

/-- Element i lies in part a of a register: 64 elements each (R139). -/
theorem inPart_eq (a : BitVec 2) (i : Nat) :
    (decide (64 * a.toNat ≤ i) && decide (i < 64 * (a.toNat + 1))) = decide (i / 64 = a.toNat) := by
  rw [← Bool.decide_and]; exact decide_eq_decide.2 (by omega)

theorem readSide_eq (m : MatrixUnit) (l : BitVec 1) (k : Nat) :
    m.readSide (l == 1) k = if l = 1 then spGet 0 m.cl k else spGet cmRest m.cm k := by
  simp only [MatrixUnit.readSide, beq_iff_eq]

/-- ACR converts the elements of one part of a row and writes those that are enabled. -/
theorem exec_acr (h : accReady s c.toNat = true) (t p m : BitVec 3) (d : BitVec 4) (b : BitVec 1) (a : BitVec 2) (r : BitVec 6) :
    let size := typeSize t.toNat
    let mine := fun i => decide (i / 64 = a.toNat) && (pred s p).getLsbD (i * size)
    let conv := fun i => convertFmt (.flt fp32) (typeFmt t.toNat) m.toNat (b == 1) 0
      (elem (spGet 0 (me s).mx.acc (64 * c.toNat + r.toNat)) 4 (i - 64 * a.toNat))
    ∃ v bytes, exec (.acr t d c b m p a r) s =
        .next (toV s d 6 (flagsOver (256 / size) (fun i => if mine i then (conv i).2 else 0)) v bytes) ∧
      (∀ i, i < 256 / size → mine i = true → elem v size i = (conv i).1 % 2 ^ (8 * size)) ∧
      ∀ j, j < 256 → bytes.getLsbD j = mine (j / size) := by
  intro size mine conv
  refine ⟨vecOf size (((List.range (256 / size)).map (fun i => if mine i then conv i else (0, 0))).map Prod.fst),
    byteMask size (elemCount size) mine, ?_, fun i hi hmine => ?_, fun j hj => getLsbD_byteMask_elemCount (typeSize_dvd _) _ hj⟩
  · change execAcr t d c b m p a r s = _
    simp only [execAcr, h, Bool.not_true, Bool.false_eq_true, if_false, inPart_eq, enabled_eq_getLsbD, rp_eq_pred, upTo_eq_range,
      flagsOf_map_range, apply_ite Prod.snd, postV_eq_toV]
    rfl
  · rw [List.map_map, elem_vecOf_range (mul_count_le size) _ hi]
    simp [hmine]

/-- ACW writes a part, converted to FP32, to a row under the predicate's bits of that part. -/
theorem exec_acw (h : accReady s c.toNat = true) (t p : BitVec 3) (vs : BitVec 4) (a : BitVec 2) (r : BitVec 6) :
    ∃ v bytes, exec (.acw t c vs p a r) s = .next (inFlight s (some (.acc c.toNat)) none 0 0 (.accRow c.toNat r.toNat v bytes)) ∧
      (∀ j, j < 64 → elem v 4 j = (convertFmt (typeFmt t.toNat) (.flt fp32) 0 false 0
        (elem (vec s vs) (typeSize t.toNat) (64 * a.toNat + j))).1 % 2 ^ 32) ∧
      ∀ j, j < 256 → bytes.getLsbD j = (pred s p).getLsbD ((64 * a.toNat + j / 4) * typeSize t.toNat) := by
  rw [← rv_eq_vec, ← rp_eq_pred]
  refine ⟨_, byteMask 4 (elemCount 4) (fun j => enabled (rp s p) (typeSize t.toNat) (64 * a.toNat + j)), ?_,
    fun j hj => elem_vecOf_range (n := 64) (by decide) _ hj, fun j hj => ?_⟩
  · change execAcw t c vs p a r s = _
    simp only [execAcw, h, Bool.not_true, Bool.false_eq_true, if_false, upTo_eq_range]
    rfl
  · rw [getLsbD_byteMask_elemCount (size := 4) (by decide) _ hj, enabled_eq_getLsbD]

theorem exec_acs (h : accReady s c.toNat = true) (p : BitVec 3) (d : BitVec 4) (l : BitVec 1) :
    mergesNat s (exec (.acs d l c p) s) 4 d (pred s p) 6
      (elem (if l = 1 then spGet 0 (me s).mx.cl c.toNat else spGet cmRest (me s).mx.cm c.toNat) 4) := by
  have hexec : exec (.acs d l c p) s =
      .next (postV s (onB s) d.toNat 6 0 ((me s).mx.readSide (l == 1) c.toNat) (enableMask (rp s p) 4)) := by
    change execAcs d l c p s = _
    simp only [execAcs, h, Bool.not_true, Bool.false_eq_true, if_false]
    rfl
  rw [hexec, ← readSide_eq]
  exact mergesNat_copy s (by decide) d p 6 _

theorem exec_acsw (h : accReady s c.toNat = true) (p : BitVec 3) (vs : BitVec 4) (l : BitVec 1) :
    exec (.acsw l c vs p) s =
      .next (inFlight s (some (.acc c.toNat)) none 0 0 (.side (l == 1) c.toNat (vec s vs) (enableMask (pred s p) 4))) := by
  rw [← rv_eq_vec, ← rp_eq_pred]
  change execAcsw l c vs p s = _
  simp only [execAcsw, h, Bool.not_true, Bool.false_eq_true, if_false]
  rfl

end

/-- Each accumulator move is held while its accumulator is not ready. -/
theorem exec_accumulatorMoves_of_not_ready {s : State} {c : BitVec 2} (h : accReady s c.toNat = false) (t p m : BitVec 3)
    (d vs : BitVec 4) (a : BitVec 2) (b l : BitVec 1) (r : BitVec 6) :
    exec (.acr t d c b m p a r) s = .next (slotHold s) ∧ exec (.acw t c vs p a r) s = .next (slotHold s) ∧
      exec (.acs d l c p) s = .next (slotHold s) ∧ exec (.acsw l c vs p) s = .next (slotHold s) := by
  have hnot : (!accReady s c.toNat) = true := by rw [h]; rfl
  exact ⟨if_pos hnot, if_pos hnot, if_pos hnot, if_pos hnot⟩

theorem accumulatorMoves : Claims.AccumulatorMoves := by
  intro s t p m d vs c a b l r core size row side mine conv put
  refine ⟨fun h => ⟨exec_acr h t p m d b a r, ?_, exec_acs h p d l, ?_⟩,
    fun h => exec_accumulatorMoves_of_not_ready h t p m d vs a b l r⟩
  · obtain ⟨v, bytes, hexec, hel, hbytes⟩ := exec_acw h t p vs a r
    exact ⟨v, bytes, hexec, hel, fun _ => hbytes⟩
  · exact ⟨_, exec_acsw h p vs l, fun j hj => getLsbD_enableMask (by decide) _ hj⟩

/-- Settles O31: each result by the rules of elements and byte enables, and the accumulator moves by whether their accumulator is ready. -/
theorem predicatesSpillsLanesAndAccumulators : Obligations.PredicatesSpillsLanesAndAccumulators :=
  ⟨predicateSpillAndLaneResults, accumulatorMoves⟩

end Sys2Proof.Machine
end

section
/-!
PROOFS. The register forms of the scalar slots (R108, R109): immediate, register, multiply and divide results.
-/
namespace Sys2Proof.Machine
open Sys2Proof.Claims

/-- A result in flight is known by its value. -/
theorem next_postX {s : State} {r latency : Nat} {v w : Word} (h : v = w) :
    (.next (postX s r latency v) : Out) = .next (postX s r latency w) := congrArg (fun u => Host.Outcome.next (postX s r latency u)) h

/-! ## Results in the words of the statements -/

theorem low32_eq_extractLsb (a : Word) : low32 a = a.extractLsb' 0 32 := BitVec.setWidth_eq_extractLsb' (by decide)

theorem low32_signExtend (i : BitVec 12) : low32 (i.signExtend 64) = i.signExtend 32 := by
  refine BitVec.eq_of_getLsbD_eq fun j hj => ?_
  have hlt : j < 64 := by omega
  simp only [low32, BitVec.getLsbD_setWidth, BitVec.getLsbD_signExtend, hj, hlt, decide_true, Bool.true_and]

theorem boolWord_decide (p : Prop) [Decidable p] : boolWord (decide p) = if p then 1 else 0 := by simp [boolWord]

theorem add_eq_ofInt (a b : Word) : a + b = BitVec.ofInt 64 (a.toInt + b.toInt) := by
  rw [BitVec.ofInt_add, BitVec.ofInt_toInt, BitVec.ofInt_toInt]

theorem sub_eq_ofInt (a b : Word) : a - b = BitVec.ofInt 64 (a.toInt - b.toInt) := by
  rw [Int.sub_eq_add_neg, BitVec.ofInt_add, BitVec.ofInt_neg, BitVec.ofInt_toInt, BitVec.ofInt_toInt, BitVec.sub_eq_add_neg]

theorem mul_eq_ofInt (a b : Word) : a * b = BitVec.ofInt 64 (a.toInt * b.toInt) := by
  rw [BitVec.ofInt_mul, BitVec.ofInt_toInt, BitVec.ofInt_toInt]

theorem shiftLeft_eq_ofNat (a : Word) (n : Nat) : a <<< n = BitVec.ofNat 64 (a.toNat * 2 ^ n) :=
  BitVec.eq_of_toNat_eq (by rw [BitVec.toNat_shiftLeft, Nat.shiftLeft_eq, BitVec.toNat_ofNat])

theorem ushiftRight_eq_ofNat (a : Word) (n : Nat) : a >>> n = BitVec.ofNat 64 (a.toNat / 2 ^ n) := by
  rw [← Nat.shiftRight_eq_div_pow, ← BitVec.toNat_ushiftRight, BitVec.ofNat_toNat, BitVec.setWidth_eq]

theorem sshiftRight_eq_ofInt (a : Word) (n : Nat) : a.sshiftRight n = BitVec.ofInt 64 (a.toInt / 2 ^ n) := by
  have hpow : ((2 ^ n : Nat) : Int) = 2 ^ n := Int.natCast_pow 2 n
  rw [BitVec.sshiftRight_eq, Int.shiftRight_eq_div_pow, hpow]

/-- The 20 bits of LUI stand above 12 zero bits. -/
theorem wordResult_lui (k : BitVec 20) : wordResult (k ++ (0 : BitVec 12)) = BitVec.ofInt 64 (k.toInt * 4096) := by
  have hvalue : (k ++ (0 : BitVec 12)).toInt = k.toInt * 4096 := by
    rw [BitVec.toInt_append]
    simp [Int.mul_comm]
  rw [wordResult, BitVec.signExtend, hvalue]

/-- The upper half of a product of two unsigned numbers. -/
theorem highProduct_natCast (a b : Nat) : highProduct ((a : Int) * (b : Int)) = BitVec.ofNat 64 (a * b / 2 ^ 64) := by
  rw [highProduct, ← BitVec.ofInt_natCast, Int.natCast_ediv, Int.natCast_mul]

/-! ## Division (R109) -/

section
variable {n : Nat} (a b : BitVec n)

theorem divS_eq_tdiv : divS a b = if b = 0 then -1 else BitVec.ofInt n (a.toInt.tdiv b.toInt) := by
  have hquot : a.sdiv b = BitVec.ofInt n (a.toInt.tdiv b.toInt) :=
    BitVec.eq_of_toInt_eq (by rw [BitVec.toInt_sdiv, BitVec.toInt_ofInt])
  rw [divS, hquot]
  exact ite_congr rfl (fun _ => BitVec.neg_one_eq_allOnes.symm) (fun _ => rfl)

theorem remS_eq_tmod : remS a b = if b = 0 then a else BitVec.ofInt n (a.toInt.tmod b.toInt) := by
  rw [remS, ← BitVec.toInt_srem, BitVec.ofInt_toInt]

theorem divU_eq_div : divU a b = if b = 0 then -1 else BitVec.ofNat n (a.toNat / b.toNat) := by
  rw [divU, BitVec.udiv_def]
  exact ite_congr rfl (fun _ => BitVec.neg_one_eq_allOnes.symm) (fun _ => rfl)

theorem remU_eq_mod : remU a b = if b = 0 then a else BitVec.ofNat n (a.toNat % b.toNat) := by rw [remU, BitVec.umod_def]

end

/-- The signed overflow: the dividend, with remainder 0. -/
theorem divS_remS_overflow : divS (BitVec.intMin 64) (-1) = BitVec.intMin 64 ∧ remS (BitVec.intMin 64) (-1) = 0 := by decide

/-! ## The claims

Each statement is turned into the model's own operands and results; what is left of an instruction is then its value. -/

theorem scalarImmediateResults : Claims.ScalarImmediateResults := by
  intro s i k h g rs rd
  have hint : (i.signExtend 64).toInt = i.toInt := BitVec.toInt_signExtend_of_le (by decide)
  simp only [← rx_eq_x, ← postX_eq_toX, ← low32_eq_extractLsb, ← low32_signExtend, ← hint]
  exact ⟨rfl, next_postX (wordResult_lui k), next_postX (add_eq_ofInt _ _), next_postX (boolWord_decide _),
    next_postX (boolWord_decide _), rfl, rfl, rfl, next_postX (shiftLeft_eq_ofNat _ _), next_postX (ushiftRight_eq_ofNat _ _),
    next_postX (sshiftRight_eq_ofInt _ _), rfl, rfl, rfl, rfl⟩

theorem scalarRegisterResults : Claims.ScalarRegisterResults := by
  intro s rt rs rd
  simp only [← rx_eq_x, ← postX_eq_toX, ← low32_eq_extractLsb]
  exact ⟨next_postX (add_eq_ofInt _ _), next_postX (sub_eq_ofInt _ _), rfl, next_postX (boolWord_decide _),
    next_postX (boolWord_decide _), rfl, rfl, rfl, rfl, rfl, rfl, rfl, rfl, rfl, rfl, next_postX (mul_eq_ofInt _ _), rfl, rfl,
    next_postX (highProduct_natCast _ _), rfl⟩

/-- Settles O12: each instruction posts one result, whose value is the statement's by a fact of machine arithmetic. -/
theorem scalarResults : Obligations.ScalarResults := ⟨scalarImmediateResults, scalarRegisterResults⟩

/-- Settles O13: one posted result, by the rules of division that hold at every width. -/
theorem divisionForEveryOperand : Obligations.DivisionForEveryOperand := by
  intro s rt rs rd
  simp only [← rx_eq_x, ← postX_eq_toX, ← low32_eq_extractLsb, ← divS_eq_tdiv, ← remS_eq_tmod, ← divU_eq_div, ← remU_eq_mod]
  obtain ⟨hquot, hrem⟩ := divS_remS_overflow
  refine ⟨rfl, rfl, rfl, rfl, rfl, rfl, rfl, rfl, fun ha hb => ⟨next_postX ?_, next_postX ?_⟩⟩
  · rw [ha, hb, hquot]
  · rw [ha, hb, hrem]

end Sys2Proof.Machine
end

section
/-!
PROOFS. The device scalar instructions (R112 to R116) and the device registers (R33 to R36; Tables 1.4 to 1.6).
-/
namespace Sys2Proof.Machine
open Sys2Proof.Claims

/-! ## Checked accesses -/

/-- An access that meets no job of its core and reaches a byte of the package acts there. -/
theorem onceFree_of_here {s : State} {va size cls place : Nat} {read write : Bool} {act : Access → State}
    (hfree : meetsJobs s s.issue.core (rangeOf va size) write = false)
    (hhere : checkAccess s s.issue.core va size read write cls = .here place) :
    onceFree s va size read write cls act = act (.here place) := by
  simp only [onceFree, hfree, hhere, Bool.false_eq_true, if_false]

theorem exec_brld_of_here {s : State} {rs : BitVec 5} {place : Nat} (b : BitVec 6)
    (hhere : checkAccess s s.issue.core (x s rs).toNat 32 true false 0 = .here place)
    (hfree : meetsJobs s s.issue.core (rangeOf (x s rs).toNat 32) false = false) :
    let got := coreRead s s.issue.core (whoIs s s.issue.core) place 32
    exec (.brld b rs) s = .next (inFlight got.1 (some (.record b.toNat)) none 0 0
      (.record b.toNat (BitVec.ofNat 256 (ofBytes got.2)) (x s rs).toNat)) := by
  rw [← rx_eq_x] at *
  change Host.Outcome.next (onceFree s _ 32 true false 0 (recordLoad s b.toNat _)) = _
  rw [onceFree_of_here hfree hhere]
  rfl

/-! ## Bit counts (R115) -/

/-- The leading zeros of w bits: none above the count is set, and the next one is. -/
theorem clzFrom_spec (n : Nat) : ∀ w : Nat, clzFrom w n ≤ w ∧ (∀ q < clzFrom w n, n.testBit (w - 1 - q) = false) ∧
    (clzFrom w n < w → n.testBit (w - 1 - clzFrom w n) = true)
  | 0 => by simp [clzFrom]
  | w + 1 => by
    obtain ⟨hle, hzero, hone⟩ := clzFrom_spec n w
    rw [clzFrom, bitAt_eq_testBit]
    cases htop : n.testBit w with
    | true => simp [htop]
    | false =>
      simp only [Bool.false_eq_true, if_false]
      refine ⟨by omega, fun q hq => ?_, fun hlt => ?_⟩
      · cases q with
        | zero => exact htop
        | succ q => simpa [Nat.add_sub_cancel, show w - (q + 1) = w - 1 - q by omega] using hzero q (by omega)
      · simpa [show w - (1 + clzFrom w n) = w - 1 - clzFrom w n by omega] using hone (by omega)

/-- The trailing zeros of w bits: none below the count is set, and the next one is. -/
theorem ctzFrom_spec : ∀ w n : Nat, ctzFrom w n ≤ w ∧ (∀ q < ctzFrom w n, n.testBit q = false) ∧
    (ctzFrom w n < w → n.testBit (ctzFrom w n) = true)
  | 0, n => by simp [ctzFrom]
  | w + 1, n => by
    obtain ⟨hle, hzero, hone⟩ := ctzFrom_spec w (n / 2)
    have hlow : (n % 2 == 1) = n.testBit 0 := by rw [Nat.testBit_zero]; rfl
    rw [ctzFrom, hlow]
    cases hbit : n.testBit 0 with
    | true => simp [hbit]
    | false =>
      simp only [Bool.false_eq_true, if_false, Nat.add_comm 1]
      refine ⟨by omega, fun q hq => ?_, fun hlt => ?_⟩
      · cases q with
        | zero => exact hbit
        | succ q => rw [Nat.testBit_succ]; exact hzero q (by omega)
      · rw [Nat.testBit_succ]; exact hone (by omega)

/-- The count of ones is the number of places that hold one. -/
theorem popcount_eq_length : ∀ w n : Nat, popcount w n = ((List.range w).filter (fun q => n.testBit q)).length
  | 0, _ => rfl
  | w + 1, n => by
    have htail : (fun q => n.testBit q) ∘ Nat.succ = fun q => (n / 2).testBit q := funext fun q => Nat.testBit_succ n q
    rw [popcount, popcount_eq_length w, List.range_succ_eq_map, List.filter_cons, List.filter_map, htail, Nat.testBit_zero]
    by_cases hbit : n % 2 = 1
    · simp [hbit]; omega
    · simp [hbit]; omega

theorem clz_spec (a : Word) : let k := clzFrom 64 a.toNat
    k ≤ 64 ∧ (∀ q < k, a.getMsbD q = false) ∧ (k < 64 → a.getMsbD k = true) := by
  obtain ⟨hle, hzero, hone⟩ := clzFrom_spec a.toNat 64
  refine ⟨hle, fun q hq => ?_, fun hlt => ?_⟩
  · rw [BitVec.getMsbD_eq_getLsbD, ← BitVec.testBit_toNat, hzero q hq, Bool.and_false]
  · rw [BitVec.getMsbD_eq_getLsbD, ← BitVec.testBit_toNat, hone hlt, Bool.and_true, decide_eq_true hlt]

theorem deviceScalarResults : Claims.DeviceScalarResults := by
  intro s e r f i h j rs rd l b place
  refine ⟨?_, ?_, fun hhere hfree => exec_brld_of_here b hhere hfree, ?_⟩
  all_goals simp only [← rx_eq_x, ← postX_eq_toX, ← low32_eq_extractLsb, BitVec.ofNat_toNat]
  · rfl
  · rfl
  · exact ⟨rfl, rfl, ⟨_, rfl, clz_spec _⟩, ⟨_, rfl, ctzFrom_spec 64 _⟩, next_postX (congrArg _ (popcount_eq_length 64 _)),
      rfl, rfl⟩

/-! ## Device registers -/

theorem ofBool_lt_two (b : Bool) : ofBool b < 2 := by cases b <;> decide

theorem ofBool_beq_one (b : Bool) : (ofBool b == 1) = b := by cases b <;> rfl

/-- The fields of DSTAT (Table 1.6), one at a time. -/
theorem dstat_fields (c : Core) :
    let v := (BitVec.ofNat 64 (dstat c)).toNat
    bitAt v 0 = c.dev.wtoBit ∧ bitAt v 1 = c.dev.inh ∧
      (c.regs.loop.length ≤ 4 → field v 2 3 = c.regs.loop.length ∧ bitAt v 8 = (c.task.map (fun t => t.exact)).getD false) := by
  simp only [bitAt, field, BitVec.toNat_ofNat, dstat]
  generalize (c.task.map (fun t => t.exact)).getD false = exact
  have hinh := ofBool_lt_two c.dev.inh
  have hwto := ofBool_lt_two c.dev.wtoBit
  have hexact := ofBool_lt_two exact
  refine ⟨(congrArg (· == 1) ?_).trans (ofBool_beq_one _), (congrArg (· == 1) ?_).trans (ofBool_beq_one _),
    fun hlen => ⟨?_, (congrArg (· == 1) ?_).trans (ofBool_beq_one _)⟩⟩
  all_goals omega

/-- DQ0 to DQ15 read as the status of their ring. -/
theorem deviceRead_ring (s : State) (n : Nat) : ∀ {q : Nat}, q < 16 →
    deviceRead s n (0x030 + q) = BitVec.ofNat 64 (ringStatus ((getCore s n).regs.ring q))
  | 0, _ | 1, _ | 2, _ | 3, _ | 4, _ | 5, _ | 6, _ | 7, _ | 8, _ | 9, _ | 10, _ | 11, _ | 12, _ | 13, _ | 14, _ | 15, _ => rfl
  | _ + 16, h => absurd h (by omega)

theorem toNat_ringStatus {r : Ring} (hfilled : r.filled < 2 ^ 16) (hfree : r.free < 2 ^ 16) (hcap : r.cap < 2 ^ 16) :
    (BitVec.ofNat 64 (ringStatus r)).toNat = r.filled + 2 ^ 16 * r.free + 2 ^ 32 * r.cap := by
  rw [BitVec.toNat_ofNat, ringStatus, Nat.mod_eq_of_lt hfilled, Nat.mod_eq_of_lt hfree, Nat.mod_eq_of_lt hcap]
  omega

/-- A 1 written to a flag clears it, a 0 leaves it. -/
theorem getLsbD_flagsAfterClear (old : FpFlags) (v : Word) {q : Nat} (h : q < 4) :
    (flagsAfterClear old 0 v.toNat).getLsbD q = (old.getLsbD q && !v.getLsbD q) := by
  simp [flagsAfterClear, h]

theorem and_0x1FFF_eq_mod (v : Word) : v &&& 0x1FFF = BitVec.ofNat 64 (v.toNat % 2 ^ 13) := by
  refine BitVec.eq_of_toNat_eq ?_
  have hmask : (0x1FFF : Word).toNat = 2 ^ 13 - 1 := rfl
  rw [BitVec.toNat_and, hmask, Nat.and_two_pow_sub_one_eq_mod, BitVec.toNat_ofNat]
  omega

theorem deviceRegistersReadAndLand : Claims.DeviceRegistersReadAndLand := by
  intro s n c v t k
  obtain ⟨hwto, hinh, hrest⟩ := dstat_fields k
  refine ⟨rfl, rfl, rfl, rfl, rfl, BitVec.toNat_setWidth_of_le (by decide), rfl, rfl, rfl, rfl, rfl, rfl, rfl, rfl, rfl, rfl, hwto,
    hinh, hrest, rfl, rfl, fun ht => ?_, rfl, rfl, fun q hq hfilled hfree hcap => ?_, rfl, rfl, rfl,
    fun q hq => getLsbD_flagsAfterClear _ v hq, rfl, congrArg (fun w => { c.dev with tvec := w }) (and_0x1FFF_eq_mod v), rfl⟩
  · change BitVec.ofNat 64 ((k.task.map (fun t => t.launch)).getD 0) = _
    rw [ht]
    rfl
  · rw [deviceRead_ring s n hq, toNat_ringStatus hfilled hfree hcap]

/-- Settles O18: the results by the posted result of each form and the bit counts, the device registers entry by entry. -/
theorem deviceScalarInstructions : Obligations.DeviceScalarInstructions := ⟨deviceScalarResults, deviceRegistersReadAndLand⟩

end Sys2Proof.Machine
end

section
/-!
PROOFS. The worked encodings of the spec (R98, R148; Tables 3.8, 4.4, 5.4, 7.8, 8.7, 18.2 and 23.2).
-/
namespace Sys2Proof.Machine

/-- Settles O2: the decoder, run on each word that the spec prints. -/
theorem workedEncodingsDecode : Obligations.WorkedEncodingsDecode :=
  ⟨rfl, rfl, rfl, rfl, rfl, rfl, rfl, rfl, rfl, rfl, rfl, rfl, rfl, rfl, rfl, rfl, rfl, rfl, rfl, rfl, rfl, rfl, rfl, rfl, rfl, rfl, rfl,
    rfl, rfl, rfl, rfl, rfl, rfl, rfl, rfl⟩

end Sys2Proof.Machine
end

section
/-!
PROOFS. The CTL slot (R93 to R107): the end tests, hardware loops, waits, the ends of work, and traps with their return.
-/
namespace Sys2Proof.Machine
open Sys2Proof.Claims

/-! ## The issuing core -/

theorem curCore_eq_me (s : State) : curCore s = me s := rfl

@[simp] theorem me_meIs (s : State) (c : Core) : me (meIs s c) = c := getCore_setCore_self s s.issue.core c

@[simp] theorem me_modCur (s : State) (f : Core → Core) : me (modCur s f) = f (me s) := curCore_modCur s f

@[simp] theorem swapShapes_issue (s : State) (w : BitVec 3) : (swapShapes s w).issue = s.issue := by
  unfold swapShapes; split <;> rfl

/-- The exchange of one engine, where it is asked for, leaves all registers but the shape registers. -/
theorem ite_swapShape (b : Bool) (g : Regs) (e : Nat) :
    ∃ shape shadow, (if b then g.swapShape e else g) = { g with shape := shape, shadow := shadow } := by
  cases b
  · exact ⟨_, _, rfl⟩
  · exact ⟨_, _, rfl⟩

/-- The exchange of shape copies leaves all of the issuing core but its shape registers and the places of its damaged words. -/
theorem me_swapShapes (s : State) (w : BitVec 3) :
    ∃ shape shadow bad, me (swapShapes s w) =
      { me s with regs := { (me s).regs with shape := shape, shadow := shadow }, bad := bad } := by
  unfold swapShapes
  split
  · exact ⟨_, _, _, rfl⟩
  · obtain ⟨sh0, sw0, h0⟩ := ite_swapShape (bitAt w.toNat 2) (me s).regs 0
    obtain ⟨sh1, sw1, h1⟩ := ite_swapShape (bitAt w.toNat 1) { (me s).regs with shape := sh0, shadow := sw0 } 1
    obtain ⟨sh2, sw2, h2⟩ := ite_swapShape (bitAt w.toNat 0) { (me s).regs with shape := sh1, shadow := sw1 } 2
    refine ⟨sh2, sw2, (me s).bad.map (CoreWord.exchanged fun e => bitAt w.toNat (2 - e)), ?_⟩
    simp only [me_modCur, modRegs, h0, h1, h2]

section
variable (s : State) (w : BitVec 3)

@[simp] theorem me_swapShapes_ctl : (me (swapShapes s w)).ctl = (me s).ctl := by
  obtain ⟨_, _, _, h⟩ := me_swapShapes s w; rw [h]

@[simp] theorem me_swapShapes_dev : (me (swapShapes s w)).dev = (me s).dev := by
  obtain ⟨_, _, _, h⟩ := me_swapShapes s w; rw [h]

@[simp] theorem me_swapShapes_now : (me (swapShapes s w)).now = (me s).now := by
  obtain ⟨_, _, _, h⟩ := me_swapShapes s w; rw [h]

@[simp] theorem me_swapShapes_task : (me (swapShapes s w)).task = (me s).task := by
  obtain ⟨_, _, _, h⟩ := me_swapShapes s w; rw [h]

@[simp] theorem me_swapShapes_loop : (me (swapShapes s w)).regs.loop = (me s).regs.loop := by
  obtain ⟨_, _, _, h⟩ := me_swapShapes s w; rw [h]

@[simp] theorem x_swapShapes (r : BitVec 5) : x (swapShapes s w) r = x s r := by
  obtain ⟨_, _, _, h⟩ := me_swapShapes s w; rw [x, h, x]

end

/-! ## The end tests of NextBundle (R93) -/

/-- What the end tests of a core's bundle find: the bundle that a back-edge goes to, if one is taken, and the stack left. In a handler
there is no test. -/
def endTests (c : Core) : Option Nat × List LoopEntry :=
  if c.dev.inh then (none, c.regs.loop) else loopEnd c.ctl.pc c.regs.loop

theorem fallThrough_of_no_backEdge {s : State} {stack : List LoopEntry} (h : endTests (me s) = (none, stack)) (stall wait : Nat) :
    fallThrough s stall wait = goesTo s ((me s).ctl.pc + 1) ((me s).now + 1 + stall + wait) stack := by
  rw [← curCore_eq_me, endTests] at h
  simp only [fallThrough, h]
  rfl

theorem fallThrough_of_backEdge {s : State} {first : Nat} {stack : List LoopEntry} (h : endTests (me s) = (some first, stack))
    (stall wait : Nat) : fallThrough s stall wait = goesTo s first ((me s).now + 1 + stall) stack := by
  rw [← curCore_eq_me, endTests] at h
  simp only [fallThrough, h]
  rfl

theorem endTests_of_no_end {c : Core} {e : LoopEntry} {es : List LoopEntry}
    (h : c.regs.loop = [] ∨ c.dev.inh = true ∨ (c.regs.loop = e :: es ∧ e.last ≠ c.ctl.pc)) :
    endTests c = (none, c.regs.loop) := by
  rcases h with h | h | ⟨h, hlast⟩
  · simp [endTests, h, loopEnd]
  · simp [endTests, h]
  · simp [endTests, h, loopEnd, hlast]

theorem endTests_of_back {c : Core} {e : LoopEntry} {es : List LoopEntry} (hinh : c.dev.inh = false) (h : c.regs.loop = e :: es)
    (hlast : e.last = c.ctl.pc) (hcount : 1 < e.count) :
    endTests c = (some e.first, { e with count := e.count - 1 } :: es) := by
  simp [endTests, hinh, h, loopEnd, hlast, hcount]

/-- A loop with its last count is popped, and the test goes on. -/
theorem endTests_of_last_count {c : Core} {e : LoopEntry} {es : List LoopEntry} (hinh : c.dev.inh = false) (h : c.regs.loop = e :: es)
    (hlast : e.last = c.ctl.pc) (hcount : e.count ≤ 1) :
    endTests c = endTests { c with regs := { c.regs with loop := es } } := by
  simp [endTests, hinh, h, loopEnd, hlast, Nat.not_lt.2 hcount]

/-- The next bundle depends on a state only by its issuing core's end tests, place and cycle. -/
theorem fallThrough_goes_alike {s t : State} (htests : endTests (me s) = endTests (me t)) (hpc : (me s).ctl.pc = (me t).ctl.pc)
    (hnow : (me s).now = (me t).now) (stall wait : Nat) :
    ∃ target eligible stack, fallThrough s stall wait = goesTo s target eligible stack ∧
      fallThrough t stall wait = goesTo t target eligible stack := by
  rcases h : endTests (me s) with ⟨_ | first, stack⟩
  · refine ⟨_, _, _, fallThrough_of_no_backEdge h stall wait, ?_⟩
    rw [hpc, hnow]
    exact fallThrough_of_no_backEdge (htests ▸ h) stall wait
  · refine ⟨_, _, _, fallThrough_of_backEdge h stall wait, ?_⟩
    rw [hnow]
    exact fallThrough_of_backEdge (htests ▸ h) stall wait

theorem loopEndsAreTested : Claims.LoopEndsAreTested := by
  intro s stall wait e es c
  refine ⟨fun h => fallThrough_of_no_backEdge (endTests_of_no_end h) stall wait,
    fun hinh hloop hlast hcount => fallThrough_of_backEdge (endTests_of_back hinh hloop hlast hcount) stall wait,
    fun hinh hloop hlast hcount => ?_⟩
  refine fallThrough_goes_alike ?_ ?_ ?_ stall wait
  · rw [me_meIs]
    exact endTests_of_last_count hinh hloop hlast hcount
  · rw [me_meIs]
  · rw [me_meIs]

/-! ## Loops, waits and ends (R98 to R101, R106, R107) -/

/-- A control word that is legal where its core stands acts after the exchange of shape copies. -/
theorem ctlGuard_of_legal {s : State} {i : Instr} (h : ctlIllegal (me s) i = false) (w : BitVec 3) (f : State → State) :
    ctlGuard s i w f = .next (f (swapShapes s w)) :=
  if_neg (by rw [curCore_eq_me, h]; exact Bool.false_ne_true)

theorem loopOk_of_room {c : Core} {len : Nat} (hlen : c.ctl.pc + len ≤ 4095)
    (hroom : c.regs.loop.length < 4 ∧ c.dev.inh = false ∧ c.regs.loop.head?.map (fun e => e.last) ≠ some c.ctl.pc) :
    loopOk c len = true := by
  obtain ⟨hdepth, hinh, hend⟩ := hroom
  cases h : c.regs.loop with
  | nil => simp [loopOk, hlen, hinh, h]
  | cons e es =>
    rw [h] at hend
    rw [h, List.length_cons] at hdepth
    have hlast : e.last ≠ c.ctl.pc := fun he => hend (congrArg some he)
    simp [loopOk, hlen, hinh, h, hdepth, hlast]

section
variable {s : State} (st : BitVec 4) (w : BitVec 3)

theorem exec_loop_of_count {xs : BitVec 5} {len : BitVec 12} (hok : loopOk (me s) len.toNat = true) (hcount : (x s xs).toNat ≠ 0) :
    exec (.loop st w xs len) s = .next (fallThrough
      (pushed (swapShapes s w) ⟨(me s).ctl.pc + 1, (me s).ctl.pc + len.toNat, (x s xs).toNat⟩) st.toNat 0) := by
  change execLoop st w xs len s = _
  rw [execLoop, ctlGuard_of_legal (by simp [ctlIllegal, hok])]
  simp only [rx_eq_x, x_swapShapes, if_neg hcount, curCore_eq_me, me_swapShapes_ctl]
  rfl

theorem exec_loop_of_zero {xs : BitVec 5} {len : BitVec 12} (hok : loopOk (me s) len.toNat = true) (hcount : (x s xs).toNat = 0) :
    exec (.loop st w xs len) s = .next (goesTo (swapShapes s w) ((me s).ctl.pc + len.toNat + 1) ((me s).now + 2 + st.toNat)
      (me s).regs.loop) := by
  change execLoop st w xs len s = _
  rw [execLoop, ctlGuard_of_legal (by simp [ctlIllegal, hok])]
  simp only [rx_eq_x, x_swapShapes, if_pos hcount, curCore_eq_me]
  rw [← me_swapShapes_ctl s w, ← me_swapShapes_now s w, ← me_swapShapes_loop s w]
  rfl

theorem exec_loopi_of_ok {n : BitVec 12} {l : BitVec 9} (hok : loopOk (me s) l.toNat = true) :
    exec (.loopi st w n l) s = .next (fallThrough
      (pushed (swapShapes s w) ⟨(me s).ctl.pc + 1, (me s).ctl.pc + l.toNat, n.toNat⟩) st.toNat 0) := by
  change execLoopi st w n l s = _
  rw [execLoopi, ctlGuard_of_legal (by simp [ctlIllegal, hok]), ← me_swapShapes_ctl s w]
  rfl

theorem regionReady_iff {c : Core} {t : Task} (ht : c.task = some t) (region : Nat) :
    regionReady c region = true ↔ spFind c.imem.tags region = some t.codeTag := by
  cases h : spFind c.imem.tags region <;> simp [regionReady, h, ht]

theorem exec_iwait_of_ready {t : Task} (ht : (me s).task = some t) {g : BitVec 12}
    (h : spFind (me s).imem.tags g.toNat = some t.codeTag) :
    exec (.iwait st w g) s = .next (fallThrough (swapShapes s w) st.toNat 0) := if_pos ((regionReady_iff ht _).2 h)

theorem exec_iwait_of_not_ready {t : Task} (ht : (me s).task = some t) {g : BitVec 12}
    (h : spFind (me s).imem.tags g.toNat ≠ some t.codeTag) :
    exec (.iwait st w g) s = .next (slotHold s) := if_neg (fun hr => h ((regionReady_iff ht _).1 hr))

/-- The state in which the issuing core, its shape copies exchanged, has ended its task (R99, R106). -/
def endedTask (s : State) (w : BitVec 3) (halt : Bool) : State :=
  let s1 := swapShapes s w
  meIs s1 { me s1 with
    regs := { (me s1).regs with loop := [] }
    task := (me s).task.map (fun t => { t with phase := .ending halt })
    ctl := { (me s).ctl with pc := (me s).ctl.pc + 1, eligible := (me s).now + 1 } }

theorem endTask_swapShapes (halt : Bool) : endTask (swapShapes s w) halt = endedTask s w halt := by
  rw [endedTask, ← me_swapShapes_task s w, ← me_swapShapes_ctl s w, ← me_swapShapes_now s w]
  rfl

theorem mode_of_task {c : Core} {t : Task} (ht : c.task = some t) : c.mode = t.mode := by simp [Core.mode, ht]

theorem exec_done_of_task {t : Task} (hinh : (me s).dev.inh = false) (ht : (me s).task = some t) :
    exec (.done st w) s = .next (endedTask s w (t.mode == 2)) := by
  change execDone st w s = _
  rw [execDone, ctlGuard_of_legal (by simp [ctlIllegal, hinh]), ← endTask_swapShapes,
    ← mode_of_task ((me_swapShapes_task s w).trans ht)]
  rfl

theorem exec_halt_of_persistent {t : Task} (hinh : (me s).dev.inh = false) (ht : (me s).task = some t) (hmode : t.mode = 2) :
    exec (.halt st w) s = .next (endedTask s w true) := by
  change execHalt st w s = _
  rw [execHalt, ctlGuard_of_legal (by simp [ctlIllegal, hinh, mode_of_task ht, hmode]), endTask_swapShapes]

end

theorem loopsWaitsAndEnds : Claims.LoopsWaitsAndEnds := by
  intro s st w xs len n l cyc g t s1 c pc room done
  exact ⟨fun hlen hroom hcount => exec_loop_of_count st w (loopOk_of_room hlen hroom) hcount,
    fun hlen hroom hcount => exec_loop_of_zero st w (loopOk_of_room hlen hroom) hcount,
    fun hlen hroom => exec_loopi_of_ok st w (loopOk_of_room hlen hroom), rfl, fun ht h => exec_iwait_of_ready st w ht h,
    fun ht h => exec_iwait_of_not_ready st w ht h, fun hinh ht => exec_done_of_task st w hinh ht,
    fun hinh ht hmode => exec_halt_of_persistent st w hinh ht hmode⟩

/-- Settles O20: the end tests by the outcome of the loop stack, the control words by their guard and the exchange of shape copies. -/
theorem loopsAndEnds : Obligations.LoopsAndEnds := ⟨loopEndsAreTested, loopsWaitsAndEnds⟩

/-! ## Traps and their return (R102 to R104, R312) -/

theorem me_fallThrough (s : State) (stall wait : Nat) :
    (me (fallThrough s stall wait)).dev = (me s).dev ∧ (me (fallThrough s stall wait)).now = (me s).now ∧
      (fallThrough s stall wait).issue = s.issue := by
  rcases h : endTests (me s) with ⟨_ | first, stack⟩
  · rw [fallThrough_of_no_backEdge h, goesTo, me_meIs]; exact ⟨rfl, rfl, rfl⟩
  · rw [fallThrough_of_backEdge h, goesTo, me_meIs]; exact ⟨rfl, rfl, rfl⟩

theorem takeTrap_of_handler {s : State} {n : Nat} {cause : Cause} (hcause : cause.toHandler = true)
    (hen : (getCore s n).dev.tvec.getLsbD 12 = true) (hinh : (getCore s n).dev.inh = false) (mask bundle addr resume : Nat) :
    takeTrap s n cause mask bundle addr resume = handlerTrap s n cause mask bundle addr resume :=
  if_pos ⟨hcause, by rw [Dev.vecEnabled, bitAt_toNat, hen], by rw [hinh]; rfl⟩

theorem takeTrap_of_stage {s : State} {n : Nat} {cause : Cause}
    (h : cause.toHandler = false ∨ (getCore s n).dev.inh = true ∨ (getCore s n).dev.tvec.getLsbD 12 = false)
    (mask bundle addr resume : Nat) :
    takeTrap s n cause mask bundle addr resume = stageTrap s n cause mask bundle addr := by
  refine if_neg fun ⟨hcause, hen, hinh⟩ => ?_
  rw [Dev.vecEnabled, bitAt_toNat] at hen
  rcases h with h | h | h
  · rw [h] at hcause; exact Bool.false_ne_true hcause
  · rw [h] at hinh; exact Bool.false_ne_true hinh
  · rw [h] at hen; exact Bool.false_ne_true hen

/-- A handler takes SCOREBOARD, BREAK and SWTRAP (R103). -/
theorem toHandler_eq_false_iff (cause : Cause) :
    cause.toHandler = false ↔ cause ≠ .scoreboard ∧ cause ≠ .brk ∧ cause ≠ .swtrap := by
  cases cause <;> decide

section
variable {s : State} {w : BitVec 3} {stall : Nat} {cause : Cause}

/-- A software trap after its exchange of shape copies, delivered to the handler. -/
theorem softwareTrap_of_handler (hcause : cause.toHandler = true) (hen : (me s).dev.tvec.getLsbD 12 = true)
    (hinh : (me s).dev.inh = false) (code : Nat) :
    let t := fallThrough (swapShapes s w) stall 0
    softwareTrap (swapShapes s w) cause stall code = meIs t { me t with
      dev := { trapRegisters (me s).dev cause 1 (me s).ctl.pc code with inh := true }
      ctl := { (me t).ctl with pc := (me s).dev.tvec.toNat % 4096, eligible := (me s).now + 2, resume := (me t).ctl.pc } } := by
  intro t
  obtain ⟨hdev, hnow, -⟩ := me_fallThrough (swapShapes s w) stall 0
  have hdev' : (me t).dev = (me s).dev := hdev.trans (me_swapShapes_dev s w)
  have hnow' : (me t).now = (me s).now := hnow.trans (me_swapShapes_now s w)
  have hvec : (me s).dev.tvec.toNat % 4096 = field (me t).dev.tvec.toNat 0 12 := by simp [hdev', field]
  rw [hvec, ← hdev', ← hnow', ← me_swapShapes_ctl s w]
  refine takeTrap_of_handler hcause ?_ ?_ 1 _ code _
  · exact (congrArg (fun d => d.tvec.getLsbD 12) hdev').trans hen
  · exact (congrArg Dev.inh hdev').trans hinh

/-- A software trap that no handler takes goes to the stage manager. -/
theorem softwareTrap_of_stage (h : (me s).dev.tvec.getLsbD 12 = false ∨ (me s).dev.inh = true) (code : Nat) :
    softwareTrap (swapShapes s w) cause stall code =
      stageTrap (fallThrough (swapShapes s w) stall 0) s.issue.core cause 1 (me s).ctl.pc code := by
  obtain ⟨hdev, -, hissue⟩ := me_fallThrough (swapShapes s w) stall 0
  rw [swapShapes_issue] at hissue
  rw [me_swapShapes_dev] at hdev
  rw [← hdev, or_comm] at h
  rw [← me_swapShapes_ctl s w, ← hissue]
  exact takeTrap_of_stage (.inr h) 1 _ code _

end

theorem exec_eret_of_handler {s : State} (hinh : (me s).dev.inh = true) (st : BitVec 4) (w : BitVec 3) :
    let s1 := swapShapes s w
    exec (.eret st w) s = .next (meIs s1 { me s1 with
      dev := { (me s).dev with inh := false }
      ctl := { (me s).ctl with pc := (me s).ctl.resume, eligible := (me s).now + 2 + st.toNat } }) := by
  intro s1
  change execEret st w s = _
  rw [execEret, ctlGuard_of_legal (by simp [ctlIllegal, hinh]), ← me_swapShapes_dev s w, ← me_swapShapes_ctl s w,
    ← me_swapShapes_now s w]
  rfl

theorem exec_trap_of_legal {s : State} (hpc : (me s).ctl.pc ≠ 4095) (st : BitVec 4) (w : BitVec 3) (code : BitVec 16) :
    exec (.trap st w code) s = .next (softwareTrap (swapShapes s w) .swtrap st.toNat code.toNat) := by
  change execTrap st w code s = _
  rw [execTrap, ctlGuard_of_legal (by simp [ctlIllegal, hpc])]

theorem exec_brk_of_legal {s : State} (hpc : (me s).ctl.pc ≠ 4095) (st : BitVec 4) (w : BitVec 3) (code : BitVec 16) :
    exec (.brk st w code) s = .next (softwareTrap (swapShapes s w) .brk st.toNat code.toNat) := by
  change execBrk st w code s = _
  rw [execBrk, ctlGuard_of_legal (by simp [ctlIllegal, hpc])]

theorem softwareTrapEntersItsHandler : Claims.SoftwareTrapEntersItsHandler := by
  intro s st w code c s1 t delivered
  refine ⟨fun hpc hen hinh => ?_, fun hpc h => ?_, fun hinh => exec_eret_of_handler hinh st w⟩
  · rw [exec_trap_of_legal hpc, exec_brk_of_legal hpc, softwareTrap_of_handler rfl hen hinh, softwareTrap_of_handler rfl hen hinh]
    exact ⟨rfl, rfl⟩
  · rw [exec_trap_of_legal hpc, exec_brk_of_legal hpc, softwareTrap_of_stage h, softwareTrap_of_stage h]
    exact ⟨rfl, rfl⟩

/-- The stage manager aborts the launch for a cause that no page or memory repair answers, unless the debugger takes it. -/
theorem stageTrap_of_abort {s : State} {n k : Nat} {cause : Cause} {t : Task} {ctx : Ctx} (hctx : (getCore s n).ctx = some k)
    (htask : (getCore s n).task = some t) (hget : getCtx s k = some ctx) (hpage : cause ≠ .translate) (hmem : cause ≠ .eccUncorr)
    (hdbg : ctx.debugger = false ∨ cause.toHandler = false) (mask bundle addr : Nat) :
    let c := getCore s n
    let s1 := setCore s n { c with status := .trapped, dev := trapRegisters c.dev cause mask bundle addr }
    stageTrap s n cause mask bundle addr =
      abortLaunch (post s1 (.fault k t.launch c.logical cause.code mask bundle addr)) k t.launch cause := by
  intro c s1
  have hget' : ∀ e, getCtx (post s1 e) k = some ctx := fun e => by rw [getCtx, post_ctxs]; exact hget
  have hnot : ¬ (cause.toHandler = true ∧ ctx.debugger = true) := by
    rcases hdbg with h | h <;> simp [h]
  have hcore : getCore s1 n = { c with status := .trapped, dev := trapRegisters c.dev cause mask bundle addr } :=
    getCore_setCore_self s n _
  have hs1 : modCore s n (fun c => { c with status := .trapped, dev := c.dev.trapped cause mask bundle addr }) = s1 := rfl
  simp only [stageTrap, hs1, hcore, show c.ctx = some k from hctx, show c.task = some t from htask, hget', if_neg hnot]

theorem stageManagerTakesTheTrap : Claims.StageManagerTakesTheTrap := by
  intro s n mask bundle addr resume k cause t ctx c s1 hctx htask hget hwhere
  rw [← toHandler_eq_false_iff] at hwhere ⊢
  exact ⟨takeTrap_of_stage hwhere mask bundle addr resume,
    fun hpage hmem hdbg => stageTrap_of_abort hctx htask hget hpage hmem hdbg mask bundle addr⟩

/-- Settles O21: a software trap after its next bundle is chosen, and every trap by whether a handler takes it. -/
theorem trapsAreTaken : Obligations.TrapsAreTaken := ⟨softwareTrapEntersItsHandler, stageManagerTakesTheTrap⟩

end Sys2Proof.Machine
end

section
/-!
PROOFS. The element-wise instructions of the vector slots (R118, R122 to R127, R137): each shared operation in the words of the
statements, and what differs between a word and its statement.
-/
namespace Sys2Proof.Machine
open Sys2Proof.Claims

/-! ## Integer results (R122) -/

theorem natCast_two_pow (n : Nat) : ((2 ^ n : Nat) : Int) = 2 ^ n := Int.natCast_pow 2 n

theorem intElem_eq_value (size : Nat) (u : BitVec 1) (v : Nat) : intElem size (u == 1) v = value size u v := by
  rw [value, ← intElem_false, intElem, intElem]
  by_cases hu : u = 1 <;> simp [hu]

/-- The two's complement difference of two elements, as the slot forms it below 2 ^ w. -/
theorem sub_mod_eq_wrap {size a c : Nat} (hc : c < 2 ^ (8 * size)) :
    (a + 2 ^ (8 * size) - c) % 2 ^ (8 * size) = wrap size ((a : Int) - c) := by
  have hdiff : (a : Int) - c + (2 ^ (8 * size) : Nat) = (a + 2 ^ (8 * size) - c : Nat) := by omega
  rw [wrap, BitVec.toNat_ofInt, ← Int.add_emod_right, hdiff, ← Int.natCast_emod, Int.toNat_natCast]

/-- The smaller and larger bound of saturation may be tried in either order. -/
theorem clampInt_eq_max_min {lo hi : Int} (h : lo ≤ hi) (z : Int) : clampInt lo hi z = max lo (min hi z) := by
  unfold clampInt
  split
  · omega
  · split <;> omega

/-- The least integer of w bits, unsigned when U (R122). -/
def leastInt (w : Nat) (u : BitVec 1) : Int := if u = 1 then 0 else -(2 ^ (w - 1))

/-- The largest integer of w bits, unsigned when U (R122). -/
def greatestInt (w : Nat) (u : BitVec 1) : Int := if u = 1 then 2 ^ w - 1 else 2 ^ (w - 1) - 1

theorem intRange_eq (w : Nat) (u : BitVec 1) : intRange w (u != 1) = (leastInt w u, greatestInt w u) := by
  simp only [intRange, leastInt, greatestInt, bne_iff_ne, ne_eq, ite_not, natCast_two_pow]
  split <;> rfl

theorem leastInt_le_greatestInt (w : Nat) (u : BitVec 1) : leastInt w u ≤ greatestInt w u := by
  have hpos : ∀ n : Nat, (1 : Int) ≤ 2 ^ n := fun n => Int.add_one_le_of_lt (Int.pow_pos (by decide))
  have := hpos w
  have := hpos (w - 1)
  unfold leastInt greatestInt
  split <;> omega

/-- Results that agree in the bits of an element merge alike. -/
theorem mergesNat_congr {s : State} {out : Out} {size : Nat} {d : BitVec 4} {p : Pred} {latency : Nat} {f g : Nat → Nat}
    (h : mergesNat s out size d p latency f) (hfg : ∀ i, f i % 2 ^ (8 * size) = g i % 2 ^ (8 * size)) :
    mergesNat s out size d p latency g := by
  obtain ⟨v, bytes, hout, hel, hbytes⟩ := h
  exact ⟨v, bytes, hout, fun i hi hon => (hel i hi hon).trans (hfg i), hbytes⟩

section
variable (s : State) (t p : BitVec 3) (d vs vt : BitVec 4)

theorem mergesNat_integerOp (f : Nat → Nat → Nat → Nat → Nat) :
    let size := typeSize t.toNat
    mergesNat s (integerOp s t d vs vt p f) size d (pred s p) 2
      (fun i => f (8 * size) (elem (vec s vs) size i) (elem (vec s vt) size i) (elem (vec s d) size i)) := by
  simp only [← rv_eq_vec]
  exact merges_elementwise s (typeSize_dvd _) d p 2 _

theorem mergesNat_signedOp (u : BitVec 1) (f : Nat → Int → Int → Int) :
    let size := typeSize t.toNat
    mergesNat s (signedOp s t d vs vt p u f) size d (pred s p) 2
      (fun i => wrap size (f (8 * size) (value size u (elem (vec s vs) size i)) (value size u (elem (vec s vt) size i)))) := by
  simp only [← rv_eq_vec, ← intElem_eq_value, wrap, ← ofSigned_eq_ofInt]
  exact merges_elementwise s (typeSize_dvd _) d p 2 _

theorem mergesNat_shiftOp (k : BitVec 1) (amt : BitVec 5) (f : Nat → Nat → Nat → Nat) :
    let size := typeSize t.toNat
    mergesNat s (shiftOp s t d vs vt p k amt f) size d (pred s p) 2
      (fun i => f (8 * size) (elem (vec s vs) size i) (if k = 1 then amt.toNat else elem (vec s vt) size i % (8 * size))) := by
  simp only [← rv_eq_vec]
  exact merges_elementwise s (typeSize_dvd _) d p 2 _

theorem mergesNat_vsub :
    let size := typeSize t.toNat
    mergesNat s (exec (.vsub t d vs vt p) s) size d (pred s p) 2
      (fun i => wrap size ((elem (vec s vs) size i : Int) - elem (vec s vt) size i)) :=
  mergesNat_congr (mergesNat_integerOp s t p d vs vt (fun w a b _ => a + 2 ^ w - b)) fun i => by
    rw [sub_mod_eq_wrap (elem_lt ..)]
    exact (Nat.mod_eq_of_lt (BitVec.isLt _)).symm

theorem mergesNat_vmulh (u : BitVec 1) :
    let size := typeSize t.toNat
    mergesNat s (exec (.vmulh t d vs vt p u) s) size d (pred s p) 2 (fun i =>
      wrap size (value size u (elem (vec s vs) size i) * value size u (elem (vec s vt) size i) / 2 ^ (8 * size))) :=
  mergesNat_congr (mergesNat_signedOp s t p d vs vt u (fun w a b => a * b / ((2 ^ w : Nat) : Int))) fun i => by
    rw [natCast_two_pow]

theorem mergesNat_vsra (k : BitVec 1) (amt : BitVec 5) :
    let size := typeSize t.toNat
    mergesNat s (exec (.vsra t d vs vt p k amt) s) size d (pred s p) 2 (fun i =>
      wrap size (signed size (elem (vec s vs) size i) / 2 ^ (if k = 1 then amt.toNat else elem (vec s vt) size i % (8 * size)))) :=
  mergesNat_congr (mergesNat_shiftOp s t p d vs vt k amt (fun w a n => ofSigned w (toSigned w a / ((2 ^ n : Nat) : Int)))) fun i => by
    rw [ofSigned_eq_ofInt, toSigned_eq_toInt, natCast_two_pow, wrap, signed]

theorem mergesNat_vabs :
    let size := typeSize t.toNat
    mergesNat s (exec (.vabs t d vs p) s) size d (pred s p) 2
      (fun i => min (signed size (elem (vec s vs) size i)).natAbs (2 ^ (8 * size - 1) - 1)) := by
  simp only [signed, ← toSigned_eq_toInt, ← rv_eq_vec]
  exact merges_elementwise s (typeSize_dvd _) d p 2 _

theorem mergesNat_vadds (b u : BitVec 1) :
    let size := typeSize t.toNat
    let sum := fun i =>
      if b = 1 then value size u (elem (vec s vs) size i) - value size u (elem (vec s vt) size i)
      else value size u (elem (vec s vs) size i) + value size u (elem (vec s vt) size i)
    mergesNat s (exec (.vadds t d vs vt p b u) s) size d (pred s p) 2
      (fun i => wrap size (max (leastInt (8 * size) u) (min (greatestInt (8 * size) u) (sum i)))) :=
  mergesNat_congr (mergesNat_signedOp s t p d vs vt u (fun w a c =>
    clampInt (intRange w (u != 1)).1 (intRange w (u != 1)).2 (if b = 1 then a - c else a + c))) fun i => by
    rw [intRange_eq, clampInt_eq_max_min (leastInt_le_greatestInt ..)]

end

/-- Settles O27: each word is one of three shared operations, whose results agree with the stated ones in the bits of an element. -/
theorem vectorIntegerResults : Obligations.VectorIntegerResults := by
  intro s t d vs vt p u b k amt _ size w a c old sa sc by' lo hi sum gives
  exact ⟨mergesNat_integerOp s t p d vs vt (fun _ a b _ => a + b), mergesNat_vsub s t p d vs vt,
    mergesNat_integerOp s t p d vs vt (fun _ a b _ => a * b), mergesNat_vmulh s t p d vs vt u,
    mergesNat_integerOp s t p d vs vt (fun _ a b c => c + a * b), mergesNat_integerOp s t p d vs vt (fun _ a b _ => a &&& b),
    mergesNat_integerOp s t p d vs vt (fun _ a b _ => a ||| b), mergesNat_integerOp s t p d vs vt (fun _ a b _ => a ^^^ b),
    mergesNat_shiftOp s t p d vs vt k amt (fun _ a n => a * 2 ^ n), mergesNat_shiftOp s t p d vs vt k amt (fun _ a n => a / 2 ^ n),
    mergesNat_vsra s t p d vs vt k amt, mergesNat_signedOp s t p d vs vt u (fun _ a b => min a b),
    mergesNat_signedOp s t p d vs vt u (fun _ a b => max a b), mergesNat_vabs s t p d vs, mergesNat_vadds s t p d vs vt b u⟩

/-! ## Floating results (R123, R137) -/

section
variable (s : State) (t p : BitVec 3) (d vs vt : BitVec 4)

theorem merges_floatOp (f : Val → Val → Val → WithFlags Val) :
    let size := typeSize t.toNat
    let g := typeFloat t.toNat
    merges s (floatOp s t d vs vt p f) size d (pred s p) 4 (fun i => roundRne g
      (f (decodeFloat g (elem (vec s vs) size i)) (decodeFloat g (elem (vec s vt) size i)) (decodeFloat g (elem (vec s d) size i)))) := by
  simp only [← rv_eq_vec]
  exact merges_elementwise s (typeSize_dvd _) d p 4 _

theorem merges_vfsgn (m : BitVec 2) :
    let size := typeSize t.toNat
    merges s (exec (.vfsgn t d vs vt p m) s) size d (pred s p) 4
      (fun i => (signElem (typeFloat t.toNat) m.toNat (elem (vec s vs) size i) (elem (vec s vt) size i), 0)) := by
  simp only [← rv_eq_vec]
  exact merges_elementwise s (typeSize_dvd _) d p 4 _

theorem merges_specialOp (fn : SpecialFn) :
    let size := typeSize t.toNat
    merges s (specialOp s fn t d vs p) size d (pred s p) 12
      (fun i => specialElem fn (typeFloat t.toNat) (elem (vec s vs) size i)) := by
  simp only [← rv_eq_vec]
  exact merges_elementwise s (typeSize_dvd _) d p 12 _

end

/-- Settles O28: each word is the floating or the special operation at its function, the sign move apart. -/
theorem vectorFloatResults : Obligations.VectorFloatResults := by
  intro s t d vs vt p m _ size g bits bitsT a c old gives
  exact ⟨merges_floatOp s t p d vs vt (fun a b _ => addVal a b), merges_floatOp s t p d vs vt (fun a b _ => addVal a b.negate),
    merges_floatOp s t p d vs vt (fun a b _ => mulVal a b), merges_floatOp s t p d vs vt (fun a b c => fmaVal a b c),
    merges_floatOp s t p d vs vt (fun a b c => fmaVal a b c.negate), merges_floatOp s t p d vs vt (fun a b _ => (minVal a b, 0)),
    merges_floatOp s t p d vs vt (fun a b _ => (maxVal a b, 0)), merges_vfsgn s t p d vs vt m, merges_specialOp s t p d vs .exp2,
    merges_specialOp s t p d vs .log2, merges_specialOp s t p d vs .rcp, merges_specialOp s t p d vs .rsqrt,
    merges_specialOp s t p d vs .sqrt, merges_specialOp s t p d vs .tanh, merges_specialOp s t p d vs .erf⟩

/-! ## Compares (R124) -/

/-- The outcome of each of the six conditions of an integer compare (R124). -/
theorem intCond_iff {c : BitVec 3} (hc : c.toNat ≤ 5) (a b : Int) :
    intCond c.toNat a b = true ↔ (c = 0 ∧ a = b) ∨ (c = 1 ∧ a ≠ b) ∨ (c = 2 ∧ a < b) ∨ (c = 3 ∧ a ≤ b) ∨ (c = 4 ∧ b < a) ∨
      (c = 5 ∧ b ≤ a) := by
  have hcases : ∀ c : BitVec 3, c.toNat ≤ 5 → c = 0 ∨ c = 1 ∨ c = 2 ∨ c = 3 ∨ c = 4 ∨ c = 5 := by decide
  rcases hcases c hc with rfl | rfl | rfl | rfl | rfl | rfl <;> simp [intCond]

theorem compareElem_of_int {t : Nat} (ht : t ≤ 2) (u : BitVec 1) (c a b : Nat) :
    compareElem t (u == 1) c a b = intCond c (value (typeSize t) u a) (value (typeSize t) u b) := by
  have hkind : typeIsFloat t = false := decide_eq_false (by omega)
  simp only [compareElem, hkind, Bool.false_eq_true, if_false, intElem_eq_value]

theorem compareElem_of_float {t : Nat} (ht : 3 ≤ t) (u : Bool) (c a b : Nat) :
    compareElem t u c a b = floatCond c (decodeFloat (typeFloat t) a) (decodeFloat (typeFloat t) b) :=
  if_pos (decide_eq_true ht)

/-- VCMP's predicate holds at a byte the outcome of its element, and 0 where that is disabled (R124). -/
theorem exec_vcmp (s : State) (t d p : BitVec 3) (vs vt : BitVec 4) (u : BitVec 1) (c : BitVec 3) :
    let size := typeSize t.toNat
    ∃ q, exec (.vcmp t d vs vt p u c) s = .next (toP s d 4 q) ∧ ∀ j, j < 256 →
      q.getLsbD j = ((pred s p).getLsbD (j / size * size) &&
        compareElem t.toNat (u == 1) c.toNat (elem (vec s vs) size (j / size)) (elem (vec s vt) size (j / size))) := by
  refine ⟨_, congrArg Host.Outcome.next (postP_eq_toP s d 4 _), fun j hj => ?_⟩
  rw [getLsbD_byteMask_elemCount (typeSize_dvd _) _ hj, enabled_eq_getLsbD, rp_eq_pred, rv_eq_vec, rv_eq_vec]

/-! ## Select (R125) -/

theorem testBit_elem (v : Vec) (size i j : Nat) :
    (elem v size i).testBit j = (decide (j < 8 * size) && v.getLsbD (j + 8 * size * i)) := by
  rw [elem, field, Nat.testBit_mod_two_pow, Nat.testBit_div_two_pow, BitVec.getLsbD]

/-- A bit of an expanded mask is that of its byte. -/
theorem getLsbD_expandMask (m : Pred) {j : Nat} (hj : j < 2048) : (expandMask m).getLsbD j = m.getLsbD (j / 8) := by
  have h255 : ∀ i, i < 8 → Nat.testBit 255 i = true := by decide
  rw [expandMask, BitVec.getLsbD_ofNat, testBit_packElems (by decide), bitAt_toNat]
  cases m.getLsbD (j / 8) <;> simp [hj, h255 _ (Nat.mod_lt j (by decide : 8 > 0)), show j / 8 < 256 by omega]

theorem getLsbD_mergeBytes (m : Pred) (new old : Vec) {j : Nat} (hj : j < 2048) :
    (mergeBytes m new old).getLsbD j = if m.getLsbD (j / 8) then new.getLsbD j else old.getLsbD j := by
  rw [mergeBytes, BitVec.getLsbD_or, BitVec.getLsbD_and, BitVec.getLsbD_and, BitVec.getLsbD_not, getLsbD_expandMask m hj]
  cases m.getLsbD (j / 8) <;> simp [hj]

/-- Under the byte enables of a predicate an element comes whole from the one register or the other. -/
theorem elem_mergeBytes_enableMask {size i : Nat} (h : size ∣ 256) (hi : i < 256 / size) (p : Pred) (new old : Vec) :
    elem (mergeBytes (enableMask p size) new old) size i =
      if p.getLsbD (i * size) then elem new size i else elem old size i := by
  refine Nat.eq_of_testBit_eq fun j => ?_
  by_cases hj : j < 8 * size
  · have hfit := mul_succ_le_of_lt (mul_count_le size) hi
    rw [Nat.mul_succ] at hfit
    have hbyte : (j + 8 * size * i) / 8 = j / 8 + size * i := by rw [Nat.mul_assoc, Nat.add_mul_div_left _ _ (by decide)]
    have helem : (j / 8 + size * i) / size = i := by
      rw [Nat.add_mul_div_left _ _ (Nat.pos_of_dvd_of_pos h (by decide)), Nat.div_eq_of_lt (by omega), Nat.zero_add]
    have hplace : j + 8 * size * i < 2048 := by rw [Nat.mul_assoc]; omega
    rw [testBit_elem, getLsbD_mergeBytes _ _ _ hplace, hbyte, getLsbD_enableMask h _ (by omega), helem]
    split <;> rw [testBit_elem]
  · split <;> simp [testBit_elem, hj]

theorem writesAll_vsel (s : State) (t p : BitVec 3) (d vs vt : BitVec 4) :
    let size := typeSize t.toNat
    writesAll s (exec (.vsel t d vs vt p) s) size d 4
      (fun i => (if (pred s p).getLsbD (i * size) then elem (vec s vs) size i else elem (vec s vt) size i, 0)) := by
  refine ⟨mergeBytes (enableMask (pred s p) (typeSize t.toNat)) (vec s vs) (vec s vt), ?_, fun i hi => ?_⟩
  · rw [flagsOver_zero, ← allBytes_eq_allOnes, ← rp_eq_pred, ← rv_eq_vec, ← rv_eq_vec]
    rfl
  · exact (Nat.mod_eq_of_lt (elem_lt ..)).symm.trans
      (congrArg (· % 2 ^ (8 * typeSize t.toNat)) (elem_mergeBytes_enableMask (typeSize_dvd _) hi _ _ _))

/-! ## Moves (R126) -/

theorem moveLatency_eq (t : Nat) : moveLatency t = if t ≤ 2 then 2 else 4 := by
  unfold moveLatency typeIsFloat
  by_cases ht : 3 ≤ t
  · rw [if_pos (decide_eq_true ht), if_neg (by omega)]
  · rw [if_neg (by simpa using ht), if_pos (by omega)]

/-- A register of the other cluster, at the offset that the statements write out. -/
theorem readV_otherCluster (s : State) (r : BitVec 4) :
    (curCore s).regs.readV (!onB s) r.toNat = spGet 0 (me s).regs.v ((if isB s then 0 else 16) + r.toNat) := by
  change spGet 0 (me s).regs.v (16 * ofBool (!isB s) + r.toNat) = _
  cases isB s <;> rfl

section
variable (s : State) (t p : BitVec 3) (d : BitVec 4)

theorem mergesNat_vmovi (i j : BitVec 4) (k : BitVec 8) :
    mergesNat s (exec (.vmovi t d i j p k) s) (typeSize t.toNat) d (pred s p) (if t.toNat ≤ 2 then 2 else 4)
      (fun _ => moveImmediate t.toNat (4096 * i.toNat + 256 * j.toNat + k.toNat)) := by
  rw [← moveLatency_eq]
  exact merges_elementwise s (typeSize_dvd _) d p _ _

theorem mergesNat_vmovx (r : BitVec 5) :
    mergesNat s (exec (.vmovx t d p r) s) (typeSize t.toNat) d (pred s p) (if t.toNat ≤ 2 then 2 else 4)
      (fun _ => (x s r).toNat) := by
  rw [← moveLatency_eq, ← rx_eq_x]
  exact merges_elementwise s (typeSize_dvd _) d p _ _

theorem mergesNat_vmov (vs : BitVec 4) :
    mergesNat s (exec (.vmov t d vs p) s) (typeSize t.toNat) d (pred s p) (if t.toNat ≤ 2 then 2 else 4)
      (elem (vec s vs) (typeSize t.toNat)) := by
  rw [← moveLatency_eq, ← rv_eq_vec]
  exact mergesNat_copy s (typeSize_dvd _) d p _ _

theorem mergesNat_xmv (vs : BitVec 4) :
    mergesNat s (exec (.xmv t d vs p) s) (typeSize t.toNat) d (pred s p) 1
      (elem (spGet 0 (me s).regs.v ((if isB s then 0 else 16) + vs.toNat)) (typeSize t.toNat)) := by
  rw [← readV_otherCluster]
  exact mergesNat_copy s (typeSize_dvd _) d p _ _

/-! ## Permutes (R127) -/

theorem mergesNat_permute (vs vt : BitVec 4) (f : Nat → (Nat → Nat) → (Nat → Nat) → Nat → Nat) :
    let size := typeSize t.toNat
    mergesNat s (permute s t d vs vt p f) size d (pred s p) 3
      (f (256 / size) (elem (vec s vs) size) (elem (vec s vt) size)) := by
  simp only [← rv_eq_vec]
  exact merges_elementwise s (typeSize_dvd _) d p 3 _

end

theorem vectorComparesAndMoves : Claims.VectorComparesAndMoves := by
  intro s t d3 p d vs vt i4 j4 u c k8 rs size a e sa se holds on imm moveTime
  obtain ⟨q, hexec, hq⟩ := exec_vcmp s t d3 p vs vt u c
  refine ⟨⟨q, hexec, fun j hj hc => ⟨fun ht => ?_, fun ht => ?_⟩⟩, writesAll_vsel s t p d vs vt, mergesNat_vmovi s t p d i4 j4 k8,
    mergesNat_vmovx s t p d rs, mergesNat_vmov s t p d vs, mergesNat_xmv s t p d vs, rfl⟩
  · rw [hq j hj, compareElem_of_int ht, Bool.and_eq_true, intCond_iff hc]
  · rw [hq j hj, compareElem_of_float ht]

theorem vectorPermutes : Claims.VectorPermutes := by
  intro s t p d vs vt z h amt size n a e gives
  exact ⟨mergesNat_permute s t p d vs vs (fun _ a _ i => a (16 * (i / 16) + 4 * (i % 4) + i / 4 % 4)),
    mergesNat_permute s t p d vs vt (fun n a b i => if z = 1 ∧ n ≤ b i then 0 else a (b i % n)),
    mergesNat_permute s t p d vs vs (fun n a _ i => a ((i + amt.toNat) % n)),
    mergesNat_permute s t p d vs vs (fun _ a _ _ => a amt.toNat),
    mergesNat_permute s t p d vs vt (fun n a b i =>
      if i % 2 = 0 then a (h.toNat * (n / 2) + i / 2) else b (h.toNat * (n / 2) + i / 2)),
    mergesNat_permute s t p d vs vt (fun n a b i => if i < n / 2 then a (2 * i + h.toNat) else b (2 * (i - n / 2) + h.toNat))⟩

/-- Settles O29: a compare by the outcome at each element, a select by whole elements, moves and permutes by the shared operations. -/
theorem vectorComparesMovesAndPermutes : Obligations.VectorComparesMovesAndPermutes := ⟨vectorComparesAndMoves, vectorPermutes⟩

end Sys2Proof.Machine
end

section
/-!
PROOFS. The MX slot (R164 to R180): when each instruction may issue, and the queue entry that it makes.
-/
namespace Sys2Proof.Machine
open Sys2Proof.Claims

/-! ## The readiness tests in the words of the statements (R168, R180) -/

/-- No MTL stands in the queue of a unit. -/
theorem any_mtl_eq_false_iff (u : Core) : u.mx.queue.any (fun e => e.kind == .mtl) = false ↔ ∀ e ∈ u.mx.queue, e.kind ≠ .mtl := by
  simp

theorem arrayFree_iff (u : Core) : arrayFree u = true ↔ u.mx.busy ≤ u.now ∧ ∀ e ∈ u.mx.queue, e.kind ≠ .mtl := by
  rw [arrayFree, Bool.and_eq_true, decide_eq_true_eq, Bool.not_eq_true', any_mtl_eq_false_iff]

/-- The test by which the array holds an instruction on an accumulator fails exactly where the array accepts it. -/
theorem arrayAccepts_iff (s : State) (k : BitVec 2) :
    arrayAccepts s k ↔ (!arrayFree (me s) || slotInterlocked s (.acc k.toNat)) = false := by
  rw [Bool.or_eq_false_iff, Bool.not_eq_false', arrayFree_iff, and_assoc]

theorem readRingOk_iff (r : Ring) (count : Nat) : readRingOk r count = true ↔ readable r count := by
  simp [readRingOk, readable, and_assoc]

theorem activationOk_iff (m : MatrixUnit) (r : Ring) (count pl : Nat) :
    activationOk m r count pl = true ↔ readable r count ∧ mxClass r.fmt = mxClass (planeFmtAfter m pl) := by
  rw [activationOk, Bool.and_eq_true, readRingOk_iff, beq_iff_eq]

theorem writeRingOk_iff (r : Ring) (count bytes : Nat) (fmtOk : Bool) :
    writeRingOk r count bytes fmtOk = true ↔ writable r count bytes (fmtOk = true) := by
  simp [writeRingOk, writable, and_assoc]

/-- An MTL that reloads no plane, or finds the load path free and a good ring of weights, passes both tests of its load (R173). -/
theorem mtlLoad_tests_pass {reload : Bool} {u : Core} {wr : Ring} {cls : Nat}
    (h : reload = true → u.mx.loadBusy ≤ u.now ∧ readable wr 64 ∧ mxClass wr.fmt = cls) :
    (reload && decide (u.now < u.mx.loadBusy)) = false ∧ (reload && !(readRingOk wr 64 && mxClass wr.fmt == cls)) = false := by
  cases reload with
  | false => exact ⟨rfl, rfl⟩
  | true =>
    obtain ⟨hpath, hring, hcls⟩ := h rfl
    simp [hpath, (readRingOk_iff wr 64).2 hring, hcls]

/-! ## The places of claimed rows (R167) -/

theorem filledPlaces_eq_places (n : Nat) (r : Ring) (count : Nat) : filledPlaces n r count = places n r r.head count := by
  rw [filledPlaces, upTo_eq_range]; rfl

theorem freePlaces_eq_places (n : Nat) (r : Ring) (count : Nat) : freePlaces n r count = places n r r.tail count := by
  rw [freePlaces, upTo_eq_range]; rfl

/-! ## Claims and queue entries of the issuing core -/

theorem ring_me (s : State) (q : BitVec 4) : (me s).regs.ring q.toNat = ringOf s q := rfl

/-- An instruction that reads rows: the issuing core claims them and queues it. -/
theorem issueMx_claimRows (s : State) (q : BitVec 4) (count cycles : Nat) (load : Bool) (o : MxOp) :
    issueMx (claimRows s s.issue.core q.toNat count) s.issue.core cycles load o = queued (rowsClaimed s q count) cycles load o := rfl

/-- An instruction that pushes rows: the issuing core claims their slots and queues it. -/
theorem issueMx_claimFree (s : State) (q : BitVec 4) (count cycles : Nat) (load : Bool) (o : MxOp) :
    issueMx (claimFree s s.issue.core q.toNat count) s.issue.core cycles load o = queued (slotsClaimed s q count) cycles load o := rfl

/-! ## The instructions, each where nothing holds it and no check fails -/

section
variable {s : State} {c m o : BitVec 2} {q : BitVec 4} {k row : BitVec 6} {l z : BitVec 1}

theorem exec_mwl_of_ready (hpath : (me s).mx.loadBusy ≤ (me s).now) (hread : planeRead (me s).mx l.toNat = false)
    (hmtl : ∀ e ∈ (me s).mx.queue, e.kind ≠ .mtl) (hring : readable (ringOf s q) 64) (hrows : 64 ≤ (ringOf s q).filled) :
    exec (.mwl q l) s = .next (queued (rowsClaimed s q 64) 64 true
      { id := 0, kind := .mwl, ring := q.toNat, plane := l.toNat, count := 64, fmt := (ringOf s q).fmt
        slots := places s.issue.core (ringOf s q) (ringOf s q).head 64 }) := by
  have hfree : ¬ ((me s).now < (me s).mx.loadBusy ∨ planeRead (me s).mx l.toNat = true ∨
      (me s).mx.queue.any (fun e => e.kind == .mtl) = true) := by
    simp [hread, (any_mtl_eq_false_iff (me s)).2 hmtl, hpath]
  simp only [exec, execMwl, curCore_eq_me, ring_me, hfree, (readRingOk_iff _ _).2 hring, Nat.not_lt.2 hrows, Bool.not_true,
    Bool.false_eq_true, if_false, filledPlaces_eq_places, issueMx_claimRows]

/-- MMA and MMZ share their tests and their entry; only MMZ zeroes its accumulator first. -/
theorem multiply_of_ready (kind : MxKind) (hacc : arrayAccepts s c) (hring : readable (ringOf s q) (k.toNat + 1))
    (hplane : mxClass (ringOf s q).fmt = mxClass (planeFmtAfter (me s).mx l.toNat)) (hrows : k.toNat + 1 ≤ (ringOf s q).filled) :
    multiply s kind c q k l row = .next (queued (rowsClaimed s q (k.toNat + 1)) (k.toNat + 1) false
      { id := 0, kind := kind, acc := c.toNat, ring := q.toNat, plane := l.toNat, row := row.toNat, count := k.toNat + 1
        zero := kind == .mmz, fmt := (ringOf s q).fmt
        slots := places s.issue.core (ringOf s q) (ringOf s q).head (k.toNat + 1) }) := by
  simp only [multiply, curCore_eq_me, ring_me, (arrayAccepts_iff s c).1 hacc, (activationOk_iff _ _ _ _).2 ⟨hring, hplane⟩,
    Nat.not_lt.2 hrows, Bool.not_true, Bool.false_eq_true, if_false, filledPlaces_eq_places, issueMx_claimRows]

theorem exec_mtl_of_ready {f2 : Nat} {wr : Ring} (hf2 : f2 = ((me s).regs.readShape 1 m.toNat 2).toNat)
    (hwr : wr = (me s).regs.ring (field f2 12 4)) (hacc : arrayAccepts s c) (hfield : mtlFieldOk f2 q.toNat = true)
    (hring : readable (ringOf s q) (k.toNat + 1))
    (hplane : mxClass (ringOf s q).fmt = mxClass (planeFmtAfter (me s).mx l.toNat)) (hrows : k.toNat + 1 ≤ (ringOf s q).filled)
    (hload : bitAt f2 16 = true → (me s).mx.loadBusy ≤ (me s).now ∧ readable wr 64 ∧ mxClass wr.fmt = mxClass (ringOf s q).fmt) :
    let op : MxOp :=
      { id := 0, kind := .mtl, acc := c.toNat, ring := q.toNat, wring := field f2 12 4, plane := l.toNat, row := row.toNat
        count := k.toNat + 1, zero := bitAt f2 17, fmt := (ringOf s q).fmt, wfmt := wr.fmt, steps := field f2 0 12 + 1
        reload := bitAt f2 16, stepping := true, slots := places s.issue.core (ringOf s q) (ringOf s q).head (k.toNat + 1) }
    exec (.mtl c q k l m row) s = .next (queued (rowsClaimed s q (k.toNat + 1)) (mtlCycles op) false op) := by
  obtain ⟨hbusy, hweights⟩ := mtlLoad_tests_pass hload
  simp only [exec, execMtl]
  rw [curCore_eq_me]
  simp only [ring_me, ← hf2, ← hwr, (arrayAccepts_iff s c).1 hacc, hbusy, hweights, hfield,
    (activationOk_iff _ _ _ _).2 ⟨hring, hplane⟩, Nat.not_lt.2 hrows, Bool.not_true, Bool.or_false, Bool.false_eq_true, if_false,
    filledPlaces_eq_places, issueMx_claimRows]

theorem exec_msm_of_ready (hacc : arrayAccepts s c) (hout : slotInterlocked s (.acc o.toNat) = false)
    (hring : writable (ringOf s q) (k.toNat + 1) 128 ((ringOf s q).fmt = 0x09)) (hslots : k.toNat + 1 ≤ (ringOf s q).free) :
    exec (.msm c q k m row o) s = .next (queued (slotsClaimed s q (k.toNat + 1)) (4 * (k.toNat + 1)) false
      { id := 0, kind := .msm, acc := c.toNat, out := o.toNat, ring := q.toNat, row := row.toNat, count := k.toNat + 1
        shape := (me s).regs.readShape 1 m.toNat 0, fmt := (ringOf s q).fmt
        outs := places s.issue.core (ringOf s q) (ringOf s q).tail (k.toNat + 1) }) := by
  rw [← beq_iff_eq (b := 0x09), ← writeRingOk_iff] at hring
  simp only [exec, execMsm, curCore_eq_me, ring_me, (arrayAccepts_iff s c).1 hacc, hout, hring, Nat.not_lt.2 hslots, Bool.not_true,
    Bool.or_false, Bool.false_eq_true, if_false, freePlaces_eq_places, issueMx_claimFree]

theorem exec_mout_of_ready (hacc : arrayAccepts s c) (hfield : moutFieldOk ((me s).regs.readShape 1 m.toNat 1).toNat = true)
    (hring : writable (ringOf s q) (k.toNat + 1) (moutBytes (ringOf s q).fmt) (moutFmt (ringOf s q).fmt = true))
    (hslots : k.toNat + 1 ≤ (ringOf s q).free) :
    exec (.mout c q k m row) s = .next (queued (slotsClaimed s q (k.toNat + 1)) (k.toNat + 1) false
      { id := 0, kind := .mout, acc := c.toNat, ring := q.toNat, row := row.toNat, count := k.toNat + 1
        shape := (me s).regs.readShape 1 m.toNat 1, fmt := (ringOf s q).fmt
        outs := places s.issue.core (ringOf s q) (ringOf s q).tail (k.toNat + 1) }) := by
  simp only [exec, execMout, curCore_eq_me, ring_me, (arrayAccepts_iff s c).1 hacc, hfield, (writeRingOk_iff _ _ _ _).2 hring,
    Nat.not_lt.2 hslots, Bool.not_true, Bool.false_eq_true, if_false, freePlaces_eq_places, issueMx_claimFree]

/-- MCLR and MSIDE need the array alone and occupy it for one cycle. -/
theorem plainMx_of_ready (op : MxOp) (hacc : arrayAccepts s c) : plainMx s c op = .next (queued s 1 false op) := by
  simp only [plainMx, curCore_eq_me, (arrayAccepts_iff s c).1 hacc, Bool.false_eq_true, if_false]
  rfl

/-- MMG claims each band's rows once every member has its entry. -/
theorem exec_mmg_of_ready (hfirst : (me s).logical % 16 = 0) (hacc : arrayAccepts s c)
    (hjoined : gangJoined s s.issue.core c.toNat = true)
    (hrings : gangRingsOk s s.issue.core q.toNat (k.toNat + 1) l.toNat = true)
    (hrows : gangRowsReady s s.issue.core q.toNat (k.toNat + 1) = true) :
    exec (.mmg c q k l z row) s = .next ((List.range 4).foldl
      (fun st b => claimRows st (memberOf s.issue.core (4 * b)) q.toNat (k.toNat + 1))
      ((List.range 16).foldl
        (fun st j => gangMember st s.issue.core c.toNat q.toNat (k.toNat + 1) l.toNat row.toNat (z == 1) j) s)) := by
  simp only [exec, execMmg, mxIllegal, curCore_eq_me, hfirst, bne_self_eq_false, (arrayAccepts_iff s c).1 hacc, hjoined, hrings, hrows,
    Bool.not_true, Bool.or_false, Bool.false_eq_true, if_false, upTo_eq_range]

theorem exec_mwait_of_idle (hidle : (me s).mx.queue = []) : exec (.mwait 0) s = .next s := by
  simp [exec, execMwait, mxIllegal, curCore_eq_me, hidle]

/-- A member that passes MWAIT GANG has left its gang. -/
theorem exec_mwait_gang_of_done (hmember : (me s).logical % 16 ≠ 0) (hdone : (me s).mx.gangDone = true) :
    exec (.mwait 1) s = .next (meIs s { me s with mx := { (me s).mx with joined := false, gangDone := false } }) := by
  simp only [exec, execMwait, mxIllegal, curCore_eq_me, beq_false_of_ne hmember, hdone, Bool.and_false, Bool.false_eq_true, if_false,
    if_true]
  rfl

end

/-- Settles O38: each instruction goes through its tests of the array, of its ring and of its field to its claim and its queue entry. -/
theorem matrixInstructionsEnterTheQueue : Obligations.MatrixInstructionsEnterTheQueue := by
  intro s c o m q k row l z
  exact ⟨rfl, exec_mwl_of_ready,
    fun hacc hring hplane hrows => ⟨multiply_of_ready .mma hacc hring hplane hrows, multiply_of_ready .mmz hacc hring hplane hrows⟩,
    exec_mtl_of_ready rfl rfl, exec_msm_of_ready, exec_mout_of_ready, plainMx_of_ready _, plainMx_of_ready _, exec_mwait_of_idle,
    exec_mwait_gang_of_done, exec_mmg_of_ready⟩

end Sys2Proof.Machine
end

section
/-!
PROOFS. The ST slot (R206 to R228): what the checks of a stream instruction answer, and what each instruction does when they pass.
-/
namespace Sys2Proof.Machine
open Sys2Proof.Claims

/-! ## The checks of an instruction (R76) -/

theorem one_le_code {c : Cause} (h : c ≠ .none) : 1 ≤ c.code := by
  cases c with
  | none => exact absurd rfl h
  | _ => decide

theorem failsWith_passes_iff {ok : Bool} {c : Cause} (hc : c ≠ .none) (a : Nat) : (failsWith ok c a).1 = .none ↔ ok = true := by
  cases ok <;> simp [failsWith, hc]

theorem firstFault_cons_of_pass {f : Cause × Nat} (h : f.1 = .none) (fs : List (Cause × Nat)) : firstFault (f :: fs) = firstFault fs := by
  simp [firstFault, h]

theorem firstFault_of_pass : ∀ {fs : List (Cause × Nat)}, (∀ f ∈ fs, f.1 = .none) → firstFault fs = none
  | [], _ => rfl
  | f :: fs, h => by
    obtain ⟨hf, hfs⟩ := List.forall_mem_cons.1 h
    rw [firstFault_cons_of_pass hf, firstFault_of_pass hfs]

/-- ILLEGAL has the smallest code, so no later check displaces it (Table 14.1). -/
theorem firstFault_cons_illegal (a : Nat) (fs : List (Cause × Nat)) : firstFault ((.illegal, a) :: fs) = some (.illegal, a) := by
  unfold firstFault
  refine List.foldlRecOn (motive := fun best => best = some (Cause.illegal, a)) fs _ rfl (fun best hbest g _ => ?_)
  subst hbest
  by_cases hg : g.1 = .none
  · simp [hg]
  · have hcode : ¬ g.1.code < Cause.illegal.code := Nat.not_lt.2 (one_le_code hg)
    simp [hg, hcode]

theorem firstFault_of_illegal {a : Nat} {fs : List (Cause × Nat)} : ∀ {oks : List Bool}, false ∈ oks →
    firstFault (oks.map (fun ok => failsWith ok .illegal a) ++ fs) = some (.illegal, a)
  | false :: _, _ => firstFault_cons_illegal a _
  | true :: oks, h => by
    have htail : false ∈ oks := by simpa using h
    exact (firstFault_cons_of_pass rfl _).trans (firstFault_of_illegal htail)

section
variable {s act : State} {t : BitVec 5} {fs : List (Cause × Nat)}

theorem checked_of_pass (h : ∀ f ∈ fs, f.1 = .none) : checked s fs act = act := by
  rw [checked, firstFault_of_pass h]

/-- Where the leading checks all answer ILLEGAL at one address, one of them that is not met decides the slot. -/
theorem checked_of_illegal {oks : List Bool} (h : false ∈ oks) (a : Nat) :
    checked s (oks.map (fun ok => failsWith ok .illegal a) ++ fs) act = slotFail s .illegal a := by
  rw [checked, firstFault_of_illegal h]

/-! ## Tags (R208) -/

theorem tagBusy_eq_false_iff : tagBusy (me s) t.toNat = false ↔ tagFree s t := by
  simp [tagBusy]

theorem tagBusy_of_not_tagFree (h : ¬ tagFree s t) : tagBusy (me s) t.toNat = true := by
  rwa [← tagBusy_eq_false_iff, Bool.not_eq_false] at h

theorem posting_of_free (h : tagFree s t) : posting s t fs act = .next (checked s fs act) := by
  rw [posting, curCore_eq_me, tagBusy_eq_false_iff.2 h]; rfl

end

/-! ## Records (R26, R224) -/

theorem recordFault_passes {s : State} {b : BitVec 6} (h : (record s b).malformed = false) : (recordFault s b).1 = .none :=
  (failsWith_passes_iff (by decide) _).2 ((Bool.not_eq_true' _).mpr h)

theorem fieldsFault_passes {s : State} {b : BitVec 6} (h : { record s b with fmt := 0 }.malformed = false) :
    (fieldsFault s b).1 = .none :=
  (failsWith_passes_iff (by decide) _).2 ((Bool.not_eq_true' _).mpr h)

/-- A KPOST judges a record whole where its kind reduces, else without its format. -/
theorem kpostJudge_passes {s : State} {b : BitVec 6} {reduces used : Bool}
    (h : used = true → (if reduces then record s b else { record s b with fmt := 0 }).malformed = false) :
    (if used then (if reduces then recordFault s else fieldsFault s) b else (.none, 0)).1 = .none := by
  cases used with
  | false => rfl
  | true =>
    cases reduces with
    | false => exact fieldsFault_passes (h rfl)
    | true => exact recordFault_passes (h rfl)

/-! ## KPOST (R223 to R225, R268) -/

/-- An unordered floating sum is posted by no task that must be exact. -/
theorem kpostExact_passes {reduces ord exact : Bool} {op : Nat} (h : reduces = true → op = 1 → ord = false → exact = false) :
    (!(reduces && op == 1 && !ord && exact)) = true := by
  rw [Bool.not_eq_true', ← Bool.not_eq_true]
  simp only [Bool.and_eq_true, Bool.not_eq_true', beq_iff_eq]
  rintro ⟨⟨⟨hreduces, hop⟩, hord⟩, hexact⟩
  exact Bool.false_ne_true ((h hreduces hop hord).symm.trans hexact)

/-- A BARRIER names no records. -/
theorem kpostBarrier_passes {kind : Nat} {bs br : BitVec 6} (h : kind = 0 → bs = 0 ∧ br = 0) :
    (kind != 0 || (bs == 0 && br == 0)) = true := by
  rw [Bool.or_eq_true, Bool.and_eq_true, bne_iff_ne, beq_iff_eq, beq_iff_eq]
  exact (Decidable.em (kind = 0)).symm.imp id h

/-- A reducing kind needs an operation that takes its format, the same in both records. -/
theorem kpostFormats_passes {reduces takes used : Bool} {recv send : Nat}
    (h : reduces = true → takes = true ∧ (used = true → recv = send)) :
    (!reduces || (takes && (!used || recv == send))) = true := by
  cases reduces with
  | false => rfl
  | true =>
    obtain ⟨htakes, hsame⟩ := h rfl
    subst htakes
    cases used with
    | false => rfl
    | true => exact beq_iff_eq.2 (hsame rfl)

theorem collectivesArePosted : Claims.CollectivesArePosted := by
  intro s k bs br xo tg t n ctx cm word p send recv f1 us ur judged htask hfree
  have hexec : exec (.kpost k bs br xo tg) s = execKpost k bs br xo tg s := rfl
  simp only [hexec, execKpost, rx_eq_x, posting_of_free hfree]
  refine ⟨fun hen hparams hcommits hexact hbarrier hsend hrecv hfmt hf1 hsize haction hflags => ?_, fun hbad => ?_⟩
  · rw [checked_of_pass]
    simp only [List.forall_mem_cons, List.not_mem_nil, false_implies, implies_true, and_true]
    refine ⟨?_, ?_, ?_, ?_, kpostJudge_passes hsend, kpostJudge_passes hrecv, ?_, ?_, ?_, haction, ?_⟩
    · rw [failsWith_passes_iff (by decide), Bool.and_eq_true]
      exact ⟨hen, hparams⟩
    · rw [failsWith_passes_iff (by decide), curTask, curCore_eq_me, htask]
      exact kpostExact_passes hexact
    · rw [failsWith_passes_iff (by decide), Bool.not_eq_true']
      exact hcommits
    · exact (failsWith_passes_iff (by decide) _).2 (kpostBarrier_passes hbarrier)
    · exact (failsWith_passes_iff (by decide) _).2 (kpostFormats_passes hfmt)
    · exact (failsWith_passes_iff (by decide) _).2 hf1
    · exact (failsWith_passes_iff (by decide) _).2 hsize
    · rw [apply_ite Prod.fst, ite_eq_right_iff]
      exact hflags
  · refine congrArg Host.Outcome.next
      (checked_of_illegal (oks := [cm.en && paramsOk p cm.size, _, !rehearsing s (whoIs s n)]) ?_ 0)
    rcases hbad with h | h | h <;> simp [h]

/-! ## Ring descriptors (R218, Table 9.3) -/

/-- The fields of a descriptor stand apart in the word that a landing carries, since a slot has at most 64 units. -/
theorem ringWord_fields {w : Nat} (hunit : field w 24 8 ≤ 64) :
    field (ringWord w).toNat 0 20 = w % 2 ^ 19 ∧ field (ringWord w).toNat 20 20 = 64 * field w 24 8 ∧
      field (ringWord w).toNat 40 16 = field w 32 16 ∧ field (ringWord w).toNat 56 6 = field w 48 6 := by
  have hbase : w % 2 ^ 19 < 2 ^ 19 := Nat.mod_lt _ (by decide)
  have hcap : field w 32 16 < 2 ^ 16 := Nat.mod_lt _ (by decide)
  have hfmt : field w 48 6 < 2 ^ 6 := Nat.mod_lt _ (by decide)
  have hword : (ringWord w).toNat = w % 2 ^ 19 + 2 ^ 20 * (64 * field w 24 8) + 2 ^ 40 * field w 32 16 + 2 ^ 56 * field w 48 6 := by
    rw [ringWord, BitVec.toNat_ofNat, show field w 0 19 = w % 2 ^ 19 by simp [field]]
    omega
  rw [hword]
  generalize w % 2 ^ 19 = base at *
  generalize field w 24 8 = unit at *
  generalize field w 32 16 = cap at *
  generalize field w 48 6 = fmt at *
  unfold field
  refine ⟨?_, ?_, ?_, ?_⟩ <;> omega

theorem unit_le_of_ringOperandOk {w : Nat} (h : ringOperandOk w = true) : field w 24 8 ≤ 64 := by
  simp only [ringOperandOk, Bool.and_eq_true, decide_eq_true_eq] at h
  exact h.1.2

theorem ring_of_ringSet (c : Core) (q : Nat) {w : Nat} (h : ringOperandOk w = true) :
    (c.applyPayload (.ringSet q (ringWord w))).regs.ring q =
      { base := w % 2 ^ 19, slot := 64 * field w 24 8, cap := field w 32 16, fmt := field w 48 6, filled := 0, free := field w 32 16 } := by
  obtain ⟨hbase, hslot, hcap, hfmt⟩ := ringWord_fields (unit_le_of_ringOperandOk h)
  simp only [Core.applyPayload, ring_setRing, if_true, hbase, hslot, hcap, hfmt]

/-! ## RINGI, CWAIT and KWAIT (R218, R221, R222) -/

section
variable {s : State} {q : BitVec 4} {xo tg : BitVec 5}

theorem exec_ringi_of_free (hfree : ringClaimed (me s) q.toNat = false) (hok : ringOperandOk (x s xo).toNat = true)
    (hfits : (x s xo).toNat % 2 ^ 19 + field (x s xo).toNat 32 16 * 64 * field (x s xo).toNat 24 8 ≤ 524288) :
    exec (.ringi q xo) s = .next (inFlight s none (lands s 1) 0 0 (.ringSet q.toNat (ringWord (x s xo).toNat))) := by
  have hbase : field (x s xo).toNat 0 19 = (x s xo).toNat % 2 ^ 19 := by simp [field]
  change execRingi q xo s = _
  simp only [execRingi, curCore_eq_me, rx_eq_x, hfree, Bool.false_eq_true, if_false]
  rw [checked_of_pass]
  · rfl
  · simpa [failsWith_passes_iff, hok, hbase] using hfits

theorem exec_ringi_of_reserved (hfree : ringClaimed (me s) q.toNat = false) (hok : ringOperandOk (x s xo).toNat = false) :
    exec (.ringi q xo) s = .next (slotFail s .illegal 0) := by
  change execRingi q xo s = _
  simp only [execRingi, curCore_eq_me, rx_eq_x, hfree, Bool.false_eq_true, if_false, hok]
  exact congrArg Host.Outcome.next (checked_of_illegal (oks := [false]) (by decide) 0)

theorem exec_ringi_of_claimed (h : ringClaimed (me s) q.toNat = true) : exec (.ringi q xo) s = .next (slotHold s) := by
  change execRingi q xo s = _
  simp only [execRingi, curCore_eq_me, h, if_true]

theorem exec_cwait_all (tg : BitVec 5) : exec (.cwait 1 tg) s = .next (if (me s).jobs = [] then s else slotHold s) := by
  change execCwait 1 tg s = _
  simp only [execCwait, curCore_eq_me, if_true, List.isEmpty_iff]

theorem exec_cwait_tag : exec (.cwait 0 tg) s = .next (if tagBusy (me s) tg.toNat then slotHold s else s) := rfl

theorem exec_kwait_of_free (h : tagFree s tg) : exec (.kwait xo tg) s = .next s := by
  have hnone : (me s).jobs.find? (fun j => j.tag == some tg.toNat) = none := by
    simpa using h
  change execKwait xo tg s = _
  simp only [execKwait, curCore_eq_me, hnone]

/-- A KWAIT on its core's one job, a collective's, waits for the flag of the chunk. -/
theorem exec_kwait_of_coll {j : Job} {key : Nat × Nat} {ctx : Ctx} (hjobs : (me s).jobs = [j]) (htag : j.tag = some tg.toNat)
    (hcoll : j.coll = some key) (hctx : getCtx s (slotOfCore s s.issue.core) = some ctx) :
    exec (.kwait xo tg) s = .next (if ∃ l ∈ ctx.colls, l.k = key.1 ∧ l.seq = key.2 ∧ (x s xo).toNat ∈ l.flagged
      then follows s (.core s.issue.core) .chorus else slotHold s) := by
  have hdone : chunkDone s (slotOfCore s s.issue.core) (x s xo).toNat key = true ↔
      ∃ l ∈ ctx.colls, l.k = key.1 ∧ l.seq = key.2 ∧ (x s xo).toNat ∈ l.flagged := by
    simp [chunkDone, hctx, and_assoc]
  have hfind : (me s).jobs.find? (fun j => j.tag == some tg.toNat) = some j := by simp [hjobs, htag]
  change execKwait xo tg s = _
  simp only [execKwait, curCore_eq_me, hfind, hcoll, rx_eq_x, hdone]

/-! ## PREF and RES (R228) -/

theorem exec_pref_of_good {bs : BitVec 6} {m : BitVec 2} (hrec : (record s bs).malformed = false)
    (hrows : f0Rows (hsField s m.toNat 0) ≠ 0) (hcols : f0Cols (hsField s m.toNat 0) ≠ 0) :
    exec (.pref bs m xo) s = .next (
      let tile := hintLines (tileAddrs (record s bs) (hsField s m.toNat 0) ((x s xo).toNat % 2 ^ 32))
      countDrops (reportHints s (tile.map (fun l => 128 * l))) (tile.filter (lineDropped s)).length) := by
  change execPref bs m xo s = _
  rw [execPref, rx_eq_x, checked_of_pass]
  · rfl
  · simp [failsWith_passes_iff, f0Ok, hrows, hcols, recordFault_passes hrec]

/-- The lines that RES names: those of its record's range in global memory. -/
def resLines (b : Record) : List Nat :=
  if b.space ≠ 0 ∨ b.extent = 0 then []
  else (List.range ((b.base + b.extent - 1) / 128 + 1 - b.base / 128)).map (fun i => b.base / 128 + i)

theorem exec_res {k : BitVec 1} {bs : BitVec 6} (hrec : (record s bs).malformed = false) :
    exec (.res k bs) s = .next (
      let lines := resLines (record s bs)
      let walked := reportHints s (lines.map (fun l => 128 * l))
      if k = 1 then lines.foldl keepLine walked
      else modCtx walked (slotOfCore s s.issue.core) (fun c =>
        { c with kept := c.kept.filter (fun h => !(lines.filterMap (homeLine s)).contains h) })) := by
  change execRes k bs s = _
  rw [execRes, checked_of_pass]
  · simp only [upTo_eq_range]
    rfl
  · simp [recordFault_passes hrec]

theorem exec_res_of_malformed {k : BitVec 1} {bs : BitVec 6} (hrec : (record s bs).malformed = true) :
    exec (.res k bs) s = .next (slotFail s .illegal (spGet 0 (me s).regs.recAddr bs.toNat)) := by
  change execRes k bs s = _
  have hfault : recordFault s bs = failsWith false .illegal (spGet 0 (me s).regs.recAddr bs.toNat) :=
    congrArg (fun ok => failsWith ok .illegal (spGet 0 (me s).regs.recAddr bs.toNat)) ((Bool.not_eq_false' _).mpr hrec)
  rw [execRes, hfault]
  exact congrArg Host.Outcome.next (checked_of_illegal (oks := [false]) (by decide) _)

end

theorem ringsWaitsAndHints : Claims.RingsWaitsAndHints := by
  intro s q xo tg a bs m j key ctx c n w base unit cap b lines walked landed
  refine ⟨fun hfree hok hfits => ⟨exec_ringi_of_free hfree hok hfits, ring_of_ringSet c q.toNat hok⟩, exec_ringi_of_reserved,
    exec_ringi_of_claimed, fun ha hjobs => ?_, fun ha hjobs => ?_, fun ha hfree => ?_, fun ha hbusy => ?_, exec_kwait_of_free,
    exec_kwait_of_coll, exec_pref_of_good, exec_res, exec_res, exec_res_of_malformed, rfl⟩
  · rw [ha, exec_cwait_all, if_pos hjobs]
  · rw [ha, exec_cwait_all, if_neg hjobs]
  · rw [ha, exec_cwait_tag, tagBusy_eq_false_iff.2 hfree]; rfl
  · rw [ha, exec_cwait_tag, tagBusy_of_not_tagFree hbusy]; rfl

/-- Settles O41: the checks of each instruction pass, or the first that is not met is ILLEGAL. -/
theorem collectivesRingsAndWaits : Obligations.CollectivesRingsAndWaits := ⟨collectivesArePosted, ringsWaitsAndHints⟩

end Sys2Proof.Machine
end

section
/-!
PROOFS. The posting of stream jobs (R208, R235) against the statement's `jobPosted`, which puts the issuing core back as it stood before its
engine's clock was raised.
-/
namespace Sys2Proof.Machine
open Sys2Proof.Claims

/-! ## The engine's clock (R235) -/

theorem engPts_follows_core (s : State) :
    (me (follows s (.engine s.issue.core) (.core s.issue.core))).engPts = max (me s).engPts (me s).pts := by
  unfold follows
  split
  · next h => exact (Nat.max_eq_left h).symm
  · next h =>
    have hclock : (me (setClock s (.engine s.issue.core) (clockOf s (.core s.issue.core)))).engPts = (me s).pts :=
      congrArg Core.engPts (me_modCur s (fun c => { c with engPts := (me s).pts }))
    exact hclock.trans (Nat.max_eq_right (Nat.le_of_not_le h)).symm

/-- Posting a job raises the clock of the core's engine to that of the core. -/
theorem engPts_postJob (s : State) (j : Job) : (me (postJob s j)).engPts = max (me s).engPts (me s).pts := by
  rw [← engPts_follows_core s, postJob, me_modCur]

/-- The statement's posted job leaves the engine's clock where it was. -/
theorem engPts_jobPosted (s : State) (t : Task) (j : Job) : (me (jobPosted s t j)).engPts = (me s).engPts := by
  have hissue : (follows s (.engine s.issue.core) (.core s.issue.core)).issue = s.issue := follows_issue _ _ _
  unfold jobPosted meIs me
  rw [hissue, setCore_issue, hissue, getCore_setCore_self]

/-! ## WADV (R220) -/

theorem exec_wadv_of_window {s : State} {q : BitVec 4} {xo tg : BitVec 5} {w : Window} (hfree : tagFree s tg)
    (hwin : (ringOf s q).win = some w) (hpos : 0 < (x s xo).toNat) (hlt : (x s xo).toNat < 2 ^ 16) :
    exec (.wadv q xo tg) s = .next (postJob
      (modRegs s (fun g => g.setRing q.toNat { ringOf s q with win := some { w with next := w.next + (x s xo).toNat } }))
      { id := 0, tag := some tg.toNat, kind := .wadv, bundle := 0, src := w.record, first := w.next, ring := q.toNat
        rows := (x s xo).toNat, cols := w.cols, reads := [(recordOf w.record).range] }) := by
  have hring : ((curCore s).regs.ring q.toNat).win = some w := hwin
  change execWadv q xo tg s = _
  rw [execWadv, posting_of_free hfree, checked_of_pass (by simpa [failsWith_passes_iff, rx_eq_x, hring] using hlt)]
  simp only [hring, rx_eq_x, if_neg (Nat.ne_of_gt hpos)]
  rfl

/-! ## A core ahead of its engine -/

/-- A window on ring 0, its next row 0. -/
def rowWindow : Window := ⟨0, 1, 0⟩

/-- A running task without jobs. -/
def plainTask : Task :=
  { launch := 1, run := false, kind := .point, mode := 0, item := 0, ident := 0, slot := none, entry := 0, code := 1, codeTag := 1
    exact := false, firstOvl := 1, ovls := 0, ckpt := false, phase := .running }

/-- Core 0 at clock 1 with its engine at clock 0, a window on ring 0 and 1 in x1. -/
def aheadOfEngine : State :=
  meIs State.reset { task := some plainTask, pts := 1, regs := { x := [(1, 1)], rings := [(0, { win := some rowWindow })] } }

/-- Refutes O40: where the core's clock is ahead of its engine's, WADV raises the engine's clock to it (R208, R235), and the state that the
statement names keeps the old one. Here core 0 stands at 1 and its engine at 0: after WADV of one row the engine stands at 1, not at 0. -/
theorem not_streamInstructionsPostTheirJob : ¬ Obligations.StreamInstructionsPostTheirJob := by
  intro h
  obtain ⟨-, hwadv, -⟩ := h aheadOfEngine 0 0 0 0 1 0 plainTask rowWindow ⟨1, 1, 0, 0, 0⟩ (by decide)
  have hfree : tagFree aheadOfEngine 0 := by decide
  have hwin : (ringOf aheadOfEngine 0).win = some rowWindow := by decide
  have hcount : (x aheadOfEngine 1).toNat = 1 := by decide
  have hposted := (exec_wadv_of_window hfree hwin (by rw [hcount]; decide) (by rw [hcount]; decide)).symm.trans
    (hwadv hfree hwin (by rw [hcount]; decide) (by rw [hcount]; decide))
  have hclock := congrArg (fun st => (me st).engPts) (Host.Outcome.next.inj hposted)
  simp only [engPts_postJob, engPts_jobPosted] at hclock
  revert hclock
  decide

end Sys2Proof.Machine
end

section
/-!
PROOFS. The stream engines at work (R208 to R220, R235): when a job starts, what its next row or slot moves, how it completes and faults.
-/
namespace Sys2Proof.Machine
open Sys2Proof.Claims

section
variable {s t : State} {n id : Nat} {j : Job}

/-! ## The job that an event names -/

theorem id_of_hasJob (h : hasJob s n id j) : j.id = id := by simpa using List.find?_some h

/-! ## Starting (R209, R235) -/

theorem jobMayStart_iff (s : State) (n : Nat) (j : Job) : jobMayStart s n j = true ↔
    j.phase = .posted ∧ (∀ e ∈ jobsBefore j.id (getCore s n).jobs, e.conflicts j = false) ∧
      (∀ o ∈ (getCore s n).sync, j.id ≤ o.id) ∧ behindAccess s n j = false := by
  simp [jobMayStart, jobBlocked, behindWait, and_assoc]

theorem exec_jobStart_of_ready (hjob : hasJob s n id j) (hstart : jobMayStart s n j = true) :
    (j.coll = none →
      exec (.jobStart n id) s = .next (requestSources (modJob s n id (fun q => { q with phase := .running })) n j)) ∧
    (∀ key, j.coll = some key → exec (.jobStart n id) s =
      .next (startColl (requestSources (modJob s n id (fun q => { q with phase := .running })) n j) n (slotOfCore s n) key)) := by
  have hexec : exec (.jobStart n id) s = execJobStart n id s := rfl
  rw [hexec, execJobStart, hjob]
  simp only [hstart, if_true]
  exact ⟨fun hcoll => by rw [hcoll], fun key hcoll => by rw [hcoll]⟩

theorem exec_jobStart_of_blocked (hjob : hasJob s n id j) (hstart : jobMayStart s n j = false) :
    exec (.jobStart n id) s = .next s := by
  change execJobStart n id s = _
  rw [execJobStart, hjob]
  simp only [hstart, Bool.false_eq_true, if_false]

/-! ## Rows of ring jobs (R216, R217, R220) -/

/-- A ring job's row moves: its slot is claimed and its pulse given, and where the spill area ran out the task is trapped. -/
theorem exec_ringSlotClaim_of_ready (hjob : hasJob s n id j) (hring : isRingJob j = true) (hslot : slotReady (getCore s n) j = true)
    (hready : jobReady s n j = true) {fail : Option Nat}
    (hmove : (if j.kind = .cpyo then consumeRow s n j else (produceRow s n j, none)) = (t, fail)) :
    exec (.ringSlotClaim n id) s = .next (
      let moved := awaitedPulse (modJob t n id (fun q => { q with doneRows := q.doneRows + 1 })) (slotOfCore s n)
      fail.elim moved (fun va => stageTrap moved n .shadowFull 0x80 j.bundle va)) := by
  have hkind : (j.kind == .cpyq || j.kind == .cpyo || j.kind == .wset || j.kind == .wadv) = true := hring
  change execRingSlotClaim n id s = _
  rw [execRingSlotClaim, hjob]
  simp only [hkind, hslot, hready, hmove, Bool.not_true, Bool.or_false, Bool.false_eq_true, if_false]
  cases fail <;> rfl

theorem jobsStartAndClaimSlots : Claims.JobsStartAndClaimSlots := by
  intro s t n id va j key c running moved hjob
  refine ⟨fun hphase hconf hsync hacc => ?_, fun hblocked => exec_jobStart_of_blocked hjob ?_, fun hring hslot hready => ⟨?_, ?_, ?_⟩⟩
  · obtain ⟨hplain, hcoll⟩ := exec_jobStart_of_ready hjob ((jobMayStart_iff s n j).2 ⟨hphase, hconf, hsync, hacc⟩)
    exact ⟨hplain, hcoll key⟩
  · rw [← Bool.not_eq_true, jobMayStart_iff]
    rintro ⟨hphase, hconf, hsync, hacc⟩
    rcases hblocked with h | ⟨e, he, h⟩ | ⟨o, ho, h⟩ | h
    · exact h hphase
    · exact absurd (hconf e he) (by simp [h])
    · exact absurd (hsync o ho) (Nat.not_le.2 h)
    · exact absurd hacc (by simp [h])
  · exact fun hkind => exec_ringSlotClaim_of_ready hjob hring hslot hready (if_neg hkind)
  · exact fun hkind hrow => exec_ringSlotClaim_of_ready hjob hring hslot hready ((if_pos hkind).trans hrow)
  · exact fun hkind hrow => exec_ringSlotClaim_of_ready hjob hring hslot hready ((if_pos hkind).trans hrow)

/-! ## Completion (R208, R210, R215) -/

theorem completeIfDone_of_hasJob (hjob : hasJob s n id j) :
    completeIfDone s n id = if jobDone s n j then finishJob s n j else s := by
  rw [completeIfDone, hjob]

/-- A job that is no copy with a row to move is tested for completion alone. -/
theorem exec_jobComplete_of_no_row (hjob : hasJob s n id j) (hcopy : copyReady s n j = false) :
    exec (.jobComplete n id) s = .next (if jobDone s n j then finishJob s n j else s) := by
  change execJobComplete n id s = _
  rw [execJobComplete, hjob]
  simp only [hcopy, Bool.false_eq_true, if_false, completeIfDone_of_hasJob hjob]

theorem exec_jobComplete_of_row (hjob : hasJob s n id j) (hcopy : copyReady s n j = true) :
    exec (.jobComplete n id) s = .next (completeIfDone (copyNextRow s n j) n id) := by
  change execJobComplete n id s = _
  rw [execJobComplete, hjob]
  simp only [hcopy, if_true]

/-! ## Faults (R212, R215) -/

theorem exec_jobFault_of_fault (hjob : hasJob s n id j) {cause : Cause} {addr : Nat} (hfault : jobFaultOf s n j = some (cause, addr)) :
    exec (.jobFault n id) s = .next (
      let before := if j.kind = .cpy then (moveUnits n j (unitsBeforeFault s n j (copyRow j j.doneRows)) s).1 else s
      let stopped := clearFault (modJob before n id (fun q => { q with phase := .faulted })) (slotOfCore s n) j
      stageTrap (if cause = .protect then reportWalk stopped (slotOfCore s n) addr (faultSpan s n j) else stopped) n cause 0x80
        j.bundle addr) := by
  change execJobFault n id s = _
  rw [execJobFault, hjob]
  simp only [hfault]

theorem exec_jobFault_of_none (hjob : hasJob s n id j) (hfault : jobFaultOf s n j = none) : exec (.jobFault n id) s = .next s := by
  change execJobFault n id s = _
  rw [execJobFault, hjob]
  simp only [hfault]

end

theorem jobsCompleteOrFault : Claims.JobsCompleteOrFault := by
  intro s t n id addr j j2 cause row copied reported stopped hjob
  refine ⟨fun hcopy hdone => ?_, fun hcopy hdone => ?_, fun hcopy hmove hjob2 => ?_, fun hcopy hmove => ?_, fun hfault hkind => ?_,
    fun hfault hkind => ?_, exec_jobFault_of_none hjob⟩
  · rw [exec_jobComplete_of_no_row hjob hcopy, if_pos hdone]
  · rw [exec_jobComplete_of_no_row hjob hcopy, if_neg (by simp [hdone])]
  · have hrow : copyNextRow s n j = copied := by rw [copyNextRow, hmove, id_of_hasJob hjob]
    rw [exec_jobComplete_of_row hjob hcopy, hrow, completeIfDone_of_hasJob hjob2]
  · have hrow : copyNextRow s n j = stageTrap t n .shadowFull 0x80 j.bundle addr := by rw [copyNextRow, hmove]
    rw [exec_jobComplete_of_row hjob hcopy, hrow]
  · rw [exec_jobFault_of_fault hjob hfault]
    simp only [if_neg hkind]
    rfl
  · rw [exec_jobFault_of_fault hjob hfault]
    simp only [if_pos hkind]
    rfl

/-- Settles O43: an event finds its job, and each branch of its test is one of the statement's cases. -/
theorem jobEvents : Obligations.JobEvents := ⟨jobsStartAndClaimSlots, jobsCompleteOrFault⟩

end Sys2Proof.Machine
end

section
/-!
PROOFS. Packets that reach a rank of this package (R353 to R372): chunks and collectives, chorus packets, answers and commit control.
-/
namespace Sys2Proof.Machine
open Sys2Proof.Claims

/-! ## A packet that has arrived (R361, R362, R386) -/

@[simp] theorem arrived_ctxs (s : State) (p : Packet) : (arrived s p).ctxs = s.ctxs := by unfold arrived; split <;> rfl

@[simp] theorem arrived_clock (s : State) (p : Packet) : (arrived s p).clock = s.clock := by unfold arrived; split <;> rfl

@[simp] theorem getCtx_arrived (s : State) (p : Packet) (k : Nat) : getCtx (arrived s p) k = getCtx s k := by simp [getCtx]

@[simp] theorem residentOf_arrived (s : State) (p : Packet) (job rank : Nat) : residentOf (arrived s p) job rank = residentOf s job rank := by
  simp [residentOf]

@[simp] theorem awake_clock (s : State) (p : Packet) (k : Nat) : (awake s p k).clock = s.clock := by simp [awake]

section
variable {s : State} {p : Packet} {k kind : Nat} {c : Ctx}

theorem arrival_of_arrives (h : arrives s p kind) (act : State → State) : arrival s p kind act = act (arrived s p) := by
  obtain ⟨hpower, hkind, hvc, hjob, hfits, hdst⟩ := h
  have hhere : ¬ (p.dst ≠ s.link.node ∧ p.src ≠ hostNode) := fun ⟨haway, hguest⟩ => hdst.elim haway hguest
  simp [arrival, hpower, hkind, hvc, hjob, hfits, hhere]

theorem withRank_of_forRank (h : forRank s p k c) (act : Nat → Ctx → State → State) :
    withRank (arrived s p) p act = act k c (awake s p k) := by
  obtain ⟨hres, hctx⟩ := h
  simp only [withRank, residentOf_arrived, hres, getCtx_arrived, hctx]
  rfl

end

/-! ## Chunks and collectives (R225, R226) -/

theorem collectivesComplete : Claims.CollectivesComplete := by
  intro s k comm chunk c q f flagged hctx
  refine ⟨fun hrun hdue => ?_, fun hrun hdue => ?_, fun hfind => ⟨fun hfault => ?_, fun hfault => ?_⟩⟩
  · change execChunkComplete k comm chunk s = _
    rw [execChunkComplete, hctx]
    simp only [hrun, hdue, if_true]
    rfl
  · change execChunkComplete k comm chunk s = _
    rw [execChunkComplete, hctx]
    simp only [hrun, hdue, Bool.false_eq_true, if_false]
  · change execCollectiveComplete k comm s = _
    rw [execCollectiveComplete, hctx]
    simp only [hfind, hfault]
  · change execCollectiveComplete k comm s = _
    rw [execCollectiveComplete, hctx]
    simp only [hfind, hfault]

/-! ## Chorus packets (R366, R367, R372) -/

section
variable {s : State} {p : Packet} {k : Nat} {c : Ctx}

/-- A block of a node value is put into its slot and acknowledged, by its node or by the position of its sender. -/
theorem arrival_receiveUp {kind : Nat} (harr : arrives s p kind) (hrank : forRank s p k c) (ordered : Bool) :
    arrival s p kind (receiveUp ordered p) = ackChorus (
      if ordered then stageBlock (awake s p k) k (field p.addr 44 4) (field p.addr 48 16)
        (stagedKey 0 (field p.addr 0 24) (field p.addr 40 4) (field p.addr 24 16) (p.tag / packetBytes)) 0 p.payload
      else stageBlock (awake s p k) k (field p.addr 44 4) (field p.addr 48 16)
        (stagedKey 0 (field p.addr 0 24) 0 (positionOf (awake s p k) (commOf c (field p.addr 44 4)) p.srank) (p.tag / packetBytes))
        (field p.addr 24 16) p.payload) p := by
  rw [arrival_of_arrives harr, receiveUp, withRank_of_forRank hrank]
  rfl

/-- A block of final bytes is put into its slot and acknowledged; the last one for a rank that has ended frees the slot. -/
theorem exec_chorusDown_of_coll {q : Coll} (harr : arrives s p 0x12) (hrank : forRank s p k c)
    (hfind : findColl c (field p.addr 44 4) (field p.addr 48 16) = some q) :
    exec (.chorusDown p) s = .next (
      let piece := q.piece (field p.addr 24 16) (field p.addr 0 24)
      let off := field p.addr 0 24 * q.params.size + p.tag
      let down := stageBlock (awake s p k) k (field p.addr 44 4) (field p.addr 48 16)
        (stagedKey 1 (field p.addr 0 24) 0 (field p.addr 24 16) ((off - piece.1) / packetBytes)) 0 p.payload
      ackChorus (if q.done && !q.draining && q.params.kind != 0 && decide (piece.1 + piece.2.1 ≤ off + p.payload.length)
        then freeDownSlot down (commOf c (field p.addr 44 4)).cls else down) p) := by
  change execChorusDown p s = _
  rw [execChorusDown, arrival_of_arrives harr, withRank_of_forRank hrank]
  simp only [chorusFields, hfind]
  rfl

theorem exec_chorusDown_of_no_coll (harr : arrives s p 0x12) (hrank : forRank s p k c)
    (hfind : findColl c (field p.addr 44 4) (field p.addr 48 16) = none) :
    exec (.chorusDown p) s = .next (ackChorus (awake s p k) p) := by
  change execChorusDown p s = _
  rw [execChorusDown, arrival_of_arrives harr, withRank_of_forRank hrank]
  simp only [chorusFields, hfind]

end

theorem chorusDataArrives : Claims.ChorusDataArrives := by
  intro s p k g j i c q seq comm index chunk block w first last off down here left
  refine ⟨fun hrank => ⟨fun harr => congrArg Host.Outcome.next (arrival_receiveUp harr hrank true),
    fun harr => congrArg Host.Outcome.next (arrival_receiveUp harr hrank false),
    fun harr hfind => ⟨fun hopen => ?_, fun hdone hdrain hkind hlast => ?_⟩,
    fun harr hfind => exec_chorusDown_of_no_coll harr hrank hfind⟩, fun _ => ⟨fun hkind => if_neg hkind, fun hkind => if_pos hkind⟩⟩
  · refine (exec_chorusDown_of_coll harr hrank hfind).trans (congrArg (fun t => Host.Outcome.next (ackChorus t p)) (if_neg ?_))
    simp only [Bool.and_eq_true, Bool.not_eq_true', bne_iff_ne, decide_eq_true_eq, not_and, Nat.not_le]
    rintro ⟨⟨hdone, hdrain⟩, hkind⟩
    rcases hopen with h | h | h | h
    · simp [h] at hdone
    · simp [h] at hdrain
    · exact absurd h hkind
    · exact h
  · refine (exec_chorusDown_of_coll harr hrank hfind).trans (congrArg (fun t => Host.Outcome.next (ackChorus t p)) (if_pos ?_))
    simpa [hdone, hdrain, hkind] using hlast

theorem reservationsAndGrantsArrive : Claims.ReservationsAndGrantsArrive := by
  intro s p k c seq comm chunk w pool r hrank
  refine ⟨fun harr hchunk => ?_, fun harr hchunk => ?_, fun harr hchunk => ?_, fun harr hchunk => ?_⟩
  · change execReservationRequest p s = _
    rw [execReservationRequest, arrival_of_arrives harr, withRank_of_forRank hrank]
    simp only [r, ← awake_clock s p k]
    exact congrArg Host.Outcome.next (if_neg hchunk)
  · change execReservationRequest p s = _
    rw [execReservationRequest, arrival_of_arrives harr, withRank_of_forRank hrank]
    exact congrArg Host.Outcome.next (if_pos hchunk)
  · change execGrant p s = _
    rw [execGrant, arrival_of_arrives harr, withRank_of_forRank hrank]
    simp only [List.partition_eq_filter_filter, ← awake_clock s p k]
    exact congrArg Host.Outcome.next (if_neg hchunk)
  · change execGrant p s = _
    rw [execGrant, arrival_of_arrives harr, withRank_of_forRank hrank]
    exact congrArg Host.Outcome.next (if_pos hchunk)

/-- Settles O48: a packet that arrives for a rank here is dealt with by that rank, in the branch that the statement names. -/
theorem collectivesCompleteByTheirPackets : Obligations.CollectivesCompleteByTheirPackets :=
  ⟨collectivesComplete, chorusDataArrives, reservationsAndGrantsArrive⟩

/-! ## Answers (R239, R260, R262) -/

section
variable {s : State} {p : Packet} {r : Request}

/-- A load response that finds the request of a read or an atomic closes it and brings its bytes to what asked. -/
theorem exec_loadResponse_of_request (harr : arrives s p 0x03) (hreq : requestOf (noteAnswer (arrived s p) p.tag) p = some r)
    (hkind : r.kind = 0x02 ∨ r.kind = 0x06) : exec (.loadResponse p) s = .next (settle (
      let closed := meetDeps (awaitedPulse (closeRequest (noteAnswer (arrived s p) p.tag) r) r.ctx) r p.deps
      if r.core = blockMaker then farAnswer closed r p.payload p.deps
      else if r.core = 257 then takeHostRecord closed r.ctx r.id (ofBytes p.payload)
      else if r.core = 256 then
        modColl closed r.ctx r.id r.slot (fun q => { q with data := addCells q.data r.va p.payload, waits := q.waits - 1 })
      else if (getCore closed r.core).ctx ≠ some r.ctx then closed
      else r.job.elim (answerCore closed r.core r p.payload) (fun j =>
        modJob closed r.core j (fun q => { q with data := addCells q.data r.va p.payload, waits := q.waits - 1 })))) := by
  have hasked : ¬ (r.kind ≠ 0x02 ∧ r.kind ≠ 0x06) := fun ⟨hone, htwo⟩ => hkind.elim hone htwo
  change execLoadResponse p s = _
  rw [execLoadResponse, arrival_of_arrives harr]
  simp only [hreq, if_neg hasked]
  cases r.job <;> rfl

theorem exec_loadResponse_of_none (harr : arrives s p 0x03) (hreq : requestOf (noteAnswer (arrived s p) p.tag) p = none) :
    exec (.loadResponse p) s = .next (discardPacket (noteAnswer (arrived s p) p.tag)) := by
  change execLoadResponse p s = _
  rw [execLoadResponse, arrival_of_arrives harr]
  simp only [hreq]

theorem exec_acknowledgement_of_write (harr : arrives s p 0x04) (hmark : p.payload ≠ [1])
    (hreq : requestOf (noteAnswer (arrived s p) p.tag) p = some r) (hkind : r.kind = 0x01 ∨ r.kind = 0x07) :
    exec (.acknowledgement p) s =
      .next (settle (meetDeps (awaitedPulse (writeAnswered (noteAnswer (arrived s p) p.tag) r) r.ctx) r p.deps)) := by
  have hasked : ¬ (r.kind ≠ 0x01 ∧ r.kind ≠ 0x07) := fun ⟨hone, htwo⟩ => hkind.elim hone htwo
  change execAcknowledgement p s = _
  rw [execAcknowledgement, arrival_of_arrives harr]
  simp only [if_neg hmark, hreq, if_neg hasked]

theorem exec_acknowledgement_of_none (harr : arrives s p 0x04) (hmark : p.payload ≠ [1])
    (hreq : requestOf (noteAnswer (arrived s p) p.tag) p = none) :
    exec (.acknowledgement p) s = .next (discardPacket (noteAnswer (arrived s p) p.tag)) := by
  change execAcknowledgement p s = _
  rw [execAcknowledgement, arrival_of_arrives harr]
  simp only [if_neg hmark, hreq]

/-- The refusal of a memory packet meets the request of its tag, if that is of the kind refused. -/
theorem exec_refusal_of_request (harr : arrives s p 0x05) (hwhat : ofBytes p.payload < 0x10)
    (hreq : requestOf (noteAnswer (arrived s p) p.tag) p = some r) :
    exec (.refusal p) s = .next (if r.kind = ofBytes p.payload
      then settle (requestRefused (pulse (noteAnswer (arrived s p) p.tag) r.ctx) r)
      else discardPacket (noteAnswer (arrived s p) p.tag)) := by
  have hchorus : ¬ (0x10 ≤ ofBytes p.payload ∧ ofBytes p.payload ≤ 0x14) := by omega
  have hcontrol : ofBytes p.payload ≠ 0x20 := by omega
  have hfly : ¬ (ofBytes p.payload = 0x30 ∨ ofBytes p.payload = 0x31) := by omega
  change execRefusal p s = _
  rw [execRefusal, arrival_of_arrives harr]
  simp only [if_neg hchorus, if_neg hcontrol, if_neg hfly, hreq]

/-- A holder that cannot prepare aborts the launch that asks. -/
theorem exec_refusal_of_prepare {k : Nat} {l : Launch} (harr : arrives s p 0x05) (hwhat : ofBytes p.payload = 0x20)
    (hres : residentOf (arrived s p) p.job p.rank = some k) (hlaunch : getLaunch (arrived s p) k (p.launch / 2) = some l)
    (hphase : l.phase = .preparing) : exec (.refusal p) s = .next (abortLaunch (arrived s p) k l.handle .watchdog) := by
  have hchorus : ¬ (0x10 ≤ ofBytes p.payload ∧ ofBytes p.payload ≤ 0x14) := by omega
  change execRefusal p s = _
  rw [execRefusal, arrival_of_arrives harr]
  simp only [if_neg hchorus, if_pos hwhat, hres, hlaunch, if_pos hphase]

end

theorem answersReachTheirRequests : Claims.AnswersReachTheirRequests := by
  intro s p r j k l woken w closed
  refine ⟨fun harr hreq hkind => ?_, exec_loadResponse_of_none, exec_acknowledgement_of_write, exec_acknowledgement_of_none,
    fun harr hwhat hreq => ⟨fun hkind => ?_, fun hkind => ?_⟩, exec_refusal_of_prepare⟩
  · rw [exec_loadResponse_of_request harr hreq hkind]
    refine ⟨fun hcore => ?_, fun hcore => ?_, fun hcore => ?_, fun hcore hctx hjob => ?_, fun hcore hctx hjob => ?_, fun hcore hctx => ?_⟩
    · rw [if_pos hcore]
    · rw [if_neg (by simp [hcore, blockMaker]), if_pos hcore]
    · rw [if_neg (by simp [hcore, blockMaker]), if_neg (by simp [hcore]), if_pos hcore]
    all_goals
      have hmaker : r.core ≠ blockMaker := by unfold blockMaker; omega
      have hhost : r.core ≠ 257 := by omega
      have hcoll : r.core ≠ 256 := by omega
      rw [if_neg hmaker, if_neg hhost, if_neg hcoll]
    · rw [if_neg (not_not_intro hctx), hjob]; rfl
    · rw [if_neg (not_not_intro hctx), hjob]; rfl
    · rw [if_pos hctx]
  · rw [exec_refusal_of_request harr hwhat hreq, if_pos hkind]
  · rw [exec_refusal_of_request harr hwhat hreq, if_neg hkind]

/-! ## Commit control (R255, R262, R264) -/

section
variable {s : State} {p : Packet} {k : Nat}

theorem dropStamp_of_peer {q : PeerShadow} (h : peerOf s p = some q) : dropStamp s p =
    l2Sweep (modPeer (rememberGone (withdrawPeer s p p.stamp) p p.stamp) p
      (fun y => { y with bytes := y.bytes.filter (fun b => decide (b.stamp ≠ p.stamp)) })) := by
  rw [dropStamp, h]

theorem dropStamp_of_no_peer (h : peerOf s p = none) : dropStamp s p = rememberGone (withdrawPeer s p p.stamp) p p.stamp := by
  rw [dropStamp, h]

theorem answerOutcome_of_launch {l : Launch} (h : getLaunch s k (p.launch / 2) = some l) :
    answerOutcome s k p = if l.ended then sendControl s p (if l.marked && p.launch % 2 = 0 then 2 else 3) else s := by
  rw [answerOutcome, h]
  cases hended : l.ended <;> simp [hended]

theorem answerOutcome_of_no_launch (h : getLaunch s k (p.launch / 2) = none) : answerOutcome s k p = sendControl s p 3 := by
  rw [answerOutcome, h]

end

theorem commitControlActsOnItsShadow : Claims.CommitControlActsOnItsShadow := by
  intro s p k c l q w is prepared owner without discarded dropped harr
  have hexec : exec (.commitControl p) s = execCommitControl p s := rfl
  simp only [is, hexec, execCommitControl, arrival_of_arrives harr, residentOf_arrived]
  refine ⟨fun ⟨hres, hctx⟩ => ?_, fun hres => by rw [hres]⟩
  simp only [hres]
  refine ⟨fun htag => ?_, fun htag => ?_, fun htag => ?_, fun htag => ?_, fun htag hpeer => ?_, fun htag hpeer => ?_, fun htag => ?_,
    fun htag => ?_, fun htag hlaunch => ?_, fun htag hlaunch => ?_, fun htag => ?_⟩
  all_goals simp only [htag]
  · rfl
  · rfl
  · rfl
  · rfl
  · exact congrArg (fun t => Host.Outcome.next (settle t)) (dropStamp_of_peer hpeer)
  · exact congrArg (fun t => Host.Outcome.next (settle t)) (dropStamp_of_no_peer hpeer)
  · rfl
  · rfl
  · exact congrArg Host.Outcome.next (answerOutcome_of_launch hlaunch)
  · exact congrArg Host.Outcome.next (answerOutcome_of_no_launch hlaunch)
  · rfl

/-- Settles O50: an answer finds the request of its tag, and a message of commit control acts by its code. -/
theorem answersAndCommitControl : Obligations.AnswersAndCommitControl := ⟨answersReachTheirRequests, commitControlActsOnItsShadow⟩

end Sys2Proof.Machine
end

section
/-!
PROOFS. The host port: doorbells (R375), BAR2 (R373), the completion ring (R377) and the registers of system software (R305, R374).
-/
namespace Sys2Proof.Machine
open Sys2Proof.Claims

/-! ## A package that wakes (R386) -/

@[simp] theorem getCtx_wake (s : State) (k : Nat) : getCtx (wake s) k = getCtx s k := rfl

@[simp] theorem awaitsSwitch_wake (s : State) (k : Nat) : awaitsSwitch (wake s) k = awaitsSwitch s k := rfl

theorem modCtx_of_getCtx {s : State} {k : Nat} {c : Ctx} (h : getCtx s k = some c) (f : Ctx → Ctx) :
    modCtx s k f = setCtx s k (f c) := by
  rw [modCtx, h]

/-! ## DOORBELL (R240, R375) -/

/-- The doubleword at 8 × (8 k + q) is the doorbell of queue q of slot k. -/
theorem doorbellOf_at {k q : Nat} (hk : k < 64) (hq : q < 8) : doorbellOf (8 * (8 * k + q)) = some (k, q) := by
  have hin : 8 * (8 * k + q) < 4096 ∧ 8 * (8 * k + q) % 8 = 0 := by omega
  have hslot : 8 * (8 * k + q) / 64 = k := by omega
  have hqueue : 8 * (8 * k + q) / 8 % 8 = q := by omega
  rw [doorbellOf, if_pos hin, hslot, hqueue]

theorem doorbellOf_eq_none {offset : Nat} (h : 4096 ≤ offset ∨ offset % 8 ≠ 0) : doorbellOf offset = none :=
  if_neg (by omega)

section
variable {s : State} {offset u v k q : Nat} {c : Ctx}

/-- A doorbell follows the host's earlier writes: behind one that waits it waits too (R240). -/
theorem exec_doorbell_of_waiting (hserves : servesHost s = true) (hwaits : hostWaits (wake s) = true) :
    exec (.doorbell offset u v) s = .next (holdEvent (wake s) (2 ^ 63) (.doorbell offset u v)) := by
  change execDoorbell offset u v s = _
  simp only [execDoorbell, hserves, hwaits, Bool.not_true, Bool.false_eq_true, if_false, if_true]

theorem exec_doorbell_of_no_doorbell (hserves : servesHost s = true) (hwaits : hostWaits (wake s) = false)
    (hoffset : doorbellOf offset = none) : exec (.doorbell offset u v) s = .next (ignored (wake s)) := by
  change execDoorbell offset u v s = _
  simp only [execDoorbell, hserves, hwaits, hoffset, Bool.not_true, Bool.false_eq_true, if_false]
  rfl

theorem exec_doorbell_of_no_context (hserves : servesHost s = true) (hwaits : hostWaits (wake s) = false)
    (hoffset : doorbellOf offset = some (k, q)) (hctx : getCtx s k = none) :
    exec (.doorbell offset u v) s = .next (ignored (wake s)) := by
  change execDoorbell offset u v s = _
  simp only [execDoorbell, hserves, hwaits, hoffset, getCtx_wake, hctx, Bool.not_true, Bool.false_eq_true, if_false]
  rfl

/-- A doorbell that reaches its context gives the queue a new TAIL, unless the context flies or arrives (R356). -/
theorem exec_doorbell_of_context (hserves : servesHost s = true) (hwaits : hostWaits (wake s) = false)
    (hoffset : doorbellOf offset = some (k, q)) (hctx : getCtx s k = some c) :
    exec (.doorbell offset u v) s = .next (if c.state = .flying ∨ awaitsSwitch s k = true then ignored (wake s)
      else newTail (wake s) k q (v % 2 ^ 32) c (spGet {} c.queues q)) := by
  change execDoorbell offset u v s = _
  simp only [execDoorbell, hserves, hwaits, hoffset, getCtx_wake, awaitsSwitch_wake, hctx, Bool.not_true, Bool.false_eq_true, if_false]
  rfl

end

section
variable {s : State} {k q value : Nat} {c : Ctx} {queue : Queue}

/-- A queue whose TAIL is written, still enabled only where the new TAIL allows it. -/
def tailSet (s : State) (k q value : Nat) (c : Ctx) (queue : Queue) (on : Bool) : State :=
  setCtx s k { c with
    queues := spSet {} c.queues q { queue with tail := value, en := queue.en && on }
    rung := ringTo c.rung q ((value + 2 ^ 32 - queue.head) % 2 ^ 32) }

theorem newTail_of_behind (hd : 2 ^ 31 ≤ (value + 2 ^ 32 - queue.head) % 2 ^ 32) : newTail s k q value c queue = ignored s :=
  if_pos hd

theorem newTail_of_fits (hahead : (value + 2 ^ 32 - queue.head) % 2 ^ 32 < 2 ^ 31)
    (hfits : (value + 2 ^ 32 - queue.head) % 2 ^ 32 ≤ 2 ^ queue.logSize) :
    newTail s k q value c queue = tailSet s k q value c queue true := by
  simp only [newTail, if_neg (Nat.not_le.2 hahead), Nat.not_lt.2 hfits, decide_false, Bool.false_eq_true, if_false]
  rfl

theorem newTail_of_beyond (hahead : (value + 2 ^ 32 - queue.head) % 2 ^ 32 < 2 ^ 31)
    (hbeyond : 2 ^ queue.logSize < (value + 2 ^ 32 - queue.head) % 2 ^ 32) :
    newTail s k q value c queue = post (tailSet s k q value c queue false) (.overrun k q) := by
  simp only [newTail, if_neg (Nat.not_le.2 hahead), hbeyond, decide_true, if_true]
  rfl

end

theorem doorbellsMoveTail : Claims.DoorbellsMoveTail := by
  intro s offset k q u v c w queue d tail rings hk hq hserves
  have hoffset := doorbellOf_at hk hq
  refine ⟨fun hwaits hctx hfly harrive => ?_, fun hwaits hctx => exec_doorbell_of_no_context hserves hwaits hoffset hctx,
    fun hwaits hctx haway => ?_, fun hwaits hother => exec_doorbell_of_no_doorbell hserves hwaits (doorbellOf_eq_none hother),
    exec_doorbell_of_waiting hserves, fun hctx => ?_⟩
  · have hhere : ¬ (c.state = .flying ∨ awaitsSwitch s k = true) := by simp [hfly, harrive]
    have hrings : rings (newTail w k q (v % 2 ^ 32) c queue) := by
      simpa only [if_neg hhere] using exec_doorbell_of_context (u := u) (v := v) hserves hwaits hoffset hctx
    refine ⟨fun hbehind => ?_, fun hahead hfits => ?_, fun hahead hbeyond => ?_⟩
    · rwa [newTail_of_behind hbehind] at hrings
    · rwa [newTail_of_fits hahead hfits] at hrings
    · rwa [newTail_of_beyond hahead hbeyond] at hrings
  · exact (exec_doorbell_of_context hserves hwaits hoffset hctx).trans (congrArg Host.Outcome.next (if_pos haway))
  · simp only [bar0Word, hoffset, hctx]
    rfl

/-! ## BAR2 (R240, R373) -/

section
variable {s : State} {a n k count : Nat} {bytes : List Byte} {c : Ctx}

theorem inBar2_iff (a n : Nat) : inBar2 a n = true ↔ a + n ≤ 2 ^ 40 := decide_eq_true_iff

theorem inBar2_eq_false_of_lt (h : 2 ^ 40 < a + n) : inBar2 a n = false := decide_eq_false (Nat.not_le.2 h)

/-- Until the port serves the host, and beyond the window, an access reaches nothing (R373, R379, R383). -/
theorem exec_bar2Read_of_unreached (h : servesHost s = false ∨ inBar2 a n = false) : exec (.bar2Read a n) s = .next s := by
  change execBar2Read a n s = _
  rw [execBar2Read, if_pos (by simpa using h)]

theorem exec_bar2Write_of_unreached (h : servesHost s = false ∨ inBar2 a bytes.length = false) :
    exec (.bar2Write a bytes) s = .next s := by
  change execBar2Write a bytes s = _
  rw [execBar2Write, if_pos (by simpa using h)]

/-- An access that reaches the window is held, or is one access of the memory order (R240, R263). -/
theorem exec_bar2Read_of_reached (hserves : servesHost s = true) (hin : a + n ≤ 2 ^ 40) :
    exec (.bar2Read a n) s = .next (if hostHeld (wakeUp s) a n then holdEvent (wakeUp s) a (.hostRead a n) else
      let ls := hostLines (wakeUp s) a n
      let timed := ls.foldl (fun st l => retireRange st (max a (128 * l)) (min (a + n) (128 * l + 128) - max a (128 * l)))
        (if ls = [] then mergeLines (wakeUp s) ls else loads (mergeLines (wakeUp s) ls) .manager a n)
      { timed with host := { timed.host with readData := (upTo n).map (fun i => hostByte timed (a + i)) } }) := by
  change execBar2Read a n s = _
  simp only [execBar2Read, hserves, (inBar2_iff a n).2 hin, Bool.not_true, Bool.or_self, Bool.false_eq_true, if_false,
    List.isEmpty_iff]

theorem exec_bar2Write_of_reached (hserves : servesHost s = true) (hin : a + bytes.length ≤ 2 ^ 40) :
    exec (.bar2Write a bytes) s = .next (if hostHeld (wakeUp s) a bytes.length then holdEvent (wakeUp s) a (.hostWrite a bytes) else
      let w := wakeUp s
      let ls := hostLines w a bytes.length
      let ps := (upTo bytes.length).zip bytes
      let counted := if ∀ e ∈ ps, isExported w (a + e.1) = true then w
        else { w with host := { w.host with dropped := w.host.dropped + 1 } }
      settle (ps.foldl (fun st e => if isExported st (a + e.1) then putByte st (a + e.1) e.2 else st)
        (stampLines (l2WriteAll (mergeLines counted ls) (ls.map (fun x => ⟨x, .committed, false⟩))).1 ls))) := by
  change execBar2Write a bytes s = _
  simp only [execBar2Write, hserves, (inBar2_iff a bytes.length).2 hin, Bool.not_true, Bool.or_self, Bool.false_eq_true, if_false,
    List.all_eq_true]

/-! ## The completion ring (R377) -/

theorem exec_completionFree_of_unserved (hserves : servesHost s = false) : exec (.completionFree k count) s = .next s := by
  change execCompletionFree k count s = _
  rw [execCompletionFree, if_pos (by simp [hserves])]

theorem exec_completionFree_of_context (hserves : servesHost s = true) (hctx : getCtx s k = some c) :
    exec (.completionFree k count) s = .next (flushHeld c.ring.held.length
      (setCtx (wake s) k { c with ring := { c.ring with used := c.ring.used - count } }) k) := by
  change execCompletionFree k count s = _
  rw [execCompletionFree, if_neg (by simp [hserves]), hctx]

end

theorem theHostReadsWritesAndFrees : Claims.TheHostReadsWritesAndFrees := by
  intro s a n k count bytes c w merged timed ls ps counted stamped
  refine ⟨fun hserves => ⟨exec_bar2Read_of_unreached (.inl hserves), exec_bar2Write_of_unreached (.inl hserves),
      exec_completionFree_of_unserved hserves⟩,
    fun hserves => ⟨fun hin hfree => ?_, fun hin hheld => ?_, fun hin hfree => ?_, fun hin hheld => ?_,
      fun hout => exec_bar2Read_of_unreached (.inr (inBar2_eq_false_of_lt hout)),
      fun hout => exec_bar2Write_of_unreached (.inr (inBar2_eq_false_of_lt hout)), exec_completionFree_of_context hserves⟩⟩
  · exact (exec_bar2Read_of_reached hserves hin).trans (congrArg Host.Outcome.next (if_neg (Bool.eq_false_iff.1 hfree)))
  · exact (exec_bar2Read_of_reached hserves hin).trans (congrArg Host.Outcome.next (if_pos hheld))
  · exact (exec_bar2Write_of_reached hserves hin).trans (congrArg Host.Outcome.next (if_neg (Bool.eq_false_iff.1 hfree)))
  · exact (exec_bar2Write_of_reached hserves hin).trans (congrArg Host.Outcome.next (if_pos hheld))

theorem completionEntriesKeepTheirOrder : Claims.CompletionEntriesKeepTheirOrder := by
  intro s k e c hctx
  rw [completionEntry, hctx]
  exact ⟨fun hroom hfirst => if_pos ⟨hroom, hfirst⟩,
    fun hwait => if_neg (fun ⟨hroom, hfirst⟩ => hwait.elim (Nat.not_le.2 hroom) (fun hheld => hheld hfirst))⟩

/-! ## REGISTER_WRITE (R305, R321, R326, R365, R374) -/

theorem exec_registerWrite_of_unmanaged {s : State} (h : manages s = false) (r : SysReg) (v : Nat) :
    exec (.registerWrite r v) s = .next s := by
  change execRegisterWrite r v s = _
  simp only [execRegisterWrite, h, Bool.not_false, if_true]

theorem systemRegistersTakeTheirValue : Claims.SystemRegistersTakeTheirValue := by
  intro s k i v c old queue comm described set w
  refine ⟨fun hmanages r => exec_registerWrite_of_unmanaged hmanages r v, fun hmanages => ?_⟩
  have hexec : ∀ r, exec (.registerWrite r v) s = execRegisterWrite r v s := fun _ => rfl
  simp only [set, hexec, execRegisterWrite, hmanages, Bool.not_true, Bool.false_eq_true, if_false]
  refine ⟨fun hctx => ?_, rfl, rfl, fun hout => ?_, fun hlow hhigh => ?_, fun hi => ?_, rfl⟩
  · simp only [modCtx_of_getCtx (s := wake s) hctx]
    refine ⟨fun hi => ?_, fun hi => ?_, fun hout t ht => ?_, fun hin => ?_, fun hlive t ht => ?_, fun hidle => ?_, rfl, rfl, rfl⟩
    · rw [if_pos hi]
      rfl
    · rw [if_pos hi]
      rfl
    · rw [if_neg (Nat.not_le.2 hout)] at ht
      cases ht
      exact getCtx_setCtx_self _ k c
    · rw [if_pos hin]
    · rw [if_pos hlive] at ht
      cases ht
      exact getCtx_setCtx_self _ k c
    · rw [if_neg (Bool.eq_false_iff.1 hidle)]
  · rw [if_neg (by omega)]
  · rw [if_pos ⟨hlow, hhigh⟩]
  · rw [if_pos hi]

/-- Settles O59: each access of the host and of system software goes through the tests of its register, window or ring, and each outcome of
those tests is one of the statement's cases. -/
theorem hostPort : Obligations.HostPort :=
  ⟨doorbellsMoveTail, theHostReadsWritesAndFrees, completionEntriesKeepTheirOrder, systemRegistersTakeTheirValue⟩

end Sys2Proof.Machine
end

section
/-!
PROOFS. The step of the agenda, what stops the machine, and the state after reset (R378, R381, R388).
-/
namespace Sys2Proof.Machine
open Sys2Proof.Claims

/-! ## Every meaning answers a next state -/

theorem next_of_ite {c : Prop} [Decidable c] {a b : Out} (ha : ∃ t, a = .next t) (hb : ∃ t, b = .next t) :
    ∃ t, (if c then a else b) = .next t := by
  split
  · exact ha
  · exact hb

theorem execVldl_next (v : BitVec 5) (x : BitVec 4) (p : BitVec 3) (i : BitVec 8) (s : State) : ∃ t, execVldl v x p i s = .next t := by
  rw [execVldl]
  split
  · exact ⟨_, rfl⟩
  · exact next_of_ite ⟨_, rfl⟩ ⟨_, rfl⟩

theorem execVstl_next (v : BitVec 4) (x : BitVec 4) (p : BitVec 3) (i : BitVec 8) (s : State) : ∃ t, execVstl v x p i s = .next t := by
  rw [execVstl]
  split <;> exact ⟨_, rfl⟩

theorem execOvl_next (x t : BitVec 5) (s : State) : ∃ u, execOvl x t s = .next u := by
  unfold execOvl
  dsimp only
  split
  · exact ⟨_, rfl⟩
  · exact next_of_ite ⟨_, rfl⟩ ⟨_, rfl⟩

theorem execMxSlotRelease_next (n : Nat) (s : State) : ∃ t, execMxSlotRelease n s = .next t := by
  rw [execMxSlotRelease]
  split
  · exact ⟨_, rfl⟩
  · split
    · exact next_of_ite ⟨_, rfl⟩ ⟨_, rfl⟩
    · exact ⟨_, rfl⟩
    · exact ⟨_, rfl⟩

theorem execMxRowPush_next (n : Nat) (s : State) : ∃ t, execMxRowPush n s = .next t := by
  unfold execMxRowPush
  dsimp only
  split
  · exact ⟨_, rfl⟩
  · split <;> exact ⟨_, rfl⟩

theorem execMtlStep_next (n : Nat) (s : State) : ∃ t, execMtlStep n s = .next t := by
  unfold execMtlStep
  dsimp only
  split
  · exact ⟨_, rfl⟩
  · exact next_of_ite ⟨_, rfl⟩ (next_of_ite (next_of_ite ⟨_, rfl⟩ (next_of_ite ⟨_, rfl⟩ ⟨_, rfl⟩)) (next_of_ite ⟨_, rfl⟩ ⟨_, rfl⟩))

theorem execMxFinish_next (n : Nat) (s : State) : ∃ t, execMxFinish n s = .next t := by
  unfold execMxFinish
  dsimp only
  split
  · exact ⟨_, rfl⟩
  · exact next_of_ite ⟨_, rfl⟩ ⟨_, rfl⟩

/-- Most meanings answer a next state as they are written; the others choose between such answers. -/
theorem exec_next (i : Instr) (s : State) : ∃ t, exec i s = .next t := by
  cases i with
  | br | brp | jmp | call | jmpx | loop | loopi | trap | eret | done | halt | brk | iwait | stl | acr | acw | acs | acsw | mclr | mside
  | wset | interlockedResultLand | preparedAccessResume => exact next_of_ite ⟨_, rfl⟩ ⟨_, rfl⟩
  | vpush | vpop => exact next_of_ite ⟨_, rfl⟩ (next_of_ite ⟨_, rfl⟩ ⟨_, rfl⟩)
  | barc | mwl | mma | mmz | msm => exact next_of_ite ⟨_, rfl⟩ (next_of_ite ⟨_, rfl⟩ (next_of_ite ⟨_, rfl⟩ ⟨_, rfl⟩))
  | mmg | mtl | mout => exact next_of_ite ⟨_, rfl⟩ (next_of_ite ⟨_, rfl⟩ (next_of_ite ⟨_, rfl⟩ (next_of_ite ⟨_, rfl⟩ ⟨_, rfl⟩)))
  | mwait => exact next_of_ite ⟨_, rfl⟩ (next_of_ite (next_of_ite ⟨_, rfl⟩ ⟨_, rfl⟩) (next_of_ite ⟨_, rfl⟩ ⟨_, rfl⟩))
  | vldl v x p i => exact execVldl_next v x p i s
  | vstl v x p i => exact execVstl_next v x p i s
  | ovl x t => exact execOvl_next x t s
  | mxSlotRelease n => exact execMxSlotRelease_next n s
  | mxRowPush n => exact execMxRowPush_next n s
  | mtlStep n => exact execMtlStep_next n s
  | mxFinish n => exact execMxFinish_next n s
  | _ => exact ⟨_, rfl⟩

/-! ## The step -/

theorem step_of_event {s : State} {i : Instr} {rest : List (Option Instr)} (h : s.agenda = some i :: rest) :
    step s = if homeSlot i = 8 then exec i { s with agenda := rest } else .next { s with agenda := rest } := by
  rw [step, h]
  rfl

theorem step_of_pause {s : State} {rest : List (Option Instr)} (h : s.agenda = none :: rest) :
    step s = .next (ownStep { s with agenda := rest }) := by
  rw [step, h]

theorem step_of_empty_agenda {s : State} (h : s.agenda = []) :
    step s = if poweredOn s then .next (ownStep s) else .fault .packageStopped := by
  rw [step, h]

theorem agendaEventIsTheStep : Claims.AgendaEventIsTheStep := by
  intro s i rest hagenda hevent
  rw [step_of_event hagenda, if_pos hevent]

theorem onlyAPackageWithoutPowerStops : Claims.OnlyAPackageWithoutPowerStops := by
  intro s
  refine ⟨fun hnone hoff => by rw [step_of_empty_agenda hnone, if_neg (by simp [hoff])], fun hgo => ?_⟩
  cases hagenda : s.agenda with
  | nil =>
    have hon : poweredOn s = true := hgo.resolve_left (fun h => h hagenda)
    exact ⟨_, by rw [step_of_empty_agenda hagenda, if_pos hon]⟩
  | cons e rest =>
    cases e with
    | none => exact ⟨_, step_of_pause hagenda⟩
    | some i =>
      rw [step_of_event hagenda]
      exact next_of_ite (exec_next i _) ⟨_, rfl⟩

/-- Settles O5: the step by the head of the agenda; each meaning that it runs answers a next state. -/
theorem stepRunsTheAgendaAndStopsWithoutPower : Obligations.StepRunsTheAgendaAndStopsWithoutPower :=
  ⟨agendaEventIsTheStep, onlyAPackageWithoutPowerStops⟩

/-! ## Reset -/

/-- Settles O8: every part of the reset state is its default, which the statement writes out. -/
theorem resetLeavesAnEmptyPackage : Obligations.ResetLeavesAnEmptyPackage :=
  ⟨rfl, rfl, fun _ => rfl, fun _ => ⟨rfl, rfl, rfl⟩, rfl, rfl, rfl, rfl, rfl, rfl, rfl, rfl, rfl, rfl, rfl⟩

end Sys2Proof.Machine
end

section
/-!
PROOFS. Launches in their turn: records read (R374, R376), admission (R249, R252, R259), completion and rehearsal (R260, R269, R270), the curtain
(R261, R262) and what is freed after it (R252, R263).
-/
namespace Sys2Proof.Machine
open Sys2Proof.Claims

/-! ## ADMISSION_READ (R374, R376) -/

theorem queueReadable_iff (c : Ctx) (q : Nat) :
    queueReadable c q = true ↔
      let queue : Queue := spGet {} c.queues q
      c.state ≠ .killed ∧ c.state ≠ .flying ∧ queue.en = true ∧ queue.head ≠ queue.tail ∧ queue.asked = false ∧ nextRung c = some q := by
  simp [queueReadable, ctxAdmits, and_assoc]

/-- What becomes of the record at HEAD of a queue that can be read, by the translation of its address. -/
theorem exec_admissionRead_of_readable {s : State} {k q : Nat} {c : Ctx} (hc : getCtx s k = some c) (hq : queueReadable c q = true) :
    exec (.admissionRead k q) s = .next (
      let va := (spGet {} c.queues q : Queue).recordVa
      match xlatCtx s c va with
      | .pkg p true _ =>
        if heldByPrepared s ⟨k, 0, false, mergedSlot⟩ p 512 then s
        else takeHostRecord (readDirect s p 512) k q (rawNat (readDirect s p 512) p 512)
      | .remote tgt node addr true _ => requestRecord s k q tgt node addr va
      | _ => announcePage s k (va / 65536)) := by
  change execAdmissionRead k q s = _
  simp only [execAdmissionRead, hc, hq, Bool.not_true, Bool.false_eq_true, if_false] <;> rfl

theorem recordsOfTheHostReachAdmission : Claims.RecordsOfTheHostReachAdmission := by
  intro s k q p tgt node addr c w cause queue hc hkilled hflying hen hne hasked hnext
  have hexec := exec_admissionRead_of_readable hc
    ((queueReadable_iff c q).2 ⟨hkilled, hflying, hen, hne, hasked, hnext⟩)
  refine ⟨fun hx hfree => ?_, fun hx hheld => ?_, fun hx => ?_, fun hx => ?_⟩
  · simpa [queue, hx, hfree] using hexec
  · simpa [queue, hx, hheld] using hexec
  · simpa [queue, hx] using hexec
  · rcases hx with hx | hx <;> simpa [queue, hx] using hexec

/-! ## ADMISSION (R249, R252, R259, R288) -/

theorem FootEntry.overlaps_comm (e q : FootEntry) : e.overlaps q = q.overlaps e := Bool.and_comm _ _

theorem launchesConflict_iff (a b : LaunchRec) : launchesConflict a b = true ↔ footprintsMeet a b := by
  simp only [launchesConflict, footprintsMeet, Bool.or_eq_true, List.any_eq_true, Bool.and_eq_true, bne_iff_ne]
  constructor
  · rintro (⟨e, he, hw, q, hq, hk, ho⟩ | ⟨q, hq, hw, e, he, hk, ho⟩)
    · exact ⟨e, he, q, hq, ho, .inl ⟨hw, hk⟩⟩
    · exact ⟨e, he, q, hq, by rwa [FootEntry.overlaps_comm], .inr ⟨hw, hk⟩⟩
  · rintro ⟨e, he, q, hq, ho, ⟨hw, hk⟩ | ⟨hw, hk⟩⟩
    · exact .inl ⟨e, he, hw, q, hq, hk, ho⟩
    · exact .inr ⟨q, hq, hw, e, he, hk, by rwa [FootEntry.overlaps_comm]⟩

/-- The tests of admission are the order of R249 and R259. -/
theorem orderAdmits_iff_inOrder (c : Ctx) (l : Launch) : orderAdmits c l = true ↔ inOrder c l := by
  simp only [orderAdmits, inOrder, ← launchesConflict_iff, Bool.and_eq_true, List.all_eq_true, List.mem_filter, and_assoc, and_imp,
    bne_iff_ne, Bool.or_eq_true, Bool.not_eq_true', Bool.not_eq_true, Bool.and_eq_false_imp, ne_eq]
  constructor
  · rintro ⟨hqueue, hwait, hmeet, hown, hother⟩
    refine ⟨fun y hy hmay hw => ?_, fun y hy hw hmay => ?_, fun y hy hne hlive hmay => ?_, fun y hy hne hlive hmay => ⟨?_, ?_⟩⟩
    · simpa [hw, hmay] using hqueue y hy
    · simpa [hw, hmay] using hwait y hy
    · simpa [hlive, hmay] using hmeet y hy hne
    · exact hown.elim id (fun h => absurd (h y hy hne) (by simp [hlive, hmay]))
    · simpa [hlive, hmay] using hother y hy hne
  · rintro ⟨hqueue, hwait, hmeet, hexclusive⟩
    refine ⟨fun y hy => ?_, fun y hy => ?_, fun y hy hne => ?_, ?_, fun y hy hne => ?_⟩
    · grind
    · grind
    · grind
    · by_cases hflag : l.desc.flag 2 = false
      · exact .inl hflag
      · exact .inr (fun y hy hne => by grind)
    · grind

theorem admissible_iff (s : State) (c : Ctx) (l : Launch) :
    admissible s c l = true ↔
      l.phase = .waiting ∧ (c.state ≠ .killed ∧ c.state ≠ .flying) ∧ inOrder c l ∧ roomFor s c l = true := by
  simp [admissible, ctxAdmits, ← orderAdmits_iff_inOrder, and_assoc]

theorem admissionStartsALaunch : Claims.AdmissionStartsALaunch := by
  intro s k h c l s1 s2 ⟨hc, hl⟩
  have hexec : exec (.admission k h) s = execAdmission k h s := rfl
  rw [hexec, execAdmission]
  simp only [hc, hl]
  refine ⟨fun hwait hkilled hflying horder hroom => ?_, fun hno => ?_⟩
  · have hadm := (admissible_iff s c l).2 ⟨hwait, ⟨hkilled, hflying⟩, horder, hroom⟩
    simp only [hadm, Bool.not_true, Bool.false_eq_true, if_false]
    rfl
  · have hadm : ¬ admissible s c l = true := fun h => by
      obtain ⟨hwait, -, horder, hroom⟩ := (admissible_iff s c l).1 h
      rcases hno with hno | hno | hno
      · exact hno hwait
      · exact hno horder
      · simp [hroom] at hno
    simp [hadm]

/-- Settles O44: the tests of each event are the conditions of the statement, and each outcome is written out. -/
theorem launchesAreAdmitted : Obligations.LaunchesAreAdmitted :=
  ⟨recordsOfTheHostReachAdmission, admissionStartsALaunch⟩

/-! ## LAUNCH_COMPLETE and REHEARSAL_COMPARE (R260, R269, R270) -/

theorem launchesCompleteOrDiffer : Claims.LaunchesCompleteOrDiffer := by
  intro s k h i c l complete ⟨hc, hl⟩ hdone
  have hcomplete : exec (.launchComplete k h) s = execLaunchComplete k h s := rfl
  have hcompare : exec (.rehearsalCompare k h) s = execRehearsalCompare k h s := rfl
  refine ⟨fun hflag => ?_, fun hflag hsame => ?_, fun hflag hdiffer => ?_⟩
  · simp only [hcomplete, execLaunchComplete, hc, hl, hflag, hdone, Bool.not_false, Bool.and_self, if_true]
    rfl
  · simp only [hcompare, execRehearsalCompare, hc, hl, hflag, hdone, hsame, Bool.not_true, Bool.or_self, Bool.false_eq_true, if_false]
    rfl
  · simp only [hcompare, execRehearsalCompare, hc, hl, hflag, hdone, hdiffer, Bool.not_true, Bool.or_self, Bool.false_eq_true, if_false]

/-- Entry j of a launch is a written one whose digests differ. -/
def EntryDiffers (l : Launch) (j : Nat) : Prop :=
  ∃ e, l.desc.foot[j]? = some e ∧ e.kind = 2 ∧ digestOf l false e ≠ digestOf l true e

/-- The comparison looks at the entries from the lowest on, so the one that it finds is the lowest that differs. -/
theorem firstMismatch_eq_some_iff (l : Launch) (i : Nat) :
    firstMismatch l = some i ↔ EntryDiffers l i ∧ i < l.desc.foot.length ∧ ∀ j < i, ¬ EntryDiffers l j := by
  rw [firstMismatch, upTo_eq_range, List.find?_range_eq_some]
  have htest : ∀ j, (match l.desc.foot[j]? with
      | some e => e.kind == 2 && decide (digestOf l false e ≠ digestOf l true e)
      | none => false) = true ↔ EntryDiffers l j := by
    intro j
    cases hj : l.desc.foot[j]? <;> simp [EntryDiffers, hj]
  refine and_congr (htest i) (and_congr List.mem_range (forall₂_congr fun j _ => ?_))
  exact (Bool.not_eq_true' _).to_iff.trans (Bool.eq_false_iff.trans (not_congr (htest j)))

theorem theLowestDifferingEntryIsReported : Claims.TheLowestDifferingEntryIsReported := by
  intro l i hfirst
  obtain ⟨hdiffers, -, hlower⟩ := (firstMismatch_eq_some_iff l i).1 hfirst
  exact ⟨hdiffers, fun j hj e he hkind => by_contra fun hne => hlower j hj ⟨e, he, hkind, hne⟩⟩

/-- Settles O45: completion by the outcome of its test, the reported entry by the order in which entries are compared. -/
theorem launchesComplete : Obligations.LaunchesComplete :=
  ⟨launchesCompleteOrDiffer, theLowestDifferingEntryIsReported⟩

/-! ## LAUNCH_COMMIT (R256, R261, R262) -/

theorem launchesCommitInTurn : Claims.LaunchesCommitInTurn := by
  intro s k h p slot run c l hs ⟨hc, hl⟩ hturn
  have hexec : exec (.launchCommit k h) s = execLaunchCommit k h s := rfl
  simp only [hexec, execLaunchCommit, hc, hl, hturn, Bool.not_true, Bool.false_eq_true, if_false]
  refine ⟨fun horigin => ?_, fun horigin hnone => ?_, fun horigin hhs hne => ?_⟩
  · simp only [horigin]
  · simp only [horigin, hnone]
  · obtain ⟨y, ys, rfl⟩ := List.exists_cons_of_ne_nil hne
    simp only [horigin, hhs]
    rfl

theorem preparedLaunchesAreMarkedOrAborted : Claims.PreparedLaunchesAreMarkedOrAborted := by
  intro s k h holder l left hl
  have hacked : l.phase = .preparing → holder ∈ l.holders → exec (.prepareAcknowledge k h holder) s =
      .next (if left.isEmpty then markLaunch s k { l with holders := left } else launchIs s k h (fun _ => { l with holders := left })) :=
    fun hphase hmem => by
      change Host.Outcome.next (prepareAck s k h holder) = _
      rw [prepareAck, hl]
      exact congrArg Host.Outcome.next (if_neg (by simp [hphase, hmem]))
  have htimeout : exec (.prepareTimeout k h) s = execPrepareTimeout k h s := rfl
  have hquery : exec (.commitOutcomeQuery k h holder) s = execCommitOutcomeQuery k h holder s := rfl
  refine ⟨fun hphase hmem hlast => ?_, fun hphase hmem hmore => ?_, fun hphase hby => ?_, fun hphase hholder => ?_⟩
  · simpa only [left, List.isEmpty_iff, hlast, if_true] using hacked hphase hmem
  · simpa only [left, List.isEmpty_iff, hmore, if_false] using hacked hphase hmem
  · simp [htimeout, execPrepareTimeout, hl, hphase, hby]
  · simp [hquery, execCommitOutcomeQuery, hl, Launch.ended, hphase, hholder]

/-! ## VERSION_FREE and PREPARED_ACCESS_RESUME (R252, R263) -/

theorem versionsAndLinesAreFreed : Claims.VersionsAndLinesAreFreed := by
  intro s entry n line v without
  have hfree : ∀ die, exec (.versionFree die entry) s = execVersionFree die entry s := fun _ => rfl
  have hresume : exec (.preparedAccessResume n) s = execPreparedAccessResume n s := rfl
  refine ⟨fun hunused hfind => ?_, fun hunused hfind => ?_, fun hused hfind => ?_, fun hn hon hfreeLine => ?_, fun hn => ?_⟩
  · simp [hfree, execVersionFree, hfind, hunused, without]
  · simp [hfree, execVersionFree, hfind, hunused, without]
  · simp [hfree, execVersionFree, hfind, hused]
  · simp only [hresume, execPreparedAccessResume, if_neg (Nat.not_le.2 hn), hon, hfreeLine, Bool.false_eq_true, if_false]
    rfl
  · rw [hresume, execPreparedAccessResume, if_pos hn]

/-- Settles O46: each event of the curtain by the outcomes of its tests. -/
theorem launchesCommit : Obligations.LaunchesCommit :=
  ⟨launchesCommitInTurn, preparedLaunchesAreMarkedOrAborted, versionsAndLinesAreFreed⟩

end Sys2Proof.Machine
end

section
/-!
PROOFS. The steps of the lanes and the grants of the hops (R366 to R368).
-/
namespace Sys2Proof.Machine
open Sys2Proof.Claims

/-! ## The step that goes first (R368) -/

/-- The better of a step found before and the next one. -/
def better (before : ChunkStep → ChunkStep → Bool) (best : Option ChunkStep) (x : ChunkStep) : Option ChunkStep :=
  match best with
  | none => some x
  | some b => if before x b then some x else some b

theorem firstStep_eq_foldl (before : ChunkStep → ChunkStep → Bool) (xs : List ChunkStep) :
    firstStep before xs = xs.foldl (better before) none := rfl

/-- Where the order follows a rank, the step found first ranks with or above every other, and is one of them. -/
theorem foldl_better_spec {before : ChunkStep → ChunkStep → Bool} {rank : ChunkStep → Nat}
    (hyes : ∀ x y, before x y = true → rank y ≤ rank x) (hno : ∀ x y, before x y = false → rank x ≤ rank y) (xs : List ChunkStep) :
    ∀ b, ∃ e, xs.foldl (better before) (some b) = some e ∧ (e = b ∨ e ∈ xs) ∧ rank b ≤ rank e ∧ ∀ y ∈ xs, rank y ≤ rank e := by
  induction xs with
  | nil => exact fun b => ⟨b, rfl, .inl rfl, Nat.le_refl _, by simp⟩
  | cons x xs ih =>
    intro b
    cases hx : before x b with
    | true =>
      obtain ⟨e, he, hmem, hle, hall⟩ := ih x
      refine ⟨e, by simpa [better, hx] using he, .inr (by simpa using hmem), (hyes x b hx).trans hle, ?_⟩
      simpa using ⟨hle, hall⟩
    | false =>
      obtain ⟨e, he, hmem, hle, hall⟩ := ih b
      refine ⟨e, by simpa [better, hx] using he, hmem.imp id (List.mem_cons_of_mem _), hle, ?_⟩
      simpa using ⟨(hno x b hx).trans hle, hall⟩

theorem firstStep_eq_none_iff (before : ChunkStep → ChunkStep → Bool) (xs : List ChunkStep) : firstStep before xs = none ↔ xs = [] := by
  cases xs with
  | nil => simp [firstStep]
  | cons x xs =>
    obtain ⟨e, he, -⟩ := foldl_better_spec (before := before) (rank := fun _ => 0) (fun _ _ _ => Nat.le_refl _) (fun _ _ _ => Nat.le_refl _) xs x
    simp [firstStep_eq_foldl, better, he]

theorem firstStep_spec {before : ChunkStep → ChunkStep → Bool} {rank : ChunkStep → Nat} {xs : List ChunkStep} {e : ChunkStep}
    (hyes : ∀ x y, before x y = true → rank y ≤ rank x) (hno : ∀ x y, before x y = false → rank x ≤ rank y)
    (h : firstStep before xs = some e) : e ∈ xs ∧ ∀ y ∈ xs, rank y ≤ rank e := by
  cases xs with
  | nil => simp [firstStep] at h
  | cons x xs =>
    obtain ⟨e', he, hmem, hle, hall⟩ := foldl_better_spec hyes hno xs x
    obtain rfl : e' = e := Option.some.inj (he.symm.trans h)
    exact ⟨by simpa using hmem, by simpa using ⟨hle, hall⟩⟩

/-- Among steps that have not waited long, the higher class goes first, and within a class the older grant (R368). -/
def goesFirst (x y : ChunkStep) : Bool := decide (y.cls < x.cls) || (x.cls == y.cls && x.before y)

theorem cls_le_of_goesFirst (x y : ChunkStep) (h : goesFirst x y = true) : y.cls ≤ x.cls := by
  simp only [goesFirst, Bool.or_eq_true, decide_eq_true_eq, Bool.and_eq_true, beq_iff_eq] at h
  omega

theorem cls_le_of_not_goesFirst (x y : ChunkStep) (h : goesFirst x y = false) : x.cls ≤ y.cls := by
  simp only [goesFirst, Bool.or_eq_false_iff, decide_eq_false_iff_not] at h
  omega

theorem noHigherClassIsPassedOver : Claims.NoHigherClassIsPassedOver := by
  intro steps e h
  rw [takeStep] at h
  split at h
  · next x hold =>
    obtain rfl : x = e := Option.some.inj h
    obtain ⟨hmem, -⟩ := firstStep_spec (rank := fun _ => 0) (fun _ _ _ => Nat.le_refl _) (fun _ _ _ => Nat.le_refl _) hold
    obtain ⟨hin, hwaited⟩ := List.mem_filter.1 hmem
    exact ⟨hin, .inl (of_decide_eq_true hwaited)⟩
  · next hnone =>
    have hyoung : ∀ y ∈ steps, y.waited < 16 := by
      simpa [firstStep_eq_none_iff, List.filter_eq_nil_iff] using hnone
    obtain ⟨hin, hclass⟩ := firstStep_spec cls_le_of_goesFirst cls_le_of_not_goesFirst h
    exact ⟨hin, .inr fun y hy => ⟨hclass y hy, hyoung y hy⟩⟩

/-! ## LANE_BOUNDARY and HOP_GRANT (R366 to R368) -/

theorem exec_laneBoundary_of_lane {s : State} {lane : Nat} (h : lane < 8) :
    let s1 := planFuel (4 * (allColls s).length + 4) s
    exec (.laneBoundary lane) s = .next (
      match takeStep (s1.chorus.steps.filter (stepCan s1)) with
      | none => s1
      | some x =>
        let rest := (s1.chorus.steps.filter (fun y => decide (y ≠ x))).map (fun y =>
          if stepCan s1 y then { y with waited := y.waited + 1 } else y)
        makeStep { s1 with chorus := { s1.chorus with steps := rest } } x) := by
  change execLaneBoundary lane s = _
  rw [execLaneBoundary, if_neg (Nat.not_le.2 h)] <;> rfl

/-- A request that is granted next is one of its pool that its rank has posted, and its slots are held for it or free. -/
theorem nextGrant_spec {s : State} {pool : Nat} {r : SlotRequest} (h : nextGrant s pool = some r) :
    r ∈ spGet [] s.chorus.requests pool ∧ requestPosted s r = true ∧
      (slotsFor s r (pool / 4) = [] ∨ spGet 0 s.chorus.used pool + (slotsFor s r (pool / 4)).length ≤ 32) := by
  simp only [nextGrant] at h
  split at h
  · next q heq =>
    obtain rfl : q = r := Option.some.inj h
    obtain ⟨hin, hposted⟩ := List.mem_filter.1 (List.mem_of_find?_eq_some heq)
    exact ⟨hin, hposted, .inl (by simpa using List.find?_some heq)⟩
  · next q rs hnone heq =>
    split at h
    · next hroom =>
      obtain rfl : q = r := Option.some.inj h
      obtain ⟨hin, hposted⟩ := List.mem_filter.1 (heq ▸ List.mem_cons_self : q ∈ _)
      exact ⟨hin, hposted, .inr hroom⟩
    · cases h
  · cases h

theorem lanesMakeStepsAndHopsGrant : Claims.LanesMakeStepsAndHopsGrant := by
  intro s lane cls phase pool e r c s1 able rest named keys granted answer
  have hgrant : exec (.hopGrant cls phase) s = execHopGrant cls phase s := rfl
  refine ⟨fun hlane htake => ?_, fun hlane htake => ?_, fun hnext hc => ?_, fun hnext => ?_, nextGrant_spec⟩
  · refine (exec_laneBoundary_of_lane hlane).trans ?_
    rw [htake]
  · refine (exec_laneBoundary_of_lane hlane).trans ?_
    rw [htake]
  · rw [hgrant, execHopGrant, hnext]
    change Host.Outcome.next (match getCtx s r.ctx with
      | none => granted
      | some c => _) = _
    rw [hc]
  · rw [hgrant, execHopGrant, hnext]

/-- Settles O47: the step of a lane by what its order ranks first, the grant of a pool by its tests. -/
theorem chorusSteps : Obligations.ChorusSteps :=
  ⟨lanesMakeStepsAndHopsGrant, noHigherClassIsPassedOver⟩

end Sys2Proof.Machine
end

section
/-!
PROOFS. Pre-emption decisions (R319 to R322, R428), what ends and restarts contexts (R326, R327, R352), their creation (R350, R353) and the
debugger's hold on them (R312, R332, R334).
-/
namespace Sys2Proof.Machine
open Sys2Proof.Claims

/-! ## The outcome of one core (Table 14.2) -/

theorem putBackTget_of_no_sync {s : State} {n : Nat} (h : (getCore s n).sync = []) : putBackTget s n = s := by
  unfold putBackTget
  simp only [h, List.foldl_nil]
  split <;> rfl

theorem decideCore_of_no_task {s : State} {n k tokens : Nat} {spent : Bool} (ht : (getCore (putBackTget s n) n).task = none) :
    decideCore s n k tokens spent = modCore (putBackTget s n) n (fun q => { q with outcome := .nothing }) := by
  rw [decideCore, ht]

theorem decideCore_of_held {s : State} {n k tokens : Nat} {spent : Bool} {t : Task} (ht : (getCore (putBackTget s n) n).task = some t)
    (hp : t.phase = .held) : decideCore s n k tokens spent = putBackWork (putBackTget s n) n k t := by
  simp only [decideCore, ht, hp]

theorem decideCore_of_ending {s : State} {n k tokens : Nat} {spent b : Bool} {t : Task}
    (ht : (getCore (putBackTget s n) n).task = some t) (hp : t.phase = .ending b) :
    decideCore s n k tokens spent = modCore (putBackTget s n) n (fun q => { q with outcome := .drain, drainBy := none }) := by
  simp only [decideCore, ht, hp]

/-- A task at work drains within the window, is killed, or stops at once (R321). -/
theorem decideCore_of_atWork {s : State} {n k tokens : Nat} {spent : Bool} {t : Task}
    (ht : (getCore (putBackTget s n) n).task = some t) (hp : atWork t) :
    let back := putBackTget s n
    decideCore s n k tokens spent =
      if (!spent && decide ((getCore back n).dev.est.toNat ≤ back.plat.wd)) = true then
        modCore back n (fun q => { q with outcome := .drain, drainBy := some (q.now + back.plat.wd) })
      else if (decide (back.plat.tk ≤ tokens) || !t.ckpt) = true then killOutcome back n k t
      else modCore back n stopCore := by
  obtain ⟨hheld, hending⟩ := hp
  cases hphase : t.phase with
  | held => exact absurd hphase hheld
  | ending b => exact absurd hphase (hending b)
  | loading => simp only [decideCore, ht, hphase]
  | running => simp only [decideCore, ht, hphase]

theorem eachCoreGetsItsOutcome : Claims.EachCoreGetsItsOutcome := by
  intro s n k tokens spent b t back c decided
  refine ⟨decideCore_of_no_task, fun ht hp => decideCore_of_held ht hp, fun ht hp => decideCore_of_ending ht hp,
    fun ht hp hspent hest => ?_, fun ht hp hover => ⟨fun hkill => ?_, fun htokens hckpt => ?_⟩, putBackTget_of_no_sync⟩
  · exact (decideCore_of_atWork ht hp).trans (if_pos (by simp [hspent, hest, c, back]))
  all_goals
    have hnodrain : ¬ (!spent && decide (c.dev.est.toNat ≤ back.plat.wd)) = true := by
      rcases hover with h | h
      · simp [h]
      · simp [Nat.not_le.2 h]
    refine (decideCore_of_atWork ht hp).trans ((if_neg hnodrain).trans ?_)
  · exact if_pos (by simpa [back] using hkill)
  · exact if_neg (by simp [back, htokens, hckpt])

/-! ## PREEMPT_DECISION and DRAIN_WINDOW_EXPIRE (R319, R321, R322) -/

theorem exec_preemptDecision_of_not_decidable {s : State} {k v h : Nat} {c : Ctx} (hc : getCtx s k = some c) (hd : ¬ decidable s k c) :
    exec (.preemptDecision k v h) s = .next s := by
  have hno : mayDecide s k c = false := Bool.eq_false_iff.2 (fun hm => hd ((mayDecide_iff_decidable s k c).1 hm))
  change execPreemptDecision k v h s = _
  simp only [execPreemptDecision, hc, hno, Bool.not_false, Bool.true_or, if_true]

theorem needsClusters_of_wantsClusters {s : State} {v h : Nat} {x : Ctx} {l : Launch} (hw : wantsClusters s v h x l) :
    needsClusters s v h = true := by
  obtain ⟨hx, hl, hstate, hlive, hnew, hplace⟩ := hw
  rw [needsClusters, hx, hl]
  simpa [hlive, hnew, hplace] using hstate

theorem decisionsReachEveryCore : Claims.DecisionsReachEveryCore := by
  intro s k v h n d c x l t told core
  refine ⟨fun hc hd hw => ?_, exec_preemptDecision_of_not_decidable, fun hctx hc hby ht hwork hdrain hdue => ?_⟩
  · have hl : getLaunch s v h = some l := hw.2.1
    change execPreemptDecision k v h s = _
    simp only [execPreemptDecision, hc, (mayDecide_iff_decidable s k c).2 hd, needsClusters_of_wantsClusters hw, hl, Bool.not_true,
      Bool.or_self, Bool.false_eq_true, if_false]
    rfl
  · obtain ⟨hheld, hending⟩ := hwork
    change execDrainWindowExpire n s = _
    simp only [execDrainWindowExpire, core] at hctx hby ht hdrain hdue ⊢
    simp only [hctx, hby, ht, hc, hdrain, hdue, and_self, if_true]
    cases hphase : t.phase with
    | ending b => exact absurd hphase (hending b)
    | held => exact absurd hphase hheld
    | loading => rfl
    | running => rfl

/-- Settles O51: Table 14.2 by the phase of the core's task, and the two events by their tests. -/
theorem decisionsGiveEachCoreItsOutcome : Obligations.DecisionsGiveEachCoreItsOutcome :=
  ⟨eachCoreGetsItsOutcome, decisionsReachEveryCore⟩

/-- Settles O52: each of the four conditions shuts out that the context is decidable. -/
theorem noDecisionDuringASaveOrDrain : Obligations.NoDecisionDuringASaveOrDrain := by
  intro s k newcomer launch c hc hbusy
  refine exec_preemptDecision_of_not_decidable hc ?_
  rintro ⟨-, hsaving, hrestoring, hdecided, hheld⟩
  simp [hsaving, hrestoring, hdecided, hheld] at hbusy

/-! ## WATCHDOG_FIRE, CONTEXT_KILL, CONTEXT_RESUME and CONTEXT_FREE (R326, R327, R352) -/

theorem contextsAreKilledResumedAndFreed : Claims.ContextsAreKilledResumedAndFreed := by
  intro s k j c gone link hc
  have hfire : exec (.watchdogFire k) s = execWatchdogFire k s := rfl
  have hkill : exec (.contextKill k) s = execContextKill k s := rfl
  have hresume : exec (.contextResume k) s = execContextResume k s := rfl
  have hfree : exec (.contextFree k) s = execContextFree k s := rfl
  simp only [hfire, hkill, hresume, hfree, execWatchdogFire, execContextKill, execContextResume, execContextFree, hc]
  refine ⟨fun hdog hcount => by rw [if_pos ⟨hdog, hcount⟩], fun hquiet => ?_, fun hlive => by rw [if_neg hlive], fun hkilled hroom hk => ?_,
    fun hkilled hroom hk hfind => ?_, fun hno => by rw [if_pos hno], fun hkilled => ?_, fun hlive => by rw [if_pos hlive]⟩
  · rw [if_neg]
    rintro ⟨hdog, hcount⟩
    rcases hquiet with hoff | hless
    · simp [hoff] at hdog
    · omega
  · rw [if_neg (by simp [hkilled, hroom])]
    simp only [if_pos hk, if_true, modCtx_of_getCtx hc]
  · have hj : j < 64 := by
      rw [upTo_eq_range] at hfind
      exact List.mem_range.1 (List.mem_of_find?_eq_some hfind)
    rw [if_neg (by simp [hkilled, hroom])]
    simp only [if_neg (Nat.not_lt.2 hk), hfind, if_neg (show j ≠ k by omega)]
  · rw [if_neg (by simp [hkilled])]
    rfl

/-! ## Memory wiped (R350, Table 15.9) -/

/-- What a filter of addresses leaves of sparse storage. -/
theorem spGet_filter {α : Type} (d : α) (f : Nat → Bool) (m : Sparse α) (a : Nat) :
    spGet d (m.filter (fun e => f e.1)) a = if f a then spGet d m a else d := by
  induction m with
  | nil => simp
  | cons e m ih =>
    obtain ⟨k, v⟩ := e
    by_cases ha : a = k
    · subst ha
      cases hf : f a <;> simp_all [spGet]
    · cases hf : f k <;> simp [spGet, hf, ha, ih]

theorem rawByte_wipeAll (s : State) (lo size p : Nat) :
    rawByte (wipeAll s lo size) p = if lo ≤ p ∧ p < lo + size then 0 else rawByte s p := by
  change spGet restByte (spClear s.mem lo (lo + size)) p = _
  rw [spClear, spGet_filter restByte (fun a => decide (a < lo) || decide (lo + size ≤ a))]
  by_cases hp : lo ≤ p ∧ p < lo + size
  · rw [if_pos hp, if_neg (by simp; omega)]
    rfl
  · rw [if_neg hp, if_pos (by simp; omega)]
    rfl

theorem mem_tags_wipeAll {s : State} {lo size w : Nat} :
    w ∈ (wipeAll s lo size).tags ↔ w ∈ s.tags ∧ (4 * w < lo ∨ lo + size ≤ 4 * w) := by
  change w ∈ s.tags.filter (fun t => decide (4 * t < lo) || decide (lo + size ≤ 4 * t)) ↔ _
  simp

/-- Ranges of memory wiped one after the other. -/
def wipeRanges (s : State) (us : List (Nat × Nat)) : State := us.foldl (fun st u => wipeAll st u.1 u.2) s

/-- Bytes that one of the ranges holds read as zero once all are wiped. -/
theorem rawByte_wipeRanges (us : List (Nat × Nat)) (p : Nat) : ∀ s : State,
    rawByte (wipeRanges s us) p = if ∃ u ∈ us, u.1 ≤ p ∧ p < u.1 + u.2 then 0 else rawByte s p := by
  induction us with
  | nil => simp [wipeRanges]
  | cons u us ih =>
    intro s
    rw [wipeRanges, List.foldl_cons, ← wipeRanges, ih, rawByte_wipeAll]
    by_cases hrest : ∃ v ∈ us, v.1 ≤ p ∧ p < v.1 + v.2
    · rw [if_pos hrest, if_pos (by obtain ⟨v, hv, hp⟩ := hrest; exact ⟨v, List.mem_cons_of_mem _ hv, hp⟩)]
    · rw [if_neg hrest]
      exact ite_congr (propext (by simp [List.mem_cons, or_and_right, exists_or, hrest])) (fun _ => rfl) (fun _ => rfl)

theorem mem_tags_wipeRanges {us : List (Nat × Nat)} {w : Nat} : ∀ {s : State},
    w ∈ (wipeRanges s us).tags ↔ w ∈ s.tags ∧ ∀ u ∈ us, 4 * w < u.1 ∨ u.1 + u.2 ≤ 4 * w := by
  induction us with
  | nil => simp [wipeRanges]
  | cons u us ih =>
    intro s
    rw [wipeRanges, List.foldl_cons, ← wipeRanges, ih, mem_tags_wipeAll]
    simp [and_assoc]

/-- The parts of a range that another job used last are wiped before the range passes on, where nothing in use is kept. -/
theorem claimRange_wipes {s : State} {base size job a : Nat} {u : LastUse} (hu : u ∈ s.hw.lastUse) (hjob : u.job ≠ job)
    (hlo : base ≤ a) (hhi : a < base + size) (hulo : u.base ≤ a) (huhi : a < u.base + u.size) :
    rawByte (claimRange s [] base size job) a = 0 ∧
      ∀ w ∈ (claimRange s [] base size job).tags, w = a / 4 → 4 * w < max base u.base := by
  let us := (usedByOther s base size job).flatMap (fun v => cutOut [] v.1 v.2)
  let part : Nat × Nat := (max base u.base, min (base + size) (u.base + u.size) - max base u.base)
  have hin : part.1 ≤ a ∧ a < part.1 + part.2 := by simp only [part]; omega
  have hused : part ∈ usedByOther s base size job :=
    List.mem_map.2 ⟨u, List.mem_filter.2 ⟨hu, by simp [hjob]; omega⟩, rfl⟩
  have hcut : part ∈ us := List.mem_flatMap.2 ⟨part, hused, by
    rw [cutOut, if_neg (by omega)]
    exact List.mem_singleton.2 rfl⟩
  have hmem : (claimRange s [] base size job).mem = (wipeRanges s us).mem := by rw [claimRange, if_neg (by omega)]; rfl
  have htags : (claimRange s [] base size job).tags = (wipeRanges s us).tags := by rw [claimRange, if_neg (by omega)]; rfl
  constructor
  · rw [rawByte, hmem]
    exact (rawByte_wipeRanges us a s).trans (if_pos ⟨part, hcut, hin⟩)
  · rintro w hw rfl
    rw [htags] at hw
    have hout := (mem_tags_wipeRanges.1 hw).2 part hcut
    simp only [part] at hin hout
    omega

/-! ## CONTEXT_CREATE (R11, R350, R352, R353, R366) -/

theorem paramsFit_job {s : State} {p : ContextParams} (h : paramsFit s p = true) : p.job ≠ 0 ∧ p.job < 2 ^ 32 := by
  simp only [paramsFit, Bool.and_eq_true, bne_iff_ne, decide_eq_true_eq, and_assoc] at h
  exact ⟨h.1, h.2.1⟩

/-- Clearing a slot leaves who used memory last. -/
theorem vacate_lastUse (s : State) (k : Nat) : (vacate s k).hw.lastUse = s.hw.lastUse := by
  unfold vacate renumberCtx
  split
  · split <;> rfl
  · rfl

theorem contextsAreCreatedParkedAndWiped : Claims.ContextsAreCreatedParkedAndWiped := by
  intro s k p s0 s1 place granted t
  have hcreate : exec (.contextCreate k p) s =
      .next (if (!slotFree s k || !paramsFit s p || mapsTaken s1 k) = true then post s (.refused 1)
        else { t with link := { t.link with code := spErase t.link.code k } }) := rfl
  refine ⟨fun hslot hfit hmaps => ?_, fun u hu hjob a hlo hhi hulo huhi => ?_, fun hno => ?_⟩
  · rw [hcreate, if_neg (by simp [hslot, hfit, hmaps])]
  · exact claimRange_wipes (by rwa [setCtx_hw, vacate_lastUse]) hjob hlo hhi hulo huhi
  · rw [hcreate, if_pos]
    by_contra hgo
    simp only [Bool.or_eq_true, Bool.not_eq_true', not_or, Bool.not_eq_false, Bool.not_eq_true] at hgo
    obtain ⟨⟨hslot, hfit⟩, hmaps⟩ := hgo
    obtain ⟨hzero, hlarge⟩ := paramsFit_job hfit
    simp [hslot, hfit, hmaps, hzero] at hno
    omega

/-! ## DBG_SET, DEBUGGER_ATTACH, DEBUG_RESUME and DEBUG_CONTEXT_SAVE (R312, R332, R334) -/

theorem theDebuggerSetsResumesAndSaves : Claims.TheDebuggerSetsResumesAndSaves := by
  intro s k n i v on c core back resumed hc
  have hattach : exec (.debuggerAttach k on) s = execDebuggerAttach k on s := rfl
  have hset : exec (.dbgSet k n i v) s = execDbgSet k n i v s := rfl
  have hresume : exec (.debugResume n) s = execDebugResume n s := rfl
  have hsave : exec (.debugContextSave k) s = execDebugContextSave k s := rfl
  refine ⟨?_, fun hi hn => ?_, fun hctx hheld hrun hrestoring hsaving => ?_, fun hheld => ?_, fun hrun hsaving hrestoring hheld => ?_,
    fun hheld => ?_⟩
  · rw [hattach, execDebuggerAttach, modCtx_of_getCtx hc]
  · rw [hset, execDbgSet, modCtx_of_getCtx hc, if_pos ⟨hi, hn⟩]
  · have hgo : ¬ (core.status ≠ .held ∨
        (((getCtx s k).map (fun x => x.state != .running || x.restoring || x.saving)).getD true) = true) := by
      simp [hc, hheld, hrun, hrestoring, hsaving]
    have hexec : exec (.debugResume n) s =
        .next (if ctxHeld resumed k then resumed else modCtx resumed k (fun y => { y with dog := .armed, dogCount := 0 })) := by
      simp only [core] at hctx hgo
      simp only [hresume, execDebugResume, hctx, if_neg hgo]
      rfl
    exact ⟨fun h => by rw [hexec, if_pos h], fun h => by rw [hexec, if_neg (by simp [h])]⟩
  · rw [hresume, execDebugResume]
    split
    · rfl
    · exact congrArg Host.Outcome.next (if_pos (.inl hheld))
  · rw [hsave, execDebugContextSave, hc]
    simp only [hrun, hsaving, hrestoring, hheld, modCtx_of_getCtx hc, ne_eq, not_true, Bool.false_eq_true, Bool.not_true, or_self, if_false]
    rfl
  · rw [hsave, execDebugContextSave, hc]
    exact congrArg Host.Outcome.next (if_pos (by simp [hheld]))

/-- Settles O54: each event by the outcomes of its tests; that a new context finds what another job left wiped follows the range through the
wipes of its grant. -/
theorem contextsLiveAndAreDebugged : Obligations.ContextsLiveAndAreDebugged :=
  ⟨contextsAreKilledResumedAndFreed, contextsAreCreatedParkedAndWiped, theDebuggerSetsResumesAndSaves⟩

end Sys2Proof.Machine
end

section
/-!
PROOFS. Walks, pages and changes of mapping (R295, R328 to R330, R347 to R350, R354): what each event leaves, and that no translation outlives
its mapping.
-/
namespace Sys2Proof.Machine
open Sys2Proof.Claims

/-! ## PAGE_WALK_COMPLETE, PAGE_PRESENT and ADDRESS_INVALID (R295, R328, R329, R348) -/

theorem exec_pageWalkComplete_of_running {s : State} {i : Nat} {w : Walk} {c : Ctx} (hw : s.hw.walks[i]? = some w)
    (hrun : i ∈ runningWalks s) (hc : getCtx s w.ctx = some c) :
    let rest := { s with hw := { s.hw with walks := s.hw.walks.eraseIdx i } }
    let r := walkTable rest c.root (65536 * w.page)
    let cached := enterTlbs rest w (tlbOfWalk (65536 * w.page) r)
    exec (.pageWalkComplete i) s = .next (if r = .malformed then post cached (.pageTable w.ctx w.page) else cached) := by
  intro rest r cached
  have hc' : getCtx rest w.ctx = some c := hc
  have hrun' : (runningWalks s).contains i = true := List.contains_iff_mem.2 hrun
  change execPageWalkComplete i s = _
  simp only [execPageWalkComplete, hw, hrun', Bool.not_true, Bool.false_eq_true, if_false]
  rw [show getCtx { s with hw := { s.hw with walks := s.hw.walks.eraseIdx i } } w.ctx = some c from hc]
  change Host.Outcome.next (match r with
    | .malformed => post cached (.pageTable w.ctx w.page)
    | _ => cached) = _
  cases r <;> simp

theorem exec_pageWalkComplete_of_waiting {s : State} {i : Nat} (hrun : i ∉ runningWalks s) :
    exec (.pageWalkComplete i) s = .next s := by
  have hrun' : (runningWalks s).contains i = false := by simpa using hrun
  change execPageWalkComplete i s = _
  rw [execPageWalkComplete]
  split
  · rfl
  · simp only [hrun', Bool.not_false, if_true]

theorem mem_insertNat {x y : Nat} {xs : List Nat} : x ∈ insertNat y xs ↔ x = y ∨ x ∈ xs := by
  induction xs with
  | nil => simp [insertNat]
  | cons z zs ih =>
    rw [insertNat]
    split
    · simp
    · split
      · next h => subst h; simp
      · simp [ih, or_left_comm]

theorem mem_foldl_insertNat {x : Nat} {ys : List Nat} : ∀ {xs : List Nat},
    x ∈ ys.foldl (fun acc h => insertNat h acc) xs ↔ x ∈ ys ∨ x ∈ xs := by
  induction ys with
  | nil => simp
  | cons y ys ih =>
    intro xs
    rw [List.foldl_cons, ih, mem_insertNat, List.mem_cons]
    tauto

/-- A ready entry whose block lies in a page that is not present. -/
theorem readyAtPage_iff (s : State) (k page : Nat) (w : Work) :
    (match w with
      | .point _ => false
      | .block a => a / 65536 == page && blockHome s k a == .absent) = true ↔
      ∃ a, w = .block a ∧ a / 65536 = page ∧ blockHome s k a = .absent := by
  cases w <;> simp

/-- The launches that wait for a page do so with a point, a held block, a resident program or a ready block. -/
theorem mem_launchesAtPage_iff (s : State) (k page h : Nat) (c : Ctx) :
    h ∈ launchesAtPage s k page c ↔
      (∃ l ∈ c.launches, l.handle = h ∧ ∃ p ∈ l.a.points ++ l.b.points, p.st = .pending ∧ p.page = page) ∨
      (∃ b ∈ c.heldBlocks, b.launch = h ∧ b.wait = .page page) ∨ (∃ r ∈ c.residents, r.launch = h ∧ r.page = page) ∨
      (∃ e ∈ c.board ++ c.deques.flatMap (fun d => d.2), e.launch = h ∧
        ∃ a, e.work = .block a ∧ a / 65536 = page ∧ blockHome s k a = .absent) := by
  rw [launchesAtPage, mem_foldl_insertNat]
  simp only [List.mem_append, List.mem_map, List.mem_filter, List.any_eq_true, Bool.and_eq_true, beq_iff_eq, List.not_mem_nil, or_false]
  constructor
  · rintro (((⟨l, ⟨hl, hp⟩, hh⟩ | ⟨e, ⟨he, hw⟩, hh⟩) | ⟨b, ⟨hb, hw⟩, hh⟩) | ⟨r, ⟨hr, hp⟩, hh⟩)
    · exact .inl ⟨l, hl, hh, hp⟩
    · exact .inr (.inr (.inr ⟨e, he, hh, (readyAtPage_iff s k page e.work).1 hw⟩))
    · exact .inr (.inl ⟨b, hb, hh, hw⟩)
    · exact .inr (.inr (.inl ⟨r, hr, hh, hp⟩))
  · rintro (⟨l, hl, hh, hp⟩ | ⟨b, hb, hh, hw⟩ | ⟨r, hr, hh, hp⟩ | ⟨e, he, hh, hw⟩)
    · exact .inl (.inl (.inl ⟨l, ⟨hl, hp⟩, hh⟩))
    · exact .inl (.inr ⟨b, ⟨hb, hw⟩, hh⟩)
    · exact .inr ⟨r, ⟨hr, hp⟩, hh⟩
    · exact .inl (.inl (.inr ⟨e, ⟨he, (readyAtPage_iff s k page e.work).2 hw⟩, hh⟩))

theorem walksEndAndPagesArrive : Claims.WalksEndAndPagesArrive := by
  intro s i k page w c rest va cached
  refine ⟨fun hw hrun hc => ⟨fun hr => ?_, fun hr => ?_⟩, exec_pageWalkComplete_of_waiting, fun hc => ⟨?_, ?_⟩,
    fun h => mem_launchesAtPage_iff s k page h c⟩
  · exact (exec_pageWalkComplete_of_running hw hrun hc).trans (congrArg Host.Outcome.next (if_neg hr))
  · exact (exec_pageWalkComplete_of_running hw hrun hc).trans (congrArg Host.Outcome.next (if_pos hr))
  · change execPagePresent k page s = _
    rw [execPagePresent, hc]
    rfl
  · change execAddressInvalid k page s = _
    rw [execAddressInvalid, hc]

/-! ## MAPPING_CHANGE and PAGE_MIGRATE (R330, R349, R350, R354, R366) -/

theorem exec_mappingChange_of_place {s : State} {k place entry : Nat} (hc : getCtx s k ≠ none) (h8 : place % 8 = 0)
    (hex : physExists place = true) :
    let written := writeDirect s place (bytesOf 8 entry)
    exec (.mappingChange k place entry) s =
      .next (if mapsTaken written k then post s (.refused 4) else clearTlbs (claimPages s written k) k) := by
  change execMappingChange k place entry s = _
  rw [execMappingChange, if_neg (by simp [hc, h8, hex])]

/-- A page of the package moves to frames that it may have; else it stays. -/
theorem exec_pageMigrate_of_leaf {s : State} {k page frame p bits level node old : Nat} {rd wr : Bool} {c : Ctx}
    (hc : getCtx s k = some c) (hp : leafPlace s (65536 * page) 3 1 c.root = some (p, bits))
    (hleaf : walkTable s c.root (65536 * page) = .leaf level 0 node old rd wr) :
    let new := 65536 * frame
    let size := 2 ^ bits
    let copied := copyPlaces (mergeRange (claimRange s (framesUsed s) new size c.job) old size) old new size
    let e := rawNat copied p 8
    exec (.pageMigrate k page frame) s = .next (
      if new % size ≠ 0 ∨ !pageUsable s new size ∨ taken s new size ∨ new = old ∨ hostHolds s old size then s
      else clearTlbs (writeDirect (moveHomes copied k old new size) p (bytesOf 8 (e - field e 12 34 * 4096 + new))) k) := by
  change execPageMigrate k page frame s = _
  simp only [execPageMigrate, hc, hp, hleaf]

theorem mappingsChangeAndPagesMigrate : Claims.MappingsChangeAndPagesMigrate := by
  intro s k page frame place entry p bits node old c level rd wr new size written copied e hc
  have hsome : getCtx s k ≠ none := by simp [hc]
  refine ⟨fun h8 hex => ⟨fun hfree => ?_, fun htaken => ?_⟩, fun hno => ?_, fun hp hleaf => ⟨fun hal huse htk hhost hne => ?_, fun hno => ?_⟩⟩
  · exact (exec_mappingChange_of_place hsome h8 hex).trans (congrArg Host.Outcome.next (if_neg (by simpa using hfree)))
  · exact (exec_mappingChange_of_place hsome h8 hex).trans (congrArg Host.Outcome.next (if_pos htaken))
  · change execMappingChange k place entry s = _
    rw [execMappingChange, if_pos (by simpa using Or.inr hno)]
  · refine (exec_pageMigrate_of_leaf hc hp hleaf).trans (congrArg Host.Outcome.next (if_neg ?_))
    simp only [new, size] at hal huse htk hhost hne
    simp [hal, huse, htk, hhost, hne]
  · refine (exec_pageMigrate_of_leaf hc hp hleaf).trans (congrArg Host.Outcome.next (if_pos ?_))
    exact hno.imp id (Or.imp (by simp [new, size]) (Or.imp id .inr))

/-! ## Translations (R330) -/

/-- A function applied to every value of sparse storage, that keeps what an unlisted address reads as. -/
theorem spGet_map {α : Type} {d : α} {f : α → α} (hd : f d = d) (m : Sparse α) (a : Nat) :
    spGet d (m.map (fun e => (e.1, f e.2))) a = f (spGet d m a) := by
  induction m with
  | nil => simp [hd]
  | cons e m ih =>
    simp only [List.map_cons, spGet, ih]
    split <;> rfl

theorem getCore_keepTlbs (s : State) (keep : Nat → TlbEntry → Bool) (n : Nat) :
    getCore (keepTlbs s keep) n = { getCore s n with
      tlb := (getCore s n).tlb.filter (fun e => ((getCore s n).ctx.map (fun k => keep k e)).getD true) } :=
  spGet_map (f := fun c : Core => { c with tlb := c.tlb.filter (fun e => (c.ctx.map (fun k => keep k e)).getD true) }) rfl s.cores n

theorem tlb_clearTlbs_of_ctx {s : State} {k n : Nat} (h : (getCore (clearTlbs s k) n).ctx = some k) :
    (getCore (clearTlbs s k) n).tlb = [] := by
  rw [clearTlbs, getCore_keepTlbs] at h ⊢
  simp only at h
  simp [h]

theorem dieTlbs_clearTlbs {s : State} {k : Nat} {e : DieTlbEntry} (he : e ∈ (clearTlbs s k).hw.tlb0 ++ (clearTlbs s k).hw.tlb1) :
    e.ctx ≠ k := by
  simp only [clearTlbs, keepTlbs, List.mem_append, List.mem_filter, bne_iff_ne] at he
  exact he.elim And.right And.right

theorem noOldTranslationOutlivesItsMapping : Claims.NoOldTranslationOutlivesItsMapping := by
  intro s t k place entry n hc h8 hex hfree ht
  have hclear : t = clearTlbs (claimPages s (writeDirect s place (bytesOf 8 entry)) k) k := by
    have hexec := (exec_mappingChange_of_place hc h8 hex).trans (congrArg Host.Outcome.next (if_neg (Bool.eq_false_iff.1 hfree)))
    exact Host.Outcome.next.inj (ht.symm.trans hexec)
  rw [hclear]
  exact ⟨tlb_clearTlbs_of_ctx, fun e he => dieTlbs_clearTlbs he⟩

/-- Settles O55: each event by the outcomes of its tests, and the translations by what clearing the caches keeps. -/
theorem pagesAndMappings : Obligations.PagesAndMappings :=
  ⟨walksEndAndPagesArrive, mappingsChangeAndPagesMigrate, noOldTranslationOutlivesItsMapping⟩

end Sys2Proof.Machine
end

section
/-!
PROOFS. The memory hardware (R343 to R345, R350), the link (R360, R363) and the logical clocks (R232).
-/
namespace Sys2Proof.Machine
open Sys2Proof.Claims

/-! ## Bus coding (R344, Table 15.4) -/

theorem exec_codeSample_of_traffic {s : State} {ch tdbi tltc : Nat} (hch : ch < 288)
    (hchanging : (spGet {} s.hw.channels ch : Channel).changing = false) (hfrozen : codesFrozen s ch = false)
    (htraffic : ¬ (tdbi = 0 ∧ tltc = 0)) :
    let c : Channel := spGet {} s.hw.channels ch
    exec (.codeSample ch tdbi tltc) s =
      .next (setChannel s ch (c.sampled (if c.ltc then tltc else tdbi) (if c.ltc then tdbi else tltc))) := by
  change execCodeSample ch tdbi tltc s = _
  rw [execCodeSample, if_neg (by simp [hchanging, hfrozen, htraffic, Nat.not_le.2 hch])]
  cases (spGet {} s.hw.channels ch : Channel).ltc <;> rfl

theorem busCodesAreSampledAndChanged : Claims.BusCodesAreSampledAndChanged := by
  intro s ch tdbi tltc c cur other is
  refine ⟨fun hch hchanging hfrozen htraffic => ?_, fun hdbi hltc => ?_, fun hchanging => ?_⟩
  · have hexec := exec_codeSample_of_traffic hch hchanging hfrozen htraffic
    refine ⟨fun hless hsecond => hexec.trans ?_, fun hless hfirst => hexec.trans ?_, fun hmore => hexec.trans ?_⟩
    · exact congrArg (fun d => Host.Outcome.next (is d)) ((if_pos hless).trans (if_pos hsecond))
    · exact congrArg (fun d => Host.Outcome.next (is d)) ((if_pos hless).trans (if_neg (Bool.eq_false_iff.1 hfirst)))
    · exact congrArg (fun d => Host.Outcome.next (is d)) (if_neg (Nat.not_le.2 hmore))
  · change execCodeSample ch tdbi tltc s = _
    rw [execCodeSample, if_pos (by simp [hdbi, hltc])]
  · change execCodeChange ch s = _
    rw [execCodeChange, if_pos hchanging]
    rfl

/-! ## Stacks (R343, R345, Table 15.5) -/

theorem modStack_eq_stackIs {s : State} {n : Nat} {f g : Stack → Stack} (hn : n < 8)
    (h : f (spGet {} s.hw.hbmStacks n) = g (spGet {} s.hw.hbmStacks n)) : modStack s n f = stackIs s n g := by
  rw [modStack, if_pos hn, h]
  rfl

theorem stacksAreWatchedTakenAndScrubbed : Claims.StacksAreWatchedTakenAndScrubbed := by
  intro s n c hn
  have hbeat : exec (.heartbeat n) s = execHeartbeat n s := rfl
  have hdeadline : exec (.heartbeatDeadline n) s = execHeartbeatDeadline n s := rfl
  have htake : exec (.takeover n) s = execTakeover n s := rfl
  have hscrub : exec (.patrolScrub n) s = execPatrolScrub n s := rfl
  have hstack : ¬ 8 ≤ n := Nat.not_le.2 hn
  refine ⟨fun hhb => ?_, fun hhb => ?_, fun hhb hmissed => ?_, fun hhb hmissed => ?_, fun hhb => ?_, fun hidle => ?_, fun hpass => ?_, ?_, rfl⟩
  · rw [hbeat, execHeartbeat]
    exact congrArg Host.Outcome.next (modStack_eq_stackIs hn (by simp only [c] at hhb; simp only [hhb]))
  · rw [hbeat, execHeartbeat]
    exact congrArg Host.Outcome.next (modStack_eq_stackIs hn (by simp only [c] at hhb; simp only [hhb]))
  · rw [hdeadline, execHeartbeatDeadline, if_neg (by simpa [hstack] using hhb), if_neg (show ¬ 4 ≤ c.missed + 1 by omega)]
    exact congrArg Host.Outcome.next (modStack_eq_stackIs hn rfl)
  · rw [hdeadline, execHeartbeatDeadline, if_neg (by simpa [hstack] using hhb), if_pos (show 4 ≤ c.missed + 1 by omega)]
    exact congrArg (fun t => Host.Outcome.next (post t (.taken n))) (modStack_eq_stackIs hn rfl)
  · rw [htake, execTakeover]
    exact congrArg Host.Outcome.next (modStack_eq_stackIs hn (if_pos hhb))
  · rw [hscrub, execPatrolScrub, if_neg hstack, if_neg (Bool.eq_false_iff.1 hidle)]
    exact congrArg Host.Outcome.next (modStack_eq_stackIs hn rfl)
  · refine ⟨Config.scrubbed s.fresh, ?_⟩
    rw [hscrub, execPatrolScrub, if_neg hstack, if_pos hpass, modStack_eq_stackIs (g := fun y => { y with scrub := false }) hn rfl]
    rfl
  · have hbit : ∀ b : Bool, ofBool b ≤ 1 := by decide
    have hup := hbit c.up
    have htaken := hbit (c.hb != .normal)
    have hpass := hbit c.scrub
    change (ofBool c.up + 2 * ofBool (c.hb != .normal) + 4 * ofBool c.scrub + 16 * c.missed +
      2 ^ 8 * packElems 1 32 (fun i => ofBool (spGet {} s.hw.channels (32 * n + i) : Channel).ltc) + 2 ^ 48 * c.late) / 4 % 2 = _
    omega

/-! ## WIPE (R350) -/

theorem unusedMemoryIsWiped : Claims.UnusedMemoryIsWiped := by
  intro s n base size addr
  have hexec : ∀ w, exec (.wipe w) s = execWipe w s := fun _ => rfl
  simp only [hexec, execWipe]
  refine ⟨fun hn hfree => ?_, fun hno => ?_, fun hn hfree => ?_, fun hno => ?_, fun hin hfree => ?_, fun hno => ?_, fun hfree hex => ?_,
    fun hno => ?_, fun lo p hlo hhi => ?_, fun lo p hout => ?_⟩
  · rw [if_neg (by simp [hfree, hn])]
    rfl
  · rw [if_pos (by simpa [Option.isSome_iff_ne_none] using hno)]
  · rw [if_neg (by simpa [hn] using hfree)]
    rfl
  · rw [if_pos (by simpa using hno)]
  · rw [if_neg (not_or.2 ⟨Nat.not_lt.2 hin, by simpa using hfree⟩)]
    rfl
  · rw [if_pos (by simpa using hno)]
  · rw [if_neg (by simp [hfree, hex])]
    rfl
  · rw [if_pos (by simpa using hno)]
  · exact (rawByte_wipeAll s lo size p).trans (if_pos ⟨hlo, hhi⟩)
  · exact (rawByte_wipeAll s lo size p).trans (if_neg (by omega))

/-! ## The link and the clocks (R232, R360, R363) -/

theorem theLinkAndTheClocksAreKept : Claims.TheLinkAndTheClocksAreKept := by
  intro s port vc node n c
  have hagain : exec (.flitRetransmit port vc) s = execFlitRetransmit port vc s := rfl
  have hlost : exec (.portRetrainFail port) s = execPortRetrainFail port s := rfl
  have hroute : exec (.routeSet node port) s = execRouteSet node port s := rfl
  have hnode : ∀ m, exec (.nodeNumberSet m) s = execNodeNumberSet m s := fun _ => rfl
  simp only [hagain, hlost, hroute, hnode, execFlitRetransmit, execPortRetrainFail, execRouteSet, execNodeNumberSet]
  refine ⟨fun hp => ?_, fun hp => ?_, fun hm hp hn hup => ?_, fun hm hn => ?_, ?_, fun hm => ⟨?_, ?_⟩, rfl⟩
  · simp [hp]
  · simp [hp]
  · simp [hm, hp, hn, hup]
  · simp [hm, hn]
  · simp
  · simp [hm]
  · simp [hm]

/-- Settles O58: each event by the tests of its table; what a wipe leaves follows the bytes through the cleared range. -/
theorem hardwareEvents : Obligations.HardwareEvents :=
  ⟨busCodesAreSampledAndChanged, stacksAreWatchedTakenAndScrubbed, unusedMemoryIsWiped, theLinkAndTheClocksAreKept⟩

end Sys2Proof.Machine
end

section
/-!
PROOFS. Mailbox (R382 to R386), resets (R378, R381, R388), boot (R379, R380), power states and clocks (R385 to R388).
-/
namespace Sys2Proof.Machine
open Sys2Proof.Claims

/-! ## Commands of the mailbox (R382) -/

/-- A command that the mailbox takes acts where its state allows it, and else ends with status 1. -/
theorem command_of_free {s : State} {code len : Nat} {allowed : Platform → Bool} {act : State → State} (h : mailboxFree s) :
    command s code len allowed act =
      .next (if allowed (wake s).plat then act (placed s code len) else ends (placed s code len) 1 []) := by
  obtain ⟨hready, hidle⟩ := h
  have hidle' : (wake s).host.status ≠ 2 := hidle
  rw [command, if_neg (by simp [hready])]
  exact congrArg Host.Outcome.next (if_neg hidle')

theorem command_of_busy {s : State} {code len : Nat} {allowed : Platform → Bool} {act : State → State} (hready : portReady s = true)
    (hbusy : s.host.status = 2) : command s code len allowed act = .next (ignored (wake s)) := by
  have hbusy' : (wake s).host.status = 2 := hbusy
  rw [command, if_neg (by simp [hready])]
  exact congrArg Host.Outcome.next (if_pos hbusy')

/-- Of the two outcomes of a command, the first where the condition holds. -/
theorem next_of_pos {c : Prop} [Decidable c] {o : Out} {a b : State} (h : o = .next (if c then a else b)) (hc : c) : o = .next a :=
  h.trans (congrArg Host.Outcome.next (if_pos hc))

theorem next_of_neg {c : Prop} [Decidable c] {o : Out} {a b : State} (h : o = .next (if c then a else b)) (hc : ¬ c) : o = .next b :=
  h.trans (congrArg Host.Outcome.next (if_neg hc))

theorem exec_setLtol (s : State) (v : Nat) :
    exec (.setLtol v) s = command s 0x0107 8 (inLife [0, 1, 2]) (fun st => ends { st with plat := { st.plat with
      ltol := v % 2 ^ 32, power := afterLtol s.plat.power (v % 2 ^ 32) } } 0 []) := rfl

/-- A tolerance below the exit latency of the state moves the package up to the deepest that fits, if that is a low one (R386). -/
theorem afterLtol_eq (power : Power) (ltol : Nat) :
    afterLtol power ltol = match power with
      | .low d => if deepest ltol < d ∧ deepest ltol ≠ 0 then .low (deepest ltol) else .active
      | x => x := by
  cases power with
  | low d =>
    by_cases hzero : deepest ltol = 0
    · simp [afterLtol, hzero]
    · simp [afterLtol, hzero]
  | off | booting | active | tripped => rfl

/-- What refuses a firmware image (R380, R381). -/
theorem commitRefused_iff (s : State) (len : Nat) :
    ((!s.plat.recovery && !noResident s) || decide (2 ^ 25 < len) || !imageAccepted s.plat (stagedImage s len)) = true ↔
      imageAccepted s.plat (stagedImage s len) = false ∨ 2 ^ 25 < len ∨ (s.plat.recovery = false ∧ noResident s = false) := by
  simp only [Bool.or_eq_true, Bool.and_eq_true, Bool.not_eq_true', decide_eq_true_eq]
  tauto

theorem length_bytesOf (n : Nat) : ∀ v : Nat, (bytesOf n v).length = n := by
  induction n with
  | zero => exact fun _ => rfl
  | succ n ih => exact fun v => congrArg (· + 1) (ih _)

theorem length_bytesBig (n v : Nat) : (bytesBig n v).length = n := by
  rw [bytesBig, List.length_reverse, length_bytesOf]

theorem mailboxCommandsAct : Claims.MailboxCommandsAct := by
  intro s off len target nonce k v bytes t p image advanced body hfree
  have hstatus := (show exec .status s = execStatus s from rfl).trans (command_of_free hfree)
  have hstage := (show exec (.fwStage off bytes) s = execFwStage off bytes s from rfl).trans (command_of_free hfree)
  have hcommit := (show exec (.fwCommit len) s = execFwCommit len s from rfl).trans (command_of_free hfree)
  have hreset := (show exec .reset s = execReset s from rfl).trans (command_of_free hfree)
  have hadvance := (show exec (.lcAdvance target) s = execLcAdvance target s from rfl).trans (command_of_free hfree)
  have hreport := (show exec (.report nonce k) s = execReport nonce k s from rfl).trans (command_of_free hfree)
  have hidkey := (show exec .idkey s = execIdkey s from rfl).trans (command_of_free hfree)
  have hltol := (exec_setLtol s v).trans (command_of_free hfree)
  refine ⟨next_of_pos hstatus rfl, fun ha hlen hin => ?_, fun ha hres hlen hok => ?_, fun ha hover => ?_, fun ha hbad => ?_,
    fun ha => ⟨next_of_neg hstage (Bool.eq_false_iff.1 ha), next_of_neg hcommit (Bool.eq_false_iff.1 ha)⟩,
    fun ha => ⟨next_of_neg hadvance (Bool.eq_false_iff.1 ha), next_of_neg hltol (Bool.eq_false_iff.1 ha)⟩,
    fun ha => ⟨next_of_neg hreport (Bool.eq_false_iff.1 ha), next_of_neg hidkey (Bool.eq_false_iff.1 ha)⟩, next_of_pos hreset rfl,
    fun ha hnext => ?_, fun ha hskip => ?_, fun ha => ?_, fun ha => ⟨_, next_of_pos hidkey ha⟩, fun ha => ?_⟩
  · exact next_of_neg (next_of_pos hstage ha) (by omega)
  · refine next_of_neg (next_of_pos hcommit ha) (fun hrefused => ?_)
    rcases (commitRefused_iff s len).1 hrefused with hbad | hlong | ⟨hrunning, hresident⟩
    · exact absurd hok (by simp [p, image, hbad])
    · omega
    · exact hres.elim (by simp [p, hrunning]) (by simp [hresident])
  · exact next_of_pos (next_of_pos hstage ha) hover
  · exact next_of_pos (next_of_pos hcommit ha) ((commitRefused_iff s len).2 hbad)
  · refine ⟨_, next_of_neg (next_of_pos hadvance ha) (not_not.2 hnext), fun h => ?_, fun h => ?_⟩ <;> subst h <;> rfl
  · exact next_of_pos (next_of_pos hadvance ha) hskip
  · exact ⟨_, length_bytesBig 384 _, next_of_pos hreport ha⟩
  · rw [next_of_pos hltol ha, afterLtol_eq] <;> rfl

theorem busyMailboxIgnoresCommands : Claims.BusyMailboxIgnoresCommands := by
  intro s off len target nonce k v bytes hready hbusy i hi
  have hignored : ∀ {code len : Nat} {allowed : Platform → Bool} {act : State → State},
      command s code len allowed act = .next (ignored (wake s)) := command_of_busy hready hbusy
  simp only [List.mem_cons, List.not_mem_nil, or_false] at hi
  rcases hi with rfl | rfl | rfl | rfl | rfl | rfl | rfl | rfl
  · exact (show exec .status s = execStatus s from rfl).trans hignored
  · exact (show exec (.fwStage off bytes) s = execFwStage off bytes s from rfl).trans hignored
  · exact (show exec (.fwCommit len) s = execFwCommit len s from rfl).trans hignored
  · exact (show exec .reset s = execReset s from rfl).trans hignored
  · exact (show exec (.lcAdvance target) s = execLcAdvance target s from rfl).trans hignored
  · exact (show exec (.report nonce k) s = execReport nonce k s from rfl).trans hignored
  · exact (show exec .idkey s = execIdkey s from rfl).trans hignored
  · exact (exec_setLtol s v).trans hignored

/-! ## Resets and boot (R378 to R381) -/

theorem resetsKeepFusesAndFlash : Claims.ResetsKeepFusesAndFlash := by
  intro s
  refine ⟨rfl, rfl, fun hon => ⟨?_, ?_⟩, fun hoff => ⟨?_, ?_⟩, fun power => ?_⟩
  · exact congrArg Host.Outcome.next (if_pos hon)
  · exact congrArg Host.Outcome.next (if_pos hon)
  · exact congrArg Host.Outcome.next (if_neg (Bool.eq_false_iff.1 hoff))
  · exact congrArg Host.Outcome.next (if_neg (Bool.eq_false_iff.1 hoff))
  · exact ⟨rfl, rfl, rfl, rfl, rfl, rfl, rfl, rfl, rfl, rfl, rfl, rfl, fun h => if_neg (Bool.eq_false_iff.1 h)⟩

theorem bootEndsReadyOrInRecovery : Claims.BootEndsReadyOrInRecovery := by
  intro s p
  have hexec : exec .bootComplete s = execBootComplete s := rfl
  refine ⟨fun hboot hwhole hok => ⟨Config.imageSvn p.flash, Config.imageRaises p.flash, ?_⟩, fun hboot hbad => ?_, fun hno => ?_, ?_, ?_, ?_⟩
  · simp only [p] at hboot hwhole hok ⊢
    simp [hexec, execBootComplete, hboot, hwhole, hok]
  · have hbad' : (!s.plat.torn && imageAccepted s.plat s.plat.flash) = false := by
      rcases hbad with h | h <;> simp only [p] at h <;> simp [h]
    simp only [p] at hboot ⊢
    simp [hexec, execBootComplete, hboot, hbad']
  · rw [hexec, execBootComplete, if_pos hno]
  all_goals
    rw [configAnswer]
    cases poweredOn s <;> cases p.ready <;> simp

/-! ## Power and clocks (R385 to R388) -/

theorem exec_lowPowerEntry (s : State) :
    let low := { s with plat := { s.plat with power := .low (deepest s.plat.ltol) } }
    exec .lowPowerEntry s = .next (
      if s.plat.power ≠ .active ∨ !packageIdle s ∨ s.plat.idle < 1000 * s.plat.clockMHz ∨ deepest s.plat.ltol = 0 then s
      else if deepest s.plat.ltol = 4 then loseCaches low else low) := rfl

/-- The package enters a low-power state once it has been idle for 1 ms and its tolerance allows one (R385). -/
theorem entersLowPower_iff {s : State} :
    ¬ (s.plat.power ≠ .active ∨ (!packageIdle s) = true ∨ s.plat.idle < 1000 * s.plat.clockMHz ∨ deepest s.plat.ltol = 0) ↔
      s.plat.power = .active ∧ packageIdle s = true ∧ 1000 * s.plat.clockMHz ≤ s.plat.idle ∧ 0 < deepest s.plat.ltol := by
  simp [not_or, Nat.pos_iff_ne_zero]

theorem wake_of_low {s : State} {d : Nat} (h : s.plat.power = .low d) : wake s = { s with plat := { s.plat with power := .active } } := by
  rw [wake, h]

theorem wake_of_active {s : State} (h : s.plat.power = .active) : wake s = s := by
  have hplat : { s.plat with power := .active } = s.plat := by rw [← h]
  rw [wake, h]
  exact congrArg (fun q => { s with plat := q }) hplat

theorem powerFollowsTheTolerance : Claims.PowerFollowsTheTolerance := by
  intro s d p low
  refine ⟨fun hactive hidle hlong => ⟨fun hstay => ?_, fun hdeep hshallow => ?_, fun hdeepest => ?_⟩, fun e he => ?_, rfl, rfl, fun hno => ?_,
    fun hlow => ?_, fun hactive => ?_, rfl, rfl, rfl, fun ltol hltol => ?_⟩
  · exact next_of_pos (exec_lowPowerEntry s) (by simp [show deepest s.plat.ltol = 0 from hstay])
  · exact (next_of_neg (exec_lowPowerEntry s) (entersLowPower_iff.2 ⟨hactive, hidle, hlong, hdeep⟩)).trans
      (congrArg Host.Outcome.next (if_neg hshallow.ne))
  · exact (next_of_neg (exec_lowPowerEntry s) (entersLowPower_iff.2 ⟨hactive, hidle, hlong, Nat.lt_of_lt_of_eq (by decide) hdeepest.symm⟩)).trans
      (congrArg Host.Outcome.next (if_pos hdeepest))
  · obtain ⟨e', -, rfl⟩ := List.mem_map.1 he
    exact ⟨rfl, rfl⟩
  · refine next_of_pos (exec_lowPowerEntry s) (by_contra fun hgo => ?_)
    obtain ⟨hactive, hidle, hlong, -⟩ := entersLowPower_iff.1 hgo
    rcases hno with h | h | h
    · exact h hactive
    · simp [hidle] at h
    · exact absurd hlong (Nat.not_le.2 h)
  · exact congrArg Host.Outcome.next (wake_of_low hlow)
  · exact congrArg Host.Outcome.next (wake_of_active hactive)
  · simp only [deepest, hltol, false_or]
    refine ⟨fun h => ?_, fun h1 h2 => ?_, fun h1 h2 => ?_, fun h1 h2 => ?_, fun h => ?_⟩ <;> split_ifs <;> omega

/-- Settles O60: a command by what the mailbox does with any, the rest by the tests of each event. -/
theorem platformEvents : Obligations.PlatformEvents :=
  ⟨mailboxCommandsAct, busyMailboxIgnoresCommands, resetsKeepFusesAndFlash, bootEndsReadyOrInRecovery, powerFollowsTheTolerance⟩

end Sys2Proof.Machine
end

section
/-!
PROOFS. Flying a rank (R355 to R358) and its arrival (R356, R359): the phases at both ends, and what BIND reserves.
-/
namespace Sys2Proof.Machine
open Sys2Proof.Claims

/-! ## The source of a fly (Table 16.2) -/

theorem exec_flyBind_of_here {s : State} {k node : Nat} {accepted : Bool} {c : Ctx} (hc : getCtx s k = some c) (hkilled : c.state ≠ .killed)
    (hflying : c.state ≠ .flying) (hfly : findFly s k = none) (harrive : awaitsSwitch s k = false) :
    let opened := { s with link := { s.link with
      nextFly := s.link.nextFly + 1, flies := s.link.flies ++ [{ ctx := k, node := node, phase := .bind, id := s.link.nextFly }] } }
    exec (.flyBind k node accepted) s = .next (if accepted then
      sendPacket opened (flyControlPacket opened node c.job c.rank s.link.nextFly 1 (ctxmOf c.code ++
        wordsOf [c.chipBase, c.chipSize, c.clusters, pageCount s c 16, pageCount s c 27, pageCount s c 38, 1]))
      else post s (.refused 2)) := by
  change execFlyBind k node accepted s = _
  simp only [execFlyBind, hc, hfly, harrive]
  cases accepted <;> simp [hkilled, hflying]

theorem fliesLeaveTheirSource : Claims.FliesLeaveTheirSource := by
  intro s k node c f id opened asks saved sent forwarding waits gone told parked
  have hcancel : exec (.flyCancel k) s = execFlyCancel k s := rfl
  have hsave : exec (.flySave k) s = execFlySave k s := rfl
  have habandon : exec (.flyAbandon k) s = execFlyAbandon k s := rfl
  have hswitch : exec (.flySwitch k) s = execFlySwitch k s := rfl
  have hrelease : exec (.flyRelease k) s = execFlyRelease k s := rfl
  refine ⟨fun hc hkilled hflying hfly harrive => ⟨exec_flyBind_of_here hc hkilled hflying hfly harrive,
    exec_flyBind_of_here hc hkilled hflying hfly harrive⟩, fun hf hc => ?_, fun hf => ?_⟩
  · simp only [hcancel, hsave, habandon, hswitch, execFlyCancel, execFlySave, execFlyAbandon, execFlySwitch, hf, hc]
    refine ⟨fun hp => by rw [if_pos hp], fun hp hsavable hintact => ?_, fun hp hsavable hbad => ?_, fun hno => ?_, fun hp hready hlost => ?_,
      fun hno => ?_, fun hp hready => ?_, fun hp hready => ?_⟩
    · rw [if_neg (by simp [hp, hsavable]), if_neg (by simp [hintact])]
    · rw [if_neg (by simp [hp, hsavable]), if_pos hbad]
    · rw [if_pos (by simpa using hno)]
    · rw [if_neg (by simp [hp, hready, hlost])]
    · rw [if_pos (by simpa using hno)]
    · rw [if_neg (by simp [hp, hready])]
    · rw [if_pos (by simp [hready])]
  · simp only [hrelease, execFlyRelease, hf]

/-! ## Packets of a fly (R356, R362) -/

@[simp] theorem arrived_link (s : State) (p : Packet) : (arrived s p).link = s.link := by unfold arrived; split <;> rfl

@[simp] theorem flyOf_arrived (s : State) (p q : Packet) : flyOf (arrived s p) q = flyOf s q := by simp [flyOf]

/-- What a fly control packet with a code does once it has arrived (log entry 21). -/
def flyControlDoes (w : State) (p : Packet) : Nat → State
  | 1 => bindHere w p
  | 2 => modCopy w p (fun y => { y with complete := true })
  | 5 => dropArriving w p.src p.tag
  | 8 => confirmArrival w p
  | _ =>
    match flyOf w p with
    | none => refusePacket w p
    | some (f, c) => flyNews w f c p

/-- Every other code than those for the destination is news for the source of a fly. -/
theorem flyControlDoes_of_news (w : State) (p : Packet) {code : Nat} (hcode : code ∉ [1, 2, 5, 8]) :
    flyControlDoes w p code = match flyOf w p with
      | none => refusePacket w p
      | some (f, c) => flyNews w f c p := by
  unfold flyControlDoes
  split <;> simp_all

theorem exec_flyControl_of_arrives {s : State} {p : Packet} {code : Nat} (h : arrives s p 0x30)
    (hcode : ofBytes (p.payload.take 1) = code) : exec (.flyControl p) s = .next (flyControlDoes (arrived s p) p code) := by
  change execFlyControl p s = _
  rw [execFlyControl, arrival_of_arrives h, hcode] <;> rfl

theorem exec_flyControl_of_fly {s : State} {p : Packet} {f : Fly} {c : Ctx} {code : Nat} (h : arrives s p 0x30)
    (hcode : ofBytes (p.payload.take 1) = code) (hnews : code ∉ [1, 2, 5, 8]) (hfly : flyOf s p = some (f, c)) :
    exec (.flyControl p) s = .next (flyNews (arrived s p) f c p) := by
  rw [exec_flyControl_of_arrives h hcode, flyControlDoes_of_news _ _ hnews, flyOf_arrived, hfly]

theorem exec_flyControl_of_no_fly {s : State} {p : Packet} (h : arrives s p 0x30) (hcode : ofBytes (p.payload.take 1) ∉ [1, 2, 5, 8])
    (hfly : flyOf s p = none) : exec (.flyControl p) s = .next (refusePacket (arrived s p) p) := by
  rw [exec_flyControl_of_arrives h rfl, flyControlDoes_of_news _ _ hcode, flyOf_arrived, hfly]

section
variable {s : State} {p : Packet} {f : Fly} {c : Ctx}

theorem flyNews_of_frame (hcode : ofBytes (p.payload.take 1) = 3) :
    let page := p.payload.drop 1
    flyNews s f c p = modFly s f.ctx (fun z =>
      { z with frames := spMerge z.frames (pageFrames s c (wordAt page 0) (wordAt page 1)), since := s.clock }) := by
  simp only [flyNews, hcode]

theorem flyNews_of_parked (hcode : ofBytes (p.payload.take 1) = 4) :
    flyNews s f c p = modFly s f.ctx (fun z => { z with ready := true }) := by
  simp only [flyNews, hcode]

theorem flyNews_of_bound (hcode : ofBytes (p.payload.take 1) = 6) :
    flyNews s f c p = modFly s f.ctx (fun z => if z.phase = .bind then { z with phase := .wait } else z) := by
  simp only [flyNews, hcode]

theorem flyNews_of_refused (hcode : ofBytes (p.payload.take 1) = 7) (hbind : f.phase = .bind) :
    flyNews s f c p = post (dropFly s f.ctx) (.refused 2) := by
  simp only [flyNews, hcode, hbind, if_true]

end

theorem exec_flyData {s : State} {p : Packet} (h : arrives s p 0x31) :
    exec (.flyData p) s =
      .next (modCopy (arrived s p) p (fun y => y.withPart ⟨p.addr / 2 ^ 56, p.addr % 2 ^ 56, p.payload⟩)) := by
  change execFlyData p s = _
  rw [execFlyData, arrival_of_arrives h]

theorem modCopy_of_known {s : State} {p : Packet} {f : Copy → Copy} {y : Copy} (hy : s.link.copies.find? (fun z => z.isOf p) = some y)
    (hc : y.complete = false) : modCopy (arrived s p) p f = { arrived s p with link := { (arrived s p).link with
      copies := (arrived s p).link.copies.map (fun z => if z.isOf p then f z else z) } } := by
  rw [modCopy, arrived_link, hy]
  exact if_neg (by simp [hc])

theorem modCopy_of_unknown {s : State} {p : Packet} {f : Copy → Copy} (hy : s.link.copies.find? (fun z => z.isOf p) = none) :
    modCopy (arrived s p) p f = refusePacket (arrived s p) p := by
  rw [modCopy, arrived_link, hy]

/-- A test that refuses unless the first holds and the second does not. -/
theorem not_refuses {a b : Bool} (ha : a = true) (hb : b = false) : ¬ (!a || b) = true := by simp [ha, hb]

theorem refuses {a b : Bool} (h : a = false ∨ b = true) : (!a || b) = true := by simpa using h

theorem exec_recreate_of_copy {s : State} {k i : Nat} {y : Copy} {prm : ContextParams} (hy : s.link.copies[i]? = some y) :
    let s0 := { s with link := { s.link with copies := s.link.copies.eraseIdx i } }
    let parked := setCtx (vacate s0 k) k (arrivedCtx s0 k y prm)
    let framed := y.pages.foldl (fun st g => sendFrame st y prm.root g) (clearTlbs (writeCopy parked k y prm) k)
    let told := sendPacket framed (flyControlPacket framed y.node y.ctx.job y.ctx.rank y.id 4 [])
    let settled := { told with link := { told.link with code := spErase told.link.code k } }
    exec (.recreate k i prm) s = .next (
      if (!arrivalFits s0 k y prm || mapsTaken parked k) = true then post s (.refused 3)
      else if y.live then { settled with link := { settled.link with arrived := ⟨k, y.node, y.id⟩ :: settled.link.arrived } }
      else post settled (.flown k settled.link.node)) := by
  change execRecreate k i prm s = _
  simp only [execRecreate, hy]

theorem fliesArriveParked : Claims.FliesArriveParked := by
  intro s p k i y prm f c w code page news answer known changed s0 parked framed told settled
  refine ⟨fun h => ⟨fun hcode hbound => ?_, fun hcode hbound => ?_, fun hcode hknown hopen => ?_, fun hcode hknown => ?_, fun hfly => ⟨fun hcode => ?_,
    fun hcode => ?_, fun hcode => ?_, fun hcode hbind => ?_⟩, fun hfly hcode => ?_⟩, fun h => ⟨fun hknown hopen => ?_, fun hknown => ?_⟩,
    fun hy hfits hmaps => ⟨fun hlive => ?_, fun hre => ?_⟩, fun hy hno => ?_⟩
  · rw [exec_flyControl_of_arrives h hcode, flyControlDoes, bindHere, hbound]
  · rw [exec_flyControl_of_arrives h hcode, flyControlDoes, bindHere, hbound]
  · exact (exec_flyControl_of_arrives h hcode).trans (congrArg Host.Outcome.next (modCopy_of_known hknown hopen))
  · exact (exec_flyControl_of_arrives h hcode).trans (congrArg Host.Outcome.next (modCopy_of_unknown hknown))
  · exact (exec_flyControl_of_fly h hcode (by decide) hfly).trans (congrArg Host.Outcome.next (flyNews_of_frame hcode))
  · exact (exec_flyControl_of_fly h hcode (by decide) hfly).trans (congrArg Host.Outcome.next (flyNews_of_parked hcode))
  · exact (exec_flyControl_of_fly h hcode (by decide) hfly).trans (congrArg Host.Outcome.next (flyNews_of_bound hcode))
  · exact (exec_flyControl_of_fly h hcode (by decide) hfly).trans (congrArg Host.Outcome.next (flyNews_of_refused hcode hbind))
  · exact exec_flyControl_of_no_fly h hcode hfly
  · rw [exec_flyData h]
    exact congrArg Host.Outcome.next (modCopy_of_known hknown hopen)
  · rw [exec_flyData h]
    exact congrArg Host.Outcome.next (modCopy_of_unknown hknown)
  · exact (exec_recreate_of_copy hy).trans (congrArg Host.Outcome.next ((if_neg (not_refuses hfits hmaps)).trans (if_pos hlive)))
  · exact (exec_recreate_of_copy hy).trans (congrArg Host.Outcome.next ((if_neg (not_refuses hfits hmaps)).trans (if_neg (Bool.eq_false_iff.1 hre))))
  · exact (exec_recreate_of_copy hy).trans (congrArg Host.Outcome.next (if_pos (refuses hno)))

/-! ## A fly that is given up (R356, R357) -/

theorem spFind_spErase_self {α : Type} (m : Sparse α) (a : Nat) : spFind (spErase m a) a = none := by
  induction m with
  | nil => rfl
  | cons e m ih =>
    obtain ⟨k, v⟩ := e
    rw [spErase, List.filter_cons]
    split
    · next hk => rw [spFind, if_neg (Ne.symm (of_decide_eq_true hk))]; exact ih
    · exact ih

@[simp] theorem sendPacket_ctxs (s : State) (p : Packet) : (sendPacket s p).ctxs = s.ctxs := by unfold sendPacket; split <;> rfl

/-- Packets that are refused leave memory and contexts as they are. -/
theorem foldl_refusePacket_frame (ms : List Monitor) : ∀ s : State,
    (ms.foldl (fun st m => refusePacket st m.packet) s).mem = s.mem ∧ (ms.foldl (fun st m => refusePacket st m.packet) s).ctxs = s.ctxs := by
  induction ms with
  | nil => exact fun _ => ⟨rfl, rfl⟩
  | cons m ms ih =>
    intro s
    obtain ⟨hmem, hctxs⟩ := ih (refusePacket s m.packet)
    exact ⟨hmem.trans (sendPacket_mem _ _), hctxs.trans (sendPacket_ctxs _ _)⟩

theorem rawByte_removeCtx (s : State) (k a : Nat) : rawByte (removeCtx s k) a = rawByte s a := by
  obtain ⟨hmem, -⟩ := foldl_refusePacket_frame (s.link.monitors.filter (fun m => m.ctx == k)) { s with
    ctxs := spErase s.ctxs k
    link := { s.link with
      monitors := s.link.monitors.filter (fun m => m.ctx != k), arrived := s.link.arrived.filter (fun a => a.ctx != k) } }
  exact congrArg (fun m => spGet restByte m a) hmem

theorem getCtx_removeCtx_self (s : State) (k : Nat) : getCtx (removeCtx s k) k = none := by
  obtain ⟨-, hctxs⟩ := foldl_refusePacket_frame (s.link.monitors.filter (fun m => m.ctx == k)) { s with
    ctxs := spErase s.ctxs k
    link := { s.link with
      monitors := s.link.monitors.filter (fun m => m.ctx != k), arrived := s.link.arrived.filter (fun a => a.ctx != k) } }
  exact (congrArg (fun m => spFind m k) hctxs).trans (spFind_spErase_self _ _)

/-- A context that has arrived, gone again with its memory wiped (R350, R357). -/
def wipedOut (s : State) (k : Nat) (c : Ctx) : State :=
  removeCtx (clearTlbs (wipeRanges (wipeAll s (chipPlace c.chipBase) c.chipSize) (framesOf s c)) k) k

theorem rawByte_wipedOut {s : State} {k a : Nat} {c : Ctx} {u : Nat × Nat} (hu : u ∈ framesOf s c) (hlo : u.1 ≤ a) (hhi : a < u.1 + u.2) :
    rawByte (wipedOut s k c) a = 0 := by
  rw [wipedOut, rawByte_removeCtx]
  exact (rawByte_wipeRanges _ _ _).trans (if_pos ⟨u, hu, hlo, hhi⟩)

/-- What was reserved for an arriving context is given up. -/
def withoutCopies (s : State) (node id : Nat) : State :=
  { s with link := { s.link with copies := s.link.copies.filter (fun y => !(y.node == node && y.id == id)) } }

theorem dropArriving_of_none {s : State} {node id : Nat} (h : ∀ y ∈ s.link.arrived, y.node ≠ node ∨ y.id ≠ id) :
    dropArriving s node id = withoutCopies s node id := by
  have hnone : s.link.arrived.filter (fun a => a.node == node && a.id == id) = [] := by
    simpa [List.filter_eq_nil_iff, imp_iff_not_or] using h
  rw [dropArriving, hnone]
  rfl

theorem dropArriving_of_one {s : State} {v : Arrival} (h : s.link.arrived = [v]) :
    dropArriving s v.node v.id = match getCtx s v.ctx with
      | none => withoutCopies s v.node v.id
      | some c => wipedOut (withoutCopies s v.node v.id) v.ctx c := by
  rw [dropArriving, h]
  simp only [List.filter_cons, beq_self_eq_true, Bool.and_self, if_true, List.filter_nil, List.foldl_cons, List.foldl_nil] <;> rfl

theorem abandonedFliesLeaveNothingBehind : Claims.AbandonedFliesLeaveNothingBehind := by
  intro s p a c f v told w without
  refine ⟨rfl, fun h hcode => ⟨fun hnone => ?_, fun hone hnode hid hc => ?_, fun hone hnode hid hc => ?_⟩,
    fun h hcode => ⟨fun hfind => ?_, fun hfind => ?_⟩⟩
  · exact (exec_flyControl_of_arrives h hcode).trans (congrArg Host.Outcome.next (dropArriving_of_none (by simpa using hnone)))
  · have hdrop := dropArriving_of_one (s := w) (v := v) (by simpa [w] using hone)
    rw [show getCtx w v.ctx = some c by simpa [w] using hc, hnode, hid] at hdrop
    exact ⟨_, (exec_flyControl_of_arrives h hcode).trans (congrArg Host.Outcome.next hdrop), getCtx_removeCtx_self _ _,
      fun u hu hlo hhi => rawByte_wipedOut hu hlo hhi⟩
  · have hdrop := dropArriving_of_one (s := w) (v := v) (by simpa [w] using hone)
    rw [show getCtx w v.ctx = none by simpa [w] using hc, hnode, hid] at hdrop
    exact (exec_flyControl_of_arrives h hcode).trans (congrArg Host.Outcome.next hdrop)
  · rw [exec_flyControl_of_arrives h hcode, flyControlDoes, confirmArrival, arrived_link, hfind]
  · rw [exec_flyControl_of_arrives h hcode, flyControlDoes, confirmArrival, arrived_link, hfind]

/-! ## What BIND reserves (R352, R356, R359) -/

theorem meets_comm (a b : Nat × Nat) : meets a b = meets b a := Bool.and_comm _ _

/-- The least of some numbers is one of them. -/
theorem mem_of_foldl_min {xs : List Nat} {a : Nat} : ∀ {acc : Option Nat},
    xs.foldl (fun acc x => some (min x (acc.getD x))) acc = some a → a ∈ xs ∨ acc = some a := by
  induction xs with
  | nil => exact fun h => .inr h
  | cons x xs ih =>
    intro acc h
    rcases ih h with hmem | hmin
    · exact .inl (List.mem_cons_of_mem _ hmem)
    · cases acc with
      | none => simp_all
      | some b =>
        have := Option.some.inj hmin
        simp only [Option.getD_some] at this
        rcases Nat.le_total x b with hle | hle
        · exact .inl (by simp [← this, Nat.min_eq_left hle])
        · exact .inr (by simp [← this, Nat.min_eq_right hle])

theorem freeRange_spec {s : State} {used : List (Nat × Nat)} {size align a : Nat} (h : freeRange s used size align = some a) :
    a % align = 0 ∧ pageUsable s a size = true ∧ ∀ u ∈ used, meets (a, size) u = false := by
  rcases mem_of_foldl_min h with hmem | hnone
  · obtain ⟨hin, hfree⟩ := List.mem_filter.1 hmem
    obtain ⟨b, -, rfl⟩ := List.mem_map.1 hin
    simp only [Bool.and_eq_true, Bool.not_eq_true', List.any_eq_false, Bool.not_eq_true] at hfree
    exact ⟨Nat.mul_mod_left _ _, hfree⟩
  · cases hnone

/-- A frame of 2 ^ e.2 bytes at e.1 is aligned, usable, and beside some ranges. -/
def FitsBeside (s : State) (used : List (Nat × Nat)) (e : Nat × Nat) : Prop :=
  e.1 % 2 ^ e.2 = 0 ∧ pageUsable s e.1 (2 ^ e.2) = true ∧ ∀ u ∈ used, meets (e.1, 2 ^ e.2) u = false

/-- Two frames share no byte. -/
def Apart (a b : Nat × Nat) : Prop := meets (a.1, 2 ^ a.2) (b.1, 2 ^ b.2) = false

/-- Frames as ranges of bytes. -/
def ranges (fs : List (Nat × Nat)) : List (Nat × Nat) := fs.map (fun e => (e.1, 2 ^ e.2))

theorem FitsBeside.mono {s : State} {used more : List (Nat × Nat)} {e : Nat × Nat} (h : FitsBeside s more e) (hsub : ∀ u ∈ used, u ∈ more) :
    FitsBeside s used e := by
  obtain ⟨halign, husable, hapart⟩ := h
  exact ⟨halign, husable, fun u hu => hapart u (hsub u hu)⟩

theorem freeFrames_spec {s : State} {bits n : Nat} : ∀ {used fs : List (Nat × Nat)}, freeFrames s used bits n = some fs →
    fs.map Prod.snd = List.replicate n bits ∧ (∀ e ∈ fs, FitsBeside s used e) ∧ fs.Pairwise Apart := by
  induction n with
  | zero =>
    intro used fs h
    obtain rfl : [] = fs := Option.some.inj h
    simp
  | succ n ih =>
    intro used fs h
    rw [freeFrames] at h
    split at h
    · cases h
    · next a ha =>
      obtain ⟨rest, hrest, rfl⟩ := Option.map_eq_some_iff.1 h
      obtain ⟨hsizes, hfit, hpairs⟩ := ih hrest
      refine ⟨by simp [hsizes, List.replicate_succ], ?_, List.pairwise_cons.2 ⟨fun e he => ?_, hpairs⟩⟩
      · rintro e (_ | ⟨_, he⟩)
        · exact freeRange_spec ha
        · exact (hfit e he).mono (fun u hu => List.mem_cons_of_mem _ hu)
      · obtain ⟨-, -, hapart⟩ := hfit e he
        exact (meets_comm _ _).trans (hapart _ List.mem_cons_self)

/-- Frames of some sizes that are reserved beside the memory in use, and beside each other. -/
def Reserved (s : State) (sizes : List Nat) (fs : List (Nat × Nat)) : Prop :=
  fs.map Prod.snd = sizes ∧ (∀ e ∈ fs, FitsBeside s (memoryUsed s) e) ∧ fs.Pairwise Apart

theorem Reserved.append {s : State} {sizes : List Nat} {fs more : List (Nat × Nat)} {bits n : Nat} (h : Reserved s sizes fs)
    (hmore : freeFrames s (ranges fs ++ memoryUsed s) bits n = some more) :
    Reserved s (sizes ++ List.replicate n bits) (fs ++ more) := by
  obtain ⟨hsizes, hfit, hpairs⟩ := h
  obtain ⟨hsizes', hfit', hpairs'⟩ := freeFrames_spec hmore
  refine ⟨by rw [List.map_append, hsizes, hsizes'], fun e he => ?_, List.pairwise_append.2 ⟨hpairs, hpairs', fun a ha b hb => ?_⟩⟩
  · exact (List.mem_append.1 he).elim (hfit e) (fun hm => (hfit' e hm).mono (fun u hu => List.mem_append_right _ hu))
  · obtain ⟨-, -, hapart⟩ := hfit' b hb
    exact (meets_comm _ _).trans (hapart _ (List.mem_append_left _ (List.mem_map_of_mem ha)))

/-- Frames of one more size beside those taken so far and the memory in use. -/
def takeFrames (s : State) (acc : Option (List (Nat × Nat))) (e : Nat × Nat) : Option (List (Nat × Nat)) :=
  acc.bind (fun fs => (freeFrames s (ranges fs ++ memoryUsed s) e.1 e.2).map (fun more => fs ++ more))

theorem foldl_takeFrames_none (s : State) (es : List (Nat × Nat)) : es.foldl (takeFrames s) none = none := by
  induction es with
  | nil => rfl
  | cons e es ih => exact ih

/-- Frames taken size by size stay aligned, usable and apart. -/
theorem foldl_takeFrames_spec {s : State} {fs : List (Nat × Nat)} (es : List (Nat × Nat)) : ∀ {sizes : List Nat} {before : List (Nat × Nat)},
    Reserved s sizes before → es.foldl (takeFrames s) (some before) = some fs →
    Reserved s (sizes ++ es.flatMap (fun e => List.replicate e.2 e.1)) fs := by
  induction es with
  | nil =>
    intro sizes before hbefore h
    obtain rfl : before = fs := Option.some.inj h
    simpa using hbefore
  | cons e es ih =>
    intro sizes before hbefore h
    rw [List.foldl_cons] at h
    cases hmore : freeFrames s (ranges before ++ memoryUsed s) e.1 e.2 with
    | none =>
      rw [takeFrames, Option.bind_some, hmore, Option.map_none, foldl_takeFrames_none] at h
      cases h
    | some more =>
      rw [takeFrames, Option.bind_some, hmore, Option.map_some] at h
      simpa [List.append_assoc] using ih (hbefore.append hmore) h

/-- The pages that BIND counts, the largest first (R352). -/
def askedPages (p : Packet) : List (Nat × Nat) :=
  let asked := wordAt (p.payload.drop 33)
  [(38, asked 5), (27, asked 4), (16, asked 3)]


/-- A save area in HBM beside the frames taken and the memory in use. -/
def takeArea (s : State) (y : Copy) (fs : List (Nat × Nat)) : Option Copy :=
  (freeRange s (ranges fs ++ memoryUsed s) (areaBytes y.ctx) 65536).bind
    (fun a => if inHbm a then some { y with frames := fs, area := a } else none)

/-- The frames taken and the search stand as variables in the cases: the kernel would otherwise evaluate both. -/
theorem reserveMemory_eq (s : State) (p : Packet) (y : Copy) :
    reserveMemory s p y = ((askedPages p).foldl (takeFrames s) (some [])).bind (takeArea s y) := by
  have hasked : pageSizes.zip [wordAt (p.payload.drop 33) 5, wordAt (p.payload.drop 33) 4, wordAt (p.payload.drop 33) 3] = askedPages p := rfl
  obtain ⟨taken, htaken⟩ : ∃ taken, (askedPages p).foldl (takeFrames s) (some []) = taken := ⟨_, rfl⟩
  obtain ⟨search, hsearch⟩ : ∃ search, freeRange s = search := ⟨_, rfl⟩
  rw [htaken]
  unfold takeFrames ranges at htaken
  unfold reserveMemory takeArea ranges
  dsimp only
  rw [hasked, htaken, hsearch]
  cases taken with
  | none => rfl
  | some fs =>
    dsimp only [Option.bind_some]
    cases search (fs.map (fun x => (x.1, 2 ^ x.2)) ++ memoryUsed s) (areaBytes y.ctx) 65536 with
    | none => rfl
    | some a => rfl

theorem takeArea_spec {s : State} {y y' : Copy} {fs : List (Nat × Nat)} (h : takeArea s y fs = some y') :
    ∃ a, y' = { y with frames := fs, area := a } ∧ inHbm a = true ∧
      freeRange s (ranges fs ++ memoryUsed s) (areaBytes y.ctx) 65536 = some a := by
  obtain ⟨a, ha, h⟩ := Option.bind_eq_some_iff.1 h
  obtain ⟨hhbm, h⟩ := Option.ite_none_right_eq_some.1 h
  exact ⟨a, (Option.some.inj h).symm, hhbm, ha⟩

/-- What BIND reserves: the frames asked for, then the save area beside them (R352). -/
theorem reserveMemory_spec {s : State} {p : Packet} {y y' : Copy} (h : reserveMemory s p y = some y') :
    ∃ fs a, y' = { y with frames := fs, area := a } ∧ Reserved s ((askedPages p).flatMap (fun e => List.replicate e.2 e.1)) fs ∧
      inHbm a = true ∧ freeRange s (ranges fs ++ memoryUsed s) (areaBytes y.ctx) 65536 = some a := by
  rw [reserveMemory_eq] at h
  obtain ⟨fs, hfs, harea⟩ := Option.bind_eq_some_iff.1 h
  obtain ⟨a, rfl, hhbm, ha⟩ := takeArea_spec harea
  have hnone : Reserved s [] [] := ⟨rfl, by simp, List.Pairwise.nil⟩
  exact ⟨fs, a, rfl, foldl_takeFrames_spec (askedPages p) hnone hfs, hhbm, ha⟩

theorem bindReservesWhatTheContextNeeds : Claims.BindReservesWhatTheContextNeeds := by
  intro s p y hbound asked
  obtain ⟨k, hslot, hrest⟩ := Option.bind_eq_some_iff.1 hbound
  have hk : slotFree s k = true ∧ ctxmOf (spGet [] s.link.code k) = (p.payload.drop 1).take 32 := by
    simpa using List.find?_some hslot
  simp only at hrest
  split at hrest
  · next hchip =>
    obtain ⟨fs, a, rfl, ⟨hsizes, hfit, hpairs⟩, hhbm, harea⟩ := reserveMemory_spec hrest
    obtain ⟨-, husable, hapart⟩ := freeRange_spec harea
    exact ⟨hk.1, hk.2, hchip, rfl, rfl, rfl, hsizes.trans (by simp [askedPages, asked]), hfit, hpairs, hhbm, husable,
      fun u hu => hapart u (List.mem_append_right _ hu),
      fun e he => hapart _ (List.mem_append_left _ (List.mem_map_of_mem he))⟩
  · cases hrest

/-- Settles O57: each phase by the outcomes of its tests; what a dropped arrival leaves by the wipes of its frames; what BIND reserves by an
invariant of the frames taken so far. -/
theorem ranksFly : Obligations.RanksFly :=
  ⟨fliesLeaveTheirSource, fliesArriveParked, abandonedFliesLeaveNothingBehind, bindReservesWhatTheContextNeeds⟩

end Sys2Proof.Machine
end
